-- ==== Sys2Proof/Word.lean ====
section
/-!
DEFINITION. The word types of the model and the table type that holds sparse register files.
-/
namespace Sys2Proof

/-- A byte of memory. -/
abbrev Byte := BitVec 8

/-- A scalar register's value (R97). -/
abbrev Word := BitVec 64

/-- A vector register's value: lane `i` is bits `32 i + 31 : 32 i` (R117, R179). -/
abbrev Vec := BitVec 1024

/-- A sparse table: keys with their values, in rising order of key. A key that is not listed
holds the default value its reader names. -/
abbrev Tab (α : Type) := List (Nat × α)

end Sys2Proof
end

