-- ==== Sys2Proof/Config.lean ====
section
/-!
DEFINITION. What the spec fixes as a number of the part, and the values the spec leaves open. A value the spec leaves
open is an opaque constant with no body: no proof can see what it is.
-/
namespace Sys2Proof.Config

/-- Free values: the `i`-th value the spec leaves open while a program runs (03 R64, 16 R236, 17 R353, 11 R222).
DESIGN CHOICE, safe: log entry 4. -/
opaque free : Nat → BitVec 1024

/-- What a byte of a memory reads as when reset does not define it (00 R4, 10 R200): some value, the same at every read
of address `a` after the `e`-th reset until it is written. DESIGN CHOICE, safe: log entry 6. -/
opaque undefByte : (e a : Nat) → Byte

/-- SHA-256, as the attestation report uses it (20 R420); the spec names the function only. Safe: log entry 7. -/
opaque sha256 : List Byte → BitVec 256

/-- The device's ECDSA P-256 signature under its identity key (20 R420). Safe: log entry 7. -/
opaque sign : List Byte → BitVec 512

/-- The ROM and the firmware configuration (20 R419, R420). Safe: log entry 7. -/
opaque romImage : List Byte
opaque fwConfig : List Byte

/-- The firmware image that the ROM loads at the `e`-th reset, with its public key and its version (20 R416, R419). Safe: log entry 7. -/
opaque fwImage : (e : Nat) → List Byte
opaque imageKey : (e : Nat) → List Byte
opaque imageVersion : (e : Nat) → BitVec 32

/-- The device certificate (20 R420): what REPORT holds until the first command. Safe: log entry 7. -/
opaque certificate : BitVec 30720

/-- The fuses: the hash of the key, and the minimum version (20 R419). Safe: log entry 7. -/
opaque fusedKeyHash : BitVec 256
opaque fusedMin : BitVec 32

/-- The check of the image of the `e`-th reset (20 R419): its signature, which the event reports, its key's hash against the fused one, its version against the fused
minimum. -/
def imagePasses (e : Nat) (signed : Bool) : Bool := signed && sha256 (imageKey e) == fusedKeyHash && decide (fusedMin.toNat ≤ (imageVersion e).toNat)

/-- The number firmware gives this package (20 R413, R416). Safe: log entry 7. -/
opaque pkg : BitVec 16

/-- The clusters of the part: 16 sockets of two (01 R12, R13). -/
def numClusters : Nat := 32

/-- Cores of a cluster (01 R13). -/
def coresPerCluster : Nat := 96

/-- Contexts of a core (02 R37). -/
def ctxPerCore : Nat := 4

/-- The memory dies of the grid of sockets (01 R12). -/
def memorySockets : List Nat := [0, 3, 4, 7, 8, 11]

/-- The compute dies of the grid of sockets (01 R12). -/
def computeSockets : List Nat := [1, 2, 5, 6, 9, 10, 13, 14]

/-- The I/O dies of the grid of sockets (01 R12). -/
def ioSockets : List Nat := [12, 15]

/-- Buffer entries of a virtual channel at the receiver of a link, beyond the first: the fabric sets them per channel (18 R384). -/
opaque vcDepth : Nat → Nat

end Sys2Proof.Config
end

