-- ==== Sys2Proof/Syntax.lean ====
section
/-!
DEFINITION. The syntax of the machine's steps: one constructor of `Instr` for each row of spec/opcode_table.json.
Rows 0 to 211 are slot instructions (03_bundles R56 to R61, R71 to R80). Rows 212 to 280 are the events of
95_what_each_step_holds; the operands of an event are what the outside world or the physics of the part decides
about it (which context, whether a reference chain passed, what firmware chose).
-/
namespace Sys2Proof

/-- A guard field: the negate bit N in bit 6, the predicate's number in bits 5 to 0 (R52). -/
abbrev Guard := BitVec 7

/-- Floating type codes of R73. -/
inductive FTy where
  | f32 | bf16 | f16
deriving DecidableEq, Repr

/-- Integer type codes of R73. -/
inductive ITy where
  | i32 | i16 | i8
deriving DecidableEq, Repr

/-- Variants of the reductions (R192). -/
inductive RTy where
  | f32 | bf16 | f16 | i32
deriving DecidableEq, Repr

/-- Block formats of VPKBX and VUPBX (R191). -/
inductive BTy where
  | bx8 | bx4
deriving DecidableEq, Repr

/-- Conversion formats of VCVT (R75). -/
inductive CFmt where
  | f32 | bf16 | f16 | i32 | i16 | i8 | e4m3 | e5m2
deriving DecidableEq, Repr

/-- Conditions of CMP (R72). -/
inductive Cond where
  | eq | ne | lt | ge | le | gt | ltu | geu | leu | gtu | tst | ntst
deriving DecidableEq, Repr

/-- Conditions of VCMP (R74). -/
inductive FCond where
  | eq | ne | lt | le | gt | ge | un | or
deriving DecidableEq, Repr

/-- Conditions of VICMP (R74). -/
inductive ICond where
  | eq | ne | lt | le | gt | ge | ltu | geu
deriving DecidableEq, Repr

/-- Rounding modes (R57, R125). -/
inductive RMode where
  | rne | rtz | rdn | rup
deriving DecidableEq, Repr

/-- Hold codes 00, 01 and 10 (R57). -/
inductive Hold where
  | read | latch | held
deriving DecidableEq, Repr

/-- Scope codes (R59, R232). -/
inductive Scope where
  | u | c | d | p | s
deriving DecidableEq, Repr

/-- A vector source with its hold code; the register field of a held operand is ignored (R57). -/
structure VSrc where
  hold : Hold
  n : BitVec 10
deriving DecidableEq, Repr

/-- Operand b of a vector instruction: a register, or a literal broadcast to all lanes (R57). -/
inductive VSrcB where
  | reg (src : VSrc)
  | lit (i : BitVec 2)
deriving DecidableEq, Repr

/-- Forms A and F: two sources (R57). -/
structure VBin where
  g : Guard
  rm : RMode
  sat : Bool
  vd : BitVec 10
  a : VSrc
  b : VSrcB
deriving DecidableEq, Repr

/-- Form U: one source (R57). -/
structure VUn where
  g : Guard
  rm : RMode
  sat : Bool
  vd : BitVec 10
  a : VSrc
deriving DecidableEq, Repr

/-- Form C: a compare into two predicates (R57). -/
structure VCm where
  g : Guard
  pd : BitVec 6
  pe : BitVec 6
  a : VSrc
  b : VSrcB
deriving DecidableEq, Repr

/-- The token fields of the T and C slots (R58, R60). -/
structure Toks where
  kin0 : BitVec 4
  kin1 : BitVec 4
  kin2 : BitVec 4
  kout : BitVec 4
deriving DecidableEq, Repr

/-- Plain address form of the L and ST slots (R59). -/
structure MemP where
  g : Guard
  t : BitVec 10
  base : BitVec 6
  off : BitVec 19
deriving DecidableEq, Repr

/-- Scoped address form of the L and ST slots (R59). -/
structure MemS where
  g : Guard
  t : BitVec 10
  base : BitVec 6
  scope : Scope
  off : BitVec 16
deriving DecidableEq, Repr

/-- Lock form of LDL and STU (R268). -/
structure MemL where
  g : Guard
  t : BitVec 10
  base : BitVec 6
  off : BitVec 13
  pd : BitVec 6
deriving DecidableEq, Repr

/-- Gather and scatter form (R262). -/
structure MemG where
  g : Guard
  t : BitVec 10
  base : BitVec 6
  vi : BitVec 10
  scale : BitVec 3
deriving DecidableEq, Repr

/-- The C slot's common fields; `flags` is FLAGS (R60). -/
structure CopyF where
  g : Guard
  a : BitVec 6
  toks : Toks
  flags : BitVec 6
deriving DecidableEq, Repr

/-- Ring-block form Q of the Y slot (R61, R291). -/
structure RingF where
  g : Guard
  p : BitVec 6
  r : BitVec 6
  x : BitVec 6
deriving DecidableEq, Repr

/-- The steps of the machine: one constructor for each row of spec/opcode_table.json. -/
inductive Instr where
  /-- A slot whose bits are all zero (R54). -/
  | nop
  -- S slot, forms R and I (R157)
  | add (g : Guard) (d a b : BitVec 6)
  | addImm (g : Guard) (d a : BitVec 6) (imm : BitVec 18)
  | sub (g : Guard) (d a b : BitVec 6)
  | subImm (g : Guard) (d a : BitVec 6) (imm : BitVec 18)
  | and (g : Guard) (d a b : BitVec 6)
  | andImm (g : Guard) (d a : BitVec 6) (imm : BitVec 18)
  | or (g : Guard) (d a b : BitVec 6)
  | orImm (g : Guard) (d a : BitVec 6) (imm : BitVec 18)
  | xor (g : Guard) (d a b : BitVec 6)
  | xorImm (g : Guard) (d a : BitVec 6) (imm : BitVec 18)
  | andn (g : Guard) (d a b : BitVec 6)
  | andnImm (g : Guard) (d a : BitVec 6) (imm : BitVec 18)
  | shl (g : Guard) (d a b : BitVec 6)
  | shlImm (g : Guard) (d a : BitVec 6) (n : BitVec 6)
  | shr (g : Guard) (d a b : BitVec 6)
  | shrImm (g : Guard) (d a : BitVec 6) (n : BitVec 6)
  | sra (g : Guard) (d a b : BitVec 6)
  | sraImm (g : Guard) (d a : BitVec 6) (n : BitVec 6)
  | mul (g : Guard) (d a b : BitVec 6)
  | mulImm (g : Guard) (d a : BitVec 6) (imm : BitVec 18)
  | mulh (g : Guard) (d a b : BitVec 6)
  | mulhImm (g : Guard) (d a : BitVec 6) (imm : BitVec 18)
  | mulhu (g : Guard) (d a b : BitVec 6)
  | mulhuImm (g : Guard) (d a : BitVec 6) (imm : BitVec 18)
  | div (g : Guard) (d a b : BitVec 6)
  | divImm (g : Guard) (d a : BitVec 6) (imm : BitVec 18)
  | divu (g : Guard) (d a b : BitVec 6)
  | divuImm (g : Guard) (d a : BitVec 6) (imm : BitVec 18)
  | rem (g : Guard) (d a b : BitVec 6)
  | remImm (g : Guard) (d a : BitVec 6) (imm : BitVec 18)
  | remu (g : Guard) (d a b : BitVec 6)
  | remuImm (g : Guard) (d a : BitVec 6) (imm : BitVec 18)
  | min (g : Guard) (d a b : BitVec 6)
  | minImm (g : Guard) (d a : BitVec 6) (imm : BitVec 18)
  | max (g : Guard) (d a b : BitVec 6)
  | maxImm (g : Guard) (d a : BitVec 6) (imm : BitVec 18)
  | minu (g : Guard) (d a b : BitVec 6)
  | minuImm (g : Guard) (d a : BitVec 6) (imm : BitVec 18)
  | maxu (g : Guard) (d a b : BitVec 6)
  | maxuImm (g : Guard) (d a : BitVec 6) (imm : BitVec 18)
  -- S slot, forms U, E, A, K (R158 to R161)
  | clz (g : Guard) (d a : BitVec 6)
  | ctz (g : Guard) (d a : BitVec 6)
  | popc (g : Guard) (d a : BitVec 6)
  | mov (g : Guard) (d a : BitVec 6)
  | sext (g : Guard) (d a : BitVec 6) (n : BitVec 7)
  | zext (g : Guard) (d a : BitVec 6) (n : BitVec 7)
  | lea (g : Guard) (d a b : BitVec 6) (scale : BitVec 3) (disp : BitVec 9)
  | lit (g : Guard) (d : BitVec 6) (pair : Bool) (i : BitVec 2)
  -- S slot, forms C, CK, P (R162, R163)
  | cmp (g : Guard) (cc : Cond) (pd pe : BitVec 6) (a b : BitVec 6)
  | cmpLit (g : Guard) (cc : Cond) (pd pe : BitVec 6) (a : BitVec 6) (pair : Bool) (i : BitVec 2)
  | pand (g : Guard) (pd pa pb : BitVec 6)
  | por (g : Guard) (pd pa pb : BitVec 6)
  | pxor (g : Guard) (pd pa pb : BitVec 6)
  | pandn (g : Guard) (pd pa pb : BitVec 6)
  | pfroms (g : Guard) (pd : BitVec 6) (a : BitVec 6)
  | ptos (g : Guard) (d : BitVec 6) (pa : BitVec 6)
  | pcnt (g : Guard) (d : BitVec 6) (pa : BitVec 6)
  | pfirst (g : Guard) (d : BitVec 6) (pa : BitVec 6)
  -- S slot, forms B, J, O, M, T (R164 to R178)
  | br (g : Guard) (off : BitVec 30)
  | bri (g : Guard) (a : BitVec 6)
  | call (g : Guard) (off : BitVec 30)
  | calli (g : Guard) (d a : BitVec 6)
  | ret (g : Guard) (a : BitVec 6)
  | loop (g : Guard) (lvl : BitVec 2) (a : BitVec 6) (span : BitVec 18)
  | loopx (g : Guard) (lvl : BitVec 2)
  | mfsr (g : Guard) (d : BitVec 6) (n : BitVec 12)
  | mtsr (g : Guard) (a : BitVec 6) (n : BitVec 12)
  | pswWrite (g : Guard) (a : BitVec 6)
  | promoteWrite (g : Guard) (a : BitVec 6)
  | droopthWrite (g : Guard) (a : BitVec 6)
  | droopstWrite (g : Guard) (a : BitVec 6)
  | barvalWrite (g : Guard) (a : BitVec 6)
  | trap (g : Guard) (code : BitVec 12)
  | dhop (g : Guard) (d a b : BitVec 6)
  -- VA and VB slots (R183 to R198)
  | vadd (t : FTy) (o : VBin)
  | vsub (t : FTy) (o : VBin)
  | vmul (t : FTy) (o : VBin)
  | vfma (t : FTy) (o : VBin)
  | vfms (t : FTy) (o : VBin)
  | vfnma (t : FTy) (o : VBin)
  | vmin (t : FTy) (o : VBin)
  | vmax (t : FTy) (o : VBin)
  | vabs (t : FTy) (o : VUn)
  | vneg (t : FTy) (o : VUn)
  | vcpys (t : FTy) (o : VBin)
  | vclamp (t : FTy) (o : VBin)
  | vrnd (t : FTy) (o : VUn)
  | vsqrt (o : VUn)
  | vrcp (o : VUn)
  | vrsq (o : VUn)
  | vexp2 (o : VUn)
  | vlog2 (o : VUn)
  | vsig (o : VUn)
  | vtanh (o : VUn)
  | viadd (t : ITy) (o : VBin)
  | visub (t : ITy) (o : VBin)
  | vimul (t : ITy) (o : VBin)
  | vimulh (t : ITy) (o : VBin)
  | vimad (t : ITy) (o : VBin)
  | vimin (t : ITy) (o : VBin)
  | vimax (t : ITy) (o : VBin)
  | viabs (t : ITy) (o : VUn)
  | vshl (t : ITy) (o : VBin)
  | vshr (t : ITy) (o : VBin)
  | vsra (t : ITy) (o : VBin)
  | vand (o : VBin)
  | vor (o : VBin)
  | vxor (o : VBin)
  | vcmp (t : FTy) (cc : FCond) (o : VCm)
  | vicmp (t : ITy) (cc : ICond) (o : VCm)
  | vsel (o : VBin)
  | vcvt (src dst : CFmt) (o : VUn)
  | vpkbx (t : BTy) (o : VUn)
  | vupbx (t : BTy) (o : VUn)
  | vredAdd (t : RTy) (o : VUn)
  | vredMin (t : RTy) (o : VUn)
  | vredMax (t : RTy) (o : VUn)
  | vperm (o : VBin)
  | vbcast (o : VUn) (lane : BitVec 5)
  | vslide (o : VUn) (n : BitVec 6)
  | vmovs (g : Guard) (vd : BitVec 10) (a : BitVec 6) (lane : BitVec 5)
  | vext (g : Guard) (d : BitVec 6) (a : VSrc) (lane : BitVec 5)
  | vmov (o : VUn)
  | vlit (g : Guard) (vd : BitVec 10) (i : BitVec 2)
  | vrdacc (g : Guard) (vd : BitVec 10) (bank : BitVec 3) (row : BitVec 4)
  | vwracc (g : Guard) (bank : BitVec 3) (row : BitVec 4) (a : VSrc)
  | vpop (g : Guard) (vd : BitVec 10) (q : BitVec 3)
  -- T slot (R349)
  | mma (g : Guard) (strm : Bool) (tda tdb : BitVec 5) (acc : BitVec 3) (k : Toks)
  | mmaz (g : Guard) (strm : Bool) (tda tdb : BitVec 5) (acc : BitVec 3) (k : Toks)
  | rmin (g : Guard) (tdd tda : BitVec 5) (k : Toks)
  | rmax (g : Guard) (tdd tda : BitVec 5) (k : Toks)
  | rsort (g : Guard) (tdd tda : BitVec 5) (k : Toks)
  | rtopk (g : Guard) (tdd tda : BitVec 5) (k1 : BitVec 5) (k : Toks)
  | wload (g : Guard) (tdb : BitVec 5) (k : Toks)
  | wswap (g : Guard) (k : Toks)
  | tepi (g : Guard) (tdd : BitVec 5) (bias : Bool) (fn : BitVec 2) (sat : Bool) (tdb : BitVec 5) (acc : BitVec 3) (k : Toks)
  | tew (g : Guard) (tdd tda tdb : BitVec 5) (op : BitVec 3) (k : Toks)
  | tdrain (g : Guard) (q : BitVec 3) (row : BitVec 4) (n1 : BitVec 4) (acc : BitVec 3) (k : Toks)
  | force (g : Guard) (tdd : BitVec 5) (mode : BitVec 2) (acc : BitVec 3)
  | tstore (g : Guard) (tdd tda : BitVec 5) (bank : Bool) (rm : RMode) (sat : Bool) (acc : BitVec 3) (k : Toks)
  | tdrop (g : Guard) (all : Bool) (kin0 : BitVec 4)
  | tdld (g : Guard) (tdd : BitVec 5) (base : BitVec 6) (off : BitVec 7)
  | acz (g : Guard) (acc : BitVec 3)
  | scribe (g : Guard)
  -- L slot (R260 to R268)
  | ldB (m : MemP)
  | ldBu (m : MemP)
  | ldH (m : MemP)
  | ldHu (m : MemP)
  | ldW (m : MemP)
  | ldWu (m : MemP)
  | ldD (m : MemP)
  | vld (m : MemP)
  | vldb (m : MemP)
  | vgath (m : MemG)
  | ldlW (m : MemL)
  | ldlD (m : MemL)
  | ldacqW (m : MemS)
  | ldacqD (m : MemS)
  | pld (m : MemP)
  -- ST slot (R260 to R269)
  | stB (m : MemP)
  | stH (m : MemP)
  | stW (m : MemP)
  | stD (m : MemP)
  | vst (m : MemP)
  | vscat (m : MemG)
  | stuW (m : MemL)
  | stuD (m : MemL)
  | strelW (m : MemS)
  | strelD (m : MemS)
  | aaddW (m : MemS)
  | aaddD (m : MemS)
  | aminW (m : MemS)
  | aminD (m : MemS)
  | amaxW (m : MemS)
  | amaxD (m : MemS)
  | axchW (m : MemS)
  | axchD (m : MemS)
  | acasW (m : MemS)
  | acasD (m : MemS)
  | stq (m : MemP)
  | pst (m : MemP)
  -- C slot (R270 to R283)
  | cpy (c : CopyF)
  | cpyil (c : CopyF)
  | cgath (c : CopyF)
  | tmv (c : CopyF)
  | ccoll (c : CopyF)
  | cflush (c : CopyF)
  | cpq (c : CopyF)
  | cpre (c : CopyF)
  -- Y slot (R61, R80)
  | wait (g : Guard) (wl ws wc wt : BitVec 4)
  | waitk (g : Guard) (k : BitVec 4)
  | waitdc (g : Guard) (n : BitVec 9) (d : BitVec 6)
  | drain (g : Guard) (scope : Scope)
  | bara (g : Guard) (b : BitVec 5)
  | barw (g : Guard) (b : BitVec 5)
  | bart (g : Guard) (b : BitVec 5) (p : BitVec 6)
  | snap (g : Guard) (d : BitVec 6)
  | gview (g : Guard) (d a : BitVec 6)
  | spawn (g : Guard) (d a b : BitVec 6)
  | grow (g : Guard) (d a : BitVec 6)
  | suspend (g : Guard)
  | exit (g : Guard)
  | yield (g : Guard)
  | qacq (q : RingF)
  | qcommit (q : RingF)
  | qpeek (q : RingF)
  | qrel (q : RingF)
  | eret (g : Guard)
  | dcset (g : Guard) (n : BitVec 9) (a : BitVec 6)
  | timer (g : Guard) (d a b : BitVec 6)
  | brkpt (g : Guard)
  -- events of the package, the dispatcher and firmware
  /-- The dispatcher issues the next index of a striped grid; `rec` is the free record it chooses (R28, R317). -/
  | dispatchIndex (grid : Nat) (rec : BitVec 32)
  /-- Context `k` binds the first ready continuation that fits it (R34, R35, R40). -/
  | bind (k : Nat)
  /-- Context `k` resumes the first saved continuation that fits it (R401). -/
  | resume (k : Nat)
  /-- The dispatcher accepts the SPAWN or GROW that stalls context `k`; `rec` is the free record it chooses (R317, R319). -/
  | dispatcherAccept (k : Nat) (rec : BitVec 32)
  /-- The condition of context `k` clears and the selector gives issue to the best ready context of its core (R38). -/
  | contextUnblock (k : Nat)
  /-- The pair of context `k` meets at its RDV bundle (R398). -/
  | rendezvous (k : Nat)
  /-- The prefetch engine expands the successor block of context `k` (R44). -/
  | prefetchBlock (k : Nat)
  /-- The redirected fetch of context `k` delivers the addressed block (R45). -/
  | fetchRedirect (k : Nat)
  /-- The engine of slot `eng` accepts the oldest instruction waiting for it in context `k` (R65). -/
  | engineAccept (k : Nat) (eng : BitVec 3)
  /-- The oldest result of context `k` that is due, and not a load's, lands (R64). -/
  | resultLands (k : Nat)
  /-- The oldest load of context `k` that is due lands and LDC falls (R257). -/
  | loadRetire (k : Nat)
  /-- The oldest accepted store of context `k` performs and STC falls (R257). -/
  | storePerform (k : Nat)
  /-- The first request that waits for lock `lock` is granted it (R267). -/
  | lockGrant (lock : Nat)
  /-- Lock `lock` has been held for 64 cycles and becomes free (R267). -/
  | lockTimeout (lock : Nat)
  /-- The LDL of context `k` has waited 256 cycles and fails (R268). -/
  | ldlGrantTimeout (k : Nat)
  /-- The step trap of context `k` is taken (R403). -/
  | stepTrap (k : Nat)
  /-- Context `k` serves its pre-emption request at the boundary (R399). -/
  | preemptSave (k : Nat)
  /-- A free copy channel, or a tile-move engine, starts command `id` (R302). -/
  | copyStart (id : Nat)
  /-- The next piece of command `id` performs; `good`: it succeeds in transport (R272, R406). `ecc`: its source has an uncorrectable error (MEMERR). -/
  | copyPiece (id : Nat) (good : Bool) (ecc : Bool)
  /-- Command `id` completes (R277). -/
  | copyComplete (id : Nat)
  /-- The landing of command `id` held by the alias filter performs (R335). -/
  | landingRelease (id : Nat)
  /-- The Kerf runs the next pass demanded by context `k`; `good`: its reference chains pass (R137, R144). -/
  | kerfPass (k : Nat) (good : Bool)
  /-- The race row runs the next row demanded by context `k`; `good`: its reference chain passes (R147, R144). -/
  | racePass (k : Nat) (good : Bool)
  /-- The next demanded WLOAD, WSWAP, TEPI, TEW or TDRAIN node of context `k` runs (R350). -/
  | nodeRun (k : Nat)
  /-- The oldest complete node of context `k` retires, or a node that a token with ERR fails is removed (R331, R332). -/
  | nodeRetire (k : Nat)
  /-- The calibration on core `core` finishes with these codes, this gain and this temperature (R149). -/
  | scribeComplete (core : Nat) (codes : List (BitVec 7)) (gain : BitVec 16) (temp : BitVec 8)
  /-- Timer slot `slot` of cluster `cl` expires (R382). -/
  | timerExpiry (cl : BitVec 5) (slot : BitVec 6)
  /-- The owner at socket `die` reports done (R221). -/
  | cutDone (die : BitVec 4)
  /-- The oldest write held for the reserve at die `die` proceeds (R228). -/
  | heldWriteRelease (die : BitVec 4)
  /-- Scarf on die `die` moves its next version to the snapshot store (R227). -/
  | scarfDrain (die : BitVec 4)
  /-- The dispatcher refills a ready queue from the overflow ring of region `r` (R304). -/
  | overflowRefill (r : Nat)
  /-- The clusters in `clusters` begin a cycle of their arithmetic clock (R381). -/
  | arithmeticClockCycle (clusters : BitVec 32)
  -- events of the outside world and of firmware, and those without a choice of time
  /-- The dispatcher issues the next gang of a mapped grid (R29); `recs` are the free records it chooses. -/
  | dispatchGang (grid : Nat) (recs : List (BitVec 32))
  /-- Cold reset; `good`: the firmware image passes the check of R419; `reserveGiB`: the reserve size firmware sets (R216). -/
  | coldReset (good : Bool) (reserveGiB : BitVec 7)
  /-- Warm reset; `good`: the reloaded image passes the check of R419. -/
  | warmReset (good : Bool)
  /-- Firmware consumes the next launch of `queue` of `port` (R286, R288). `rcbVa` is where it keeps the resolved RCB,
  `lrec` the offset it chooses for the loop record (R310, R315). -/
  | launchGrid (port : BitVec 1) (queue : BitVec 4) (rcbVa : BitVec 64) (lrec : BitVec 28)
  /-- Firmware consumes the next launch of `queue` of `port`, a drop (R219, R288). -/
  | dropSnapshot (port : BitVec 1) (queue : BitVec 4)
  /-- Context `k` consumes an uncorrectable ECC error and rewinds (R394). -/
  | ueccConsumed (k : Nat)
  /-- The signatures of the pair of context `k` mismatch; the pair rewinds (R397). -/
  | sigmis (k : Nat)
  /-- The scheduler directs a pre-emption at context `k`, with a save frame at `frame` (R47, R399). -/
  | preemptRequest (k : Nat) (frame : BitVec 32)
  /-- Context `k` has passed its pre-emption bound (R49). -/
  | preemptBoundExpiry (k : Nat)
  /-- Firmware writes a calibration register of core `core`: 0 to 63 KTRIM, 64 KGAIN, 65 KCAL (R153). -/
  | kerfFirmwareWrite (core : Nat) (reg : BitVec 7) (value : BitVec 64)
  /-- The supply of cluster `cl` falls `depth` millivolts below nominal (R415). -/
  | droopAlarm (cl : BitVec 5) (depth : BitVec 7)
  /-- The arbiter grants budgets; bit `d` of `exceeded`: die `d` exceeded its last grant (R414). -/
  | powerGrant (exceeded : BitVec 16)
  /-- The held writes of region `r` exceed its stall budget (R228). -/
  | genfull (r : Nat)
  /-- The held operations of region `r` exceed its stall budget; firmware enlarges the ring to `slots` record slots,
  or with 0 fails the region with BUDGET (R306). -/
  | spillfull (r : Nat) (slots : BitVec 25)
  /-- Firmware migrates the page of virtual die `v` at offset `off` of region `r` to frame `frame` with placement `place` (R213). -/
  | pageMigration (r : Nat) (v : BitVec 4) (off : BitVec 52) (frame : BitVec 52) (place : BitVec 2)
  /-- The host at `port` writes `bytes` from offset `off`: of the window (`space` 0), of its mailbox (1) or of its own memory (2) (R252, R416). -/
  | hostWrite (port : BitVec 1) (space : BitVec 2) (off : BitVec 52) (bytes : List Byte)
  /-- A receiver's FREED count `freed` arrives at link end `link`, channel `vc` (R384). -/
  | creditReturn (link : Nat) (vc : BitVec 2) (freed : BitVec 16)
  /-- An audit flit with the sender's SENT count `sent` arrives at link end `link`, channel `vc` (R384). -/
  | creditAudit (link : Nat) (vc : BitVec 2) (sent : BitVec 16)
  /-- A flit at the router of socket `die` is uncorrectable and repeated, or (`fec`) corrected in place (R405). -/
  | selectiveRepeat (die : BitVec 4) (fec : Bool)
  /-- Link `link` retrains; `good`: it comes up again (R406). -/
  | linkRetrain (link : BitVec 5) (good : Bool)
  /-- Link `link` stays down (R407). -/
  | linkDown (link : BitVec 5)
  /-- A conventional reset or link-down of host port `port` (R410). -/
  | hostPortReset (port : BitVec 1)
  /-- The link of host port `port` comes up again (R410). -/
  | hostLinkUp (port : BitVec 1)
  /-- Firmware runs mailbox command 1 of `port` (R420). -/
  | attestationReport (port : BitVec 1)
  /-- Firmware finishes a mailbox command of `port` that is not listed (R418). -/
  | mailboxIgnored (port : BitVec 1)
  /-- The ageing oscillator of socket `die` is refreshed to `count`; firmware's model gives `eol` (R385). -/
  | ageoscRefresh (die : BitVec 4) (count : BitVec 64) (eol : BitVec 64)
  /-- Firmware allocates a page for region `r`: virtual die `v`, offset `off`, 32 MiB if `big`, frame and placement; the tables it
  chooses for the levels below are `t1` and `t2` (R211, R314). -/
  | pageAllocation (r : Nat) (v : BitVec 4) (off : BitVec 52) (big : Bool) (frame : BitVec 52) (place : BitVec 2) (write pin : Bool) (t1 t2 : BitVec 52)
  /-- The CXL port `p` (0 to 3) of I/O die `die` goes down (R411). -/
  | cxlPortLinkDown (die : BitVec 4) (p : BitVec 2)
  /-- A step of the collective of command `id`; `good`: it succeeds in transport and the members agree (R280).
  `others` are the elements the members outside this package send, in rank order (R279). -/
  | collectiveStep (id : Nat) (good : Bool) (others : List (List Byte))
  /-- The coordinator sends CUT and the sources switch their stamps (R221). -/
  | cut
  /-- The cut completes (R221). -/
  | open_
  /-- The dispatcher writes the completion of the oldest ended launch not yet reported (R289). -/
  | writeCompletion
  /-- TIME advances by one nanosecond (R21). -/
  | packageTimebaseTick
  /-- The stretch of cluster `cl` ends (R415). -/
  | stretchEnd (cl : BitVec 5)
  /-- The halved issue of cluster `cl` ends (R415). -/
  | halfIssueEnd (cl : BitVec 5)
  /-- The `i`-th ready continuation ages by one step (R41). -/
  | agingStep (i : Nat)
  /-- A late fault in a landing's demand is taken at the next slot of context `k` (R340). -/
  | landingLateFault (k : Nat)
deriving DecidableEq, Repr

end Sys2Proof
end

