-- ==== Sys2Proof/Machine/State.lean ====
section
/-!
DEFINITION. The state of the package, as plain data, and the machine right after reset.
A context is named by `k = 4 * core + context`, a core by `96 * cluster + core` and a cluster by `2 * socket + c`
(01 R12, R13; 02 R37). Tables that list no entry for a key hold the default of their type.
-/
namespace Sys2Proof.Machine

/-! ### Memory -/

/-- The memories of the package (10 R200): the bytes that are listed, in rising order of their physical address. What an unlisted byte reads
as depends on the address and on the last reset alone: `warm` if that was a warm reset, the `epoch`-th (`Memory.unlisted`). -/
structure Memory where
  cells : List Host.Cell
  epoch : Nat
  warm : Bool
deriving DecidableEq, Repr

/-! ### Tokens, results in flight, memory operations -/

/-- The three states of a token register (05 R104). -/
inductive TokState where
  | none | pending | produced
deriving DecidableEq, Repr

/-- A token register: state, ERR, and the producer it is bound to (05 R104). -/
structure Token where
  st : TokState
  err : Bool
  bind : Nat
deriving DecidableEq, Repr

/-- What a result is written to (03 R64). `row` is a bank row, `16 * bank + row` (09 R195). -/
inductive Dest where
  | none
  | sreg (n : Nat)
  | preg (n : Nat)
  | vreg (n : Nat)
  | td (n : Nat)
  | row (n : Nat)
deriving DecidableEq, Repr

/-- The outstanding-operation counter that a result decrements when it lands (18 R370). `ldp` and `stp` name the predicates of LDL and STU, which
decrement none. -/
inductive Ctr where
  | none | ldc | stc | tlc | ldp | stp
deriving DecidableEq, Repr

/-- A result on its way to its register (03 R64): `mask` names the lanes it writes, `seq` its bundle,
`nominal` its nominal landing cycle, `due` the cycle from which it can land once its engine has accepted it (`acc`). -/
structure Flight where
  dest : Dest
  mask : BitVec 32
  val : Vec
  seq : Nat
  nominal : Nat
  due : Nat
  acc : Bool
  ctr : Ctr
deriving DecidableEq, Repr

/-- How an L-slot instruction treats what it reads (13 R260 to R268). -/
inductive LoadKind where
  | scalar (sx : Bool)
  | pred
  | vec
  | bcast
  | acquire
  | lock (pd : Nat)
  | none
deriving DecidableEq, Repr

/-- An L-slot operation: the physical ranges it reads, in order, and where the value goes; `span`: its scratchpad addresses and lengths. -/
structure LoadOp where
  kind : LoadKind
  dest : Dest
  parts : List (Nat × Nat)
  span : List (Nat × Nat)
  lat : Nat
deriving DecidableEq, Repr

/-- The operations of the atomics (13 R269). -/
inductive AtomOp where
  | add | min | max | xch | cas
deriving DecidableEq, Repr

/-- How an ST-slot instruction acts at memory (13 R260 to R269). -/
inductive StoreKind where
  | plain
  | release
  | unlock (pd : Nat)
  | atomic (op : AtomOp) (t : Nat) (x y : Word)
  | none
deriving DecidableEq, Repr

/-- An ST-slot operation: the bytes it stores, at physical addresses, or the granule an atomic acts on; `span`: its scratchpad addresses
and lengths, as the alias filter tests them (16 R334); `scope`: the effective scope of its release side (12 R233). -/
structure StoreOp where
  kind : StoreKind
  bytes : List Host.Cell
  addr : Nat
  size : Nat
  span : List (Nat × Nat)
  lat : Nat
  scope : Scope
deriving DecidableEq, Repr

/-- A copy descriptor as it was read (13 R271). `defect` marks a descriptor that breaks the table. -/
structure Desc where
  src : Word
  dst : Word
  cnt : List Nat
  sstr : List Int
  dstr : List Int
  retry : Nat
  dcen : Bool
  dc : Nat
  part : Nat
  ilv : Nat
  dvirt : Bool
  svirt : Bool
  esize : Nat
  aux : Word
  defect : Bool
deriving DecidableEq, Repr

/-- The commands of the C slot (03 R79); `none` and `noneT`: a false-guarded one that counts in CPC or TLC;
`tok`: a false-guarded T slot that passes tokens on (03 R53). -/
inductive CmdKind where
  | cpy | cpyil | cgath | tmv | ccoll | cflush | cpq | cpre | none | noneT | tok
deriving DecidableEq, Repr

/-- A command of the copy command queue or of a tile-move engine (13 R270 to R283, 14 R301). `gen` is the binding
of its context when it was issued, `mapped` its grid's window mode, `gv` the generation it reads when GVIEW selects a snapshot (11 R230); `code` is the
lowest attached code so far (05 R107), `data` the row of a CPQ or the bytes of a piece whose landing is held, `reads` what that piece has read; `acceptedAt`: the cycle in
which the engine accepted it (03 R53). -/
structure Cmd where
  id : Nat
  kind : CmdKind
  k : Nat
  gen : Nat
  region : Nat
  desc : Desc
  mapped : Bool
  gv : Option (BitVec 16)
  kins : List (Nat × Nat)
  kout : Nat
  koutBind : Nat
  seq : Nat
  started : Bool
  next : Nat
  total : Nat
  code : Option (BitVec 8)
  data : List Host.Cell
  reads : List (Nat × Nat)
  waitLanding : Bool
  tries : Nat
  acceptedAt : Nat
deriving DecidableEq, Repr

/-- An instruction in an elastic buffer (03 R65), or held in a schedule segment (12 R237, 16 R342). `vb`: a vector result of slot VB, else of VA;
`sync`: what a held segment keeps of a DRAIN, or of a BARA on a barrier word. `append`: a node that its slot has appended, with the
descriptor registers its instruction names; `tdld`: a TDLD, the physical address it reads and its latency. -/
inductive EngOp where
  | result (vb : Bool) (fs : List Flight) (interval : Nat)
  | load (o : LoadOp)
  | store (o : StoreOp)
  | copy (c : Cmd)
  | tile (i : Instr) (appc base : Word) (kins : List (Nat × Nat)) (koutBind : Nat) (rfast : Bool) (promote : Nat)
  | sync (bar : Option Nat)
  | append (node : Nat) (tds : List Nat)
  | tdld (td addr lat : Nat)
deriving DecidableEq, Repr

/-- An entry of an elastic buffer: its bundle, the resume point of its slot, the cycle it issued in, and the last cycle its bundle's SLACK absorbs
(03 R65). -/
structure BufOp where
  seq : Nat
  rp : Word
  issued : Nat
  limit : Nat
  op : EngOp
deriving DecidableEq, Repr

/-- A store the ST engine has accepted and that has not performed (13 R257). `path`: the cycle and the TIME from which the write path of its scope is empty, once the
operations before it have retired (13 R266). -/
structure PendStore where
  seq : Nat
  acc : Nat
  op : StoreOp
  path : Option (Nat × Nat)
deriving DecidableEq, Repr

/-! ### Thunk table -/

/-- A node of the thunk table (16 R324) with its three descriptor copies. `seq` is its append number,
`appSeq` the bundle that appended it, `kinBind` the producer each kin token was bound to at the append. -/
structure Node where
  appc : Word
  seq : Nat
  op : BitVec 7
  failed : Bool
  rfast : Bool
  bankDst : Bool
  qDst : Bool
  acc : Nat
  passes : Nat
  toks : Toks
  koutBind : Nat
  kinBind : List (Nat × Nat)
  fcode : BitVec 8
  nt : Nat
  aux : BitVec 18
  done : BitVec 64
  dd : BitVec 256
  da : BitVec 256
  db : BitVec 256
  appSeq : Nat
deriving DecidableEq, Repr

/-- Tiles of a node that a slot or a landing demands (16 R330). -/
structure Goal where
  seq : Nat
  tiles : BitVec 64
deriving DecidableEq, Repr

/-! ### Bundles and the loop buffer -/

/-- An expanded bundle with the place it came from (02 R43, 03 R50, R70). The eight slots are widened to 56 bits. -/
structure XBundle where
  addr : BitVec 32
  back : Nat
  bidx : Nat
  pfx : BitVec 32
  words : List (BitVec 56)
  lits : BitVec 128
  pad : BitVec 4
deriving DecidableEq, Repr

/-- A fetch block expanded into the loop buffer (02 R44, 03 R69). `defect`: the fault its first bundle raises; `ready`: the cycle in which bundle `first`
is expanded. -/
structure Block where
  head : BitVec 32
  next : BitVec 32
  endt : Bool
  bundles : List XBundle
  defect : Option (BitVec 8 × Word)
  first : Nat
  ready : Nat
deriving DecidableEq, Repr

/-- The exception and selection registers of a context (05 R105, 18 R368). -/
structure Sys where
  psw : BitVec 32
  epc : Word
  etgt : Word
  evec : Word
  fstat : Word
  faddr : Word
  fnode : Word
  gvsel : BitVec 32
  dcsel : Word
  barsel : Word
deriving DecidableEq, Repr

/-- A bundle in progress (03 R63, R66, R67). `sys0`, `promote0`: what its later slots read of the registers an MTSR of
the bundle writes; `olds`: the values, from before the bundle, of registers its results have already reached; `issued`: the cycle it issued in; `ldl`: an LDL that
acts once the open segment has committed (04 R94); `toks0`: the tokens as they stood before the bundle. -/
structure Run where
  xb : XBundle
  slot : Nat
  seq : Nat
  sys0 : Sys
  promote0 : Nat
  xfer : Option Word
  fall : Word
  fallEnd : Bool
  olds : List (Dest × Vec)
  noBack : Bool
  brk : Bool
  segEnd : Bool
  issued : Nat
  ldl : Option BufOp
  toks0 : Tab Token
deriving DecidableEq, Repr

/-- A fault on its way to trap entry: code, FADDR, FNODE, LATE (19 R388). -/
structure Trap where
  code : BitVec 8
  faddr : Word
  fnode : Word
  late : Bool
deriving DecidableEq, Repr

/-- A trap whose entry waits until an open schedule segment has committed (19 R388): the fault, the resume point it names, the first
uncommitted slot, FSTAT.SLOT, and the target of a taken transfer. -/
structure PendTrap where
  trap : Trap
  epc : Word
  slotres : Nat
  fslot : Nat
  xfer : Option Word
deriving DecidableEq, Repr

/-- What a context waits for (02 R37, R39; 03 R82). `dcMet` and `phaseMet`: a WAITDC and a BARW whose condition has come true. -/
inductive Wait where
  | none
  | limits (l s c t : Nat)
  | token (k : Nat)
  | kin (k bind : Nat)
  | dcZero (n : Nat)
  | dcMet (n : Nat) (err : Bool)
  | phase (b : Nat)
  | phaseMet
  | demand
  | counters
  | earlier (seq : Nat)
  | pathTime (t : Nat)
  | pathCycle (c : Nat)
  | drainOut
  | scribe
  | cut
  | engine
  | commit
  | room (c : Ctr)
  | roomCpc
  | td (n : Nat)
  | tdRead (n : Nat)
  | turn
  | reads (addr n : Nat)
  | accept
  | spill
  | spillDc (n : Nat)
  | stores (seq : Nat)
  | loads (seq : Nat)
  | work (cycle : Nat)
  | accepted (record : Nat)
  | lock (a : Nat)
  | retire
  | performed
  | own (a : Nat)
  | follower
deriving DecidableEq, Repr

/-- An open schedule segment (19 R393, R394): its rewind point and what a rewind restores, with the rows its slots have popped, the last first, each with its queue (14
R300); `performed`: its commit has performed an operation, and the point is gone. -/
structure Seg where
  point : Word
  bundles : Nat
  stores : Nat
  rewound : Bool
  performed : Bool
  toks : Tab Token
  lcnt : Tab (BitVec 32)
  lbody : Tab Word
  loopRp : Tab Word
  popped : List (Nat × Vec)
  counts : Nat × Nat × Nat × Nat
deriving DecidableEq, Repr

/-- A context's status (02 R37). -/
inductive Status where
  | free | running | ready | blocked
deriving DecidableEq, Repr

/-- A pre-emption request: when it was made and the frame it names (02 R47, 19 R399). -/
structure Preempt where
  at_ : Nat
  frame : BitVec 32
deriving DecidableEq, Repr

/-- A context (02 R37, 05 R96, R105, 16 R322, 18 R368).
`curHalf`: the second half of the loop buffer holds the bundle in progress; `halfAt`: the cycle in which that half's first bundle issued (02 R44); `refetch`: fetch has
been redirected in cycle `redirAt` and the addressed block is not yet delivered (02 R45), `quick`: by a RET that its return stack predicted (08 R167); `issueAt`: the
earliest cycle of the next issue (02 R38); `endRp`: the last slot of the bundle in which the task body ended (02 R33); `attachAt`: the cycle in which a fault was last
attached (05 R112).
`loopRp`: the resume point of the body of each level that a LOOP has set up (08 R170); `workAt`: the cycle from which the next run of a demand counts (17 R350); `begun`: a
run that is under way, its node and tiles, and whether a landing demanded it; `goalSkip`: the demand in progress passes over failed nodes (16 R339); `goalHeld`: a held operation
makes it at its segment's commit (16 R342); `goalImpl`: the demand of the slot is an implicit one that has run no node yet, and `landImpl`: such demands of landings, each
with its command and the nodes it names (18 R368); `landAgain`: the nodes whose late faults landings have met since a demand last reached them (16 R340). `raceAt` and `raceBegun` are `workAt` and
`begun` of the race row, which runs at the same time as the array and the other units (07 R147); `demandAt`: the cycle up to which the last demand of a slot has lasted.
`heldBack`, `trapBack`: the held operations of a segment whose commit a late fault has interrupted, and the trap that waited for it (16 R338, R342); `commitAt`: the
cycle from which the open commit can go on (19 R393); `met`: a detached pair has met before its RDV bundle (19 R398). -/
structure Ctx where
  status : Status
  since : Nat
  gen : Nat
  grid : Nat
  region : Nat
  record : BitVec 32
  gidx : BitVec 32
  iidx : BitVec 32
  win : Nat
  nbank : Nat
  kown : Bool
  prot : Bool
  mapped : Bool
  slackLimit : Nat
  boundPrio : Nat
  pc : Word
  run : Option Run
  halves : Option Block × Option Block
  curHalf : Bool
  halfAt : Option Nat
  refetch : Bool
  redirAt : Nat
  quick : Bool
  retStack : List Word
  issueAt : Nat
  wait : Wait
  ending : Bool
  endRp : Option Word
  sregs : Tab Word
  pregs : Tab (BitVec 32)
  vregs : Tab Vec
  latches : Tab Vec
  tds : Tab (BitVec 256)
  toks : Tab Token
  sys : Sys
  lcnt : Tab (BitVec 32)
  lbody : Tab Word
  loopRp : Tab Word
  barst : Word
  ldc : Nat
  stc : Nat
  cpc : Nat
  tlc : Nat
  impld : Word
  ovff : Word
  latef : Word
  seqSrc : Nat
  nodes : List Node
  goals : List Goal
  goalSkip : Bool
  goalHeld : Bool
  goalImpl : Bool
  landImpl : List (Nat × List Nat)
  workAt : Nat
  begun : Option (Nat × BitVec 64 × Bool)
  raceAt : Nat
  raceBegun : Option (Nat × BitVec 64 × Bool)
  demandAt : Nat
  landGoals : List Goal
  landAgain : List Nat
  landFault : Option Trap
  flights : List Flight
  buf : List BufOp
  stq : List PendStore
  seg : Option Seg
  held : List BufOp
  heldBack : List BufOp
  trapBack : Option PendTrap
  attachAt : Option Nat
  committing : Bool
  commitAt : Nat
  pendTrap : Option PendTrap
  reopen : Bool
  preempt : Option Preempt
  boundary : Bool
  stepDue : Bool
  inStep : Bool
  met : Bool
  bundleSeq : Nat
  bindSrc : Nat
deriving DecidableEq, Repr

/-! ### Cores and the Kerf -/

/-- A weight plane: 32 columns of 512 element bytes and 128 sidecar bytes (07 R134). -/
structure Plane where
  elems : Tab (BitVec 4096)
  sides : Tab (BitVec 1024)
deriving DecidableEq, Repr

/-- The node that the array or the race row is running (17 R352, R357): the passes it has run, the bank and the planes from
before it, and the results of a race held until every row has passed; `landing`: a landing's demand began it; `bad`: the reference chain of the first of a row's two race
passes has failed (07 R142, R147). -/
structure Job where
  k : Nat
  seq : Nat
  tiles : BitVec 64
  landing : Bool
  pass : Nat
  save : Tab Vec
  active : Plane
  shadow : Plane
  results : List Host.Cell
  bad : Bool
deriving DecidableEq, Repr

/-- A core with its Kerf tile (05 R101, R105; 07 R134; 18 R368). `job` and `race`: the nodes that run in the array or in another unit, and in the race row (07 R147). `rows` holds bank row `16 * bank + row`; `scribeOut`: the last SCRIBE failed, or it did not; `calTime`
is the TIME of its completion; `acc` holds the AF26 accumulator of element `32 * row + column`; `ranAt`: the last cycle at whose end a context was running (02 R38);
`passCal`: whether KCAL.STATE was 01 when the pass of the array under way began, once a write of firmware has taken effect at the boundary behind it (07 R153). -/
structure Core where
  rows : Tab Vec
  acc : Tab (BitVec 26)
  active : Plane
  shadow : Plane
  job : Option Job
  race : Option Job
  owner : Option Nat
  rq : Tab (List Vec)
  rqv : Tab Nat
  promote : BitVec 7
  kgain : BitVec 16
  kcal : Word
  ktrim : Tab (BitVec 7)
  fwPend : List (Nat × Word)
  passCal : Option Bool
  scribe : Option (Nat × Nat)
  scribeOut : Option Bool
  calTime : Option Nat
  engFree : Tab Nat
  issuedAt : Option Nat
  ranAt : Nat
  lastCtx : Nat
  bundles : Word
  switches : Word
  slackst : Word
  latest : Word
  caldr : Word
  trimf : Word
deriving DecidableEq, Repr

/-! ### Clusters, dies, ports -/

/-- A dependence counter (18 R375) with the continuations linked on it, in order. -/
structure DepCtr where
  count : BitVec 16
  err : Bool
  links : List (BitVec 32)
deriving DecidableEq, Repr

/-- A barrier word (18 R378). -/
structure Barrier where
  target : BitVec 9
  count : BitVec 9
  phase : Bool
  err : Bool
  perr : Bool
deriving DecidableEq, Repr

/-- An armed timer (18 R382): expiry and counter. -/
structure Timer where
  expiry : Nat
  dc : Nat
deriving DecidableEq, Repr

/-- The phases of the droop response (20 R415), with the cycle in which the phase began. -/
inductive Droop where
  | off
  | stretch (cycle : Nat)
  | half (cycle : Nat)
deriving DecidableEq, Repr

/-- The MTSR writes of one cycle to cluster registers: each a register (the number, or `0x1000 + b` for barrier word `b`) and its writer,
and what the contexts that wrote nothing still read (08 R176). -/
structure Seen where
  cycle : Nat
  writes : List (Nat × Nat)
  droopth : BitVec 7
  sticky : Bool
  bars : Tab Barrier
deriving DecidableEq, Repr

/-- A cluster (01 R13; 18 R368; 20 R415). `fifths` counts fifths of a nanosecond of its clock's time since reset; `alarms`: the cycles of alarms
whose response has not begun; `rounds`: continuations that a core has passed over, each with the core and the contexts that have been free since, as bits (02 R40);
`barPend`: the MTSR writes of this cycle to barrier words, each with its word and its writer, which follow the arrivals of the cycle (18 R380);
`grants`: the commands accepted in cycle `grantAt`, after which `lastGrant` is the last core served (14 R301); `decAt`: the cycle in which a completion or a timer last counted a counter down (18 R375). -/
structure Cluster where
  cycle : Nat
  fifths : Nat
  dcs : Tab DepCtr
  bars : Tab Barrier
  timers : Tab Timer
  droopth : BitVec 7
  sticky : Bool
  alarms : List Nat
  droop : Droop
  seen : List Seen
  droopev : Word
  strcyc : Word
  halfcyc : Word
  traffic : Tab Word
  lastGrant : Nat
  grantAt : Nat
  grants : Nat
  barPend : List (Nat × Nat × Word)
  decAt : Tab Nat
  rounds : List (BitVec 32 × Nat × Nat)
deriving DecidableEq, Repr

/-- A die (18 R368, 20 R414, 11 R215). `share`: its part of firmware's split of the package's power, and `grant`: its budget in this interval, both in watts;
`limited`: its measured current exceeded its grant in the last interval; `period`: the arithmetic clock's, in fifths of a
nanosecond (01 R20); `oscAt`: the TIME of the last refresh of AGEOSC (18 R385). -/
structure Die where
  audits : Word
  leaks : Word
  leakfl : Word
  repeats : Word
  feccor : Word
  ageosc : Word
  eol : Word
  reserveGiB : Nat
  share : Nat
  grant : Nat
  limited : Bool
  period : Nat
  oscAt : Option Nat
deriving DecidableEq, Repr

/-- The credit counts of one end of a link or die port on one channel (18 R384). `last`: the TIME of the last flit it sent, 0 if it has sent none since reset;
`audited`: an audit has followed. -/
structure Credit where
  sent : BitVec 16
  seen : BitVec 16
  recv : BitVec 16
  freed : BitVec 16
  last : Nat
  audited : Bool
deriving DecidableEq, Repr

/-- A host port and its mailbox (20 R409, R410, R416). `vectors` are the MSI-X vectors that have fired, newest first. -/
structure Port where
  up : Bool
  fwver : BitVec 32
  status : BitVec 32
  cmd : BitVec 32
  cseq : BitVec 32
  dseq : BitVec 32
  nonce : BitVec 256
  report : BitVec 30720
  vectors : List Nat
deriving DecidableEq, Repr

/-! ### Regions, grids, continuations -/

/-- Kinds of die a virtual die is bound to (15 R313). -/
inductive DieKind where
  | absent | compute | memory | io
deriving DecidableEq, Repr

/-- An entry of the die binding table (15 R313). -/
structure DieBind where
  kind : DieKind
  socket : Nat
  root : Nat
deriving DecidableEq, Repr

/-- GENFULL policies (11 R228). -/
inductive GenPol where
  | dropOldest | failRegion | reset
deriving DecidableEq, Repr

/-- A resolved region control block (15 R309, R310). -/
structure Rcb where
  fdom : Nat
  cores : Nat
  ukib : Nat
  ckib : Nat
  dkib : Nat
  copybw : Nat
  power : Nat
  stall : Nat
  preempt : Nat
  prio : Nat
  agecap : Nat
  prot : Bool
  genpol : GenPol
  snapRight : Bool
  growRight : Bool
  hwin : Bool
  cretry : Nat
  handler : Word
  ovrBase : Word
  ovrSlots : Nat
  colltab : Word
  dbt : List DieBind
deriving DecidableEq, Repr

/-- A continuation in a ready queue or in an overflow ring (14 R303, R304). -/
structure Ready where
  cluster : Nat
  record : BitVec 32
  region : Nat
  grid : Nat
  aging : Nat
  order : Nat
  tready : Nat
  core : Option Nat
  saved : Bool
deriving DecidableEq, Repr

/-- A region (15 R309 to R311, 14 R305, 11 R228). `ring` are the spilled continuations, oldest first; `genTold`: firmware has received GENFULL for the writes that
are held. -/
structure Region where
  live : Bool
  root : Bool
  port : Nat
  parent : Nat
  rcb : Rcb
  rcbVa : Word
  ring : List Ready
  ringTail : Nat
  genWait : Nat
  genTold : Bool
  spillWait : Nat
deriving DecidableEq, Repr

/-- A grid (02 R27 to R31, 15 R315): what the dispatcher keeps on chip of a loop record. -/
structure Grid where
  live : Bool
  region : Nat
  lrec : BitVec 32
  entry : Word
  groups : Nat
  issued : Nat
  win : Nat
  nbank : Nat
  kerf : Bool
  slackc : Nat
  mapped : Bool
  clusters : List Nat
  rot : Nat
  conts : Nat
  port : Nat
  queue : Nat
  launch : BitVec 32
  user : Word
deriving DecidableEq, Repr

/-- What the dispatcher keeps of a continuation record (15 R316): of WAITON it keeps ERR and SAVED. -/
structure Cont where
  grid : Nat
  core : Option Nat
  saved : Bool
  err : Bool
deriving DecidableEq, Repr

/-- A launch that has ended and whose completion is not yet written (14 R289). -/
structure Ended where
  port : Nat
  queue : Nat
  launch : BitVec 32
  user : Word
  status : BitVec 8
  detail : BitVec 8
deriving DecidableEq, Repr

/-! ### Generations, locks, the whole -/

/-- A preserved version of a granule (11 R225): the bytes it lists, its generations, where it lies. -/
structure Version where
  granule : Nat
  f : BitVec 16
  t : BitVec 16
  cells : List Host.Cell
  epoch : Nat
  die : Nat
  stored : Bool
deriving DecidableEq, Repr

/-- A write that its owner holds, for the cut or for the reserve (11 R223, R228); `cmd`: the command it belongs to, `reads` what that has read for it. -/
structure HeldWrite where
  cmd : Nat
  die : Nat
  stamp : BitVec 16
  region : Nat
  forCut : Bool
  cells : List Host.Cell
  reads : List (Nat × Nat)
deriving DecidableEq, Repr

/-- What firmware writes through the management controller beside what the events of the table name (00 R5). -/
inductive FwWrite where
  /-- bytes at physical addresses of one memory, or of one page for the region `region` (10 R200, 14 R284) -/
  | mem (region : Nat) (cells : List Host.Cell)
  /-- DROOPTH of a cluster (05 R105) -/
  | droopth (cl : Nat) (v : BitVec 7)
  /-- a dependence counter (18 R375) -/
  | dc (cl n : Nat) (count : BitVec 16) (err : Bool)
  /-- a barrier word (18 R380) -/
  | bar (cl b : Nat) (w : Barrier)
  /-- a traffic counter, 0 for 0x120 (18 R368) -/
  | traffic (cl i : Nat) (v : Word)
  /-- EOL of a die (18 R385) -/
  | eol (die : Nat) (v : Word)
  /-- the clock of a compute die, in fifths of a nanosecond a cycle (01 R20, which names no steps: that a period is a whole multiple of 0.2 ns is DESIGN CHOICE, log
  entry 92) -/
  | clock (die period : Nat)
  /-- the size of the record pools in KiB, at reset (15 R317) -/
  | pool (kib : Nat)
  /-- the reserve of a memory die, at cold reset (11 R216) -/
  | reserve (die gib : Nat)
  /-- the snapshot store behind the two I/O dies, as the second tier is enumerated (11 R216) -/
  | store (gib : List Nat)
  /-- the root RCB of a host port, before its queues are enabled (15 R312) -/
  | root (port : Nat) (rcb : Rcb)
  /-- the resolved RCB of a region, at a GENFULL, a SPILLFULL or a BUDGET that it has received for it (15 R308) -/
  | rcb (region : Nat) (rcb : Rcb)
  /-- the split of the package's power over the dies, in watts (20 R414) -/
  | split (watts : List Nat)
deriving DecidableEq, Repr

/-- A cut in progress (11 R221): the closing generation, the SNAP's context, its destination, and who has answered. -/
structure Cut where
  g : BitVec 16
  k : Nat
  d : Nat
  sent : Bool
  done : BitVec 16
deriving DecidableEq, Repr

/-- A lock bit that is held (13 R267): holder, the die that owns it, and the instant from which its cycles count, in fifths of a nanosecond, with those that had passed by then. -/
structure Lock where
  k : Nat
  die : Nat
  since : Nat
  spent : Nat
deriving DecidableEq, Repr

/-- A request that waits for a lock (13 R267, R268): of an LDL, of a queue instruction (14 R293), else of an atomic. -/
structure LockReq where
  lock : Nat
  k : Nat
  ring : Bool
  ldl : Option (LoadOp × Nat)
  first : Nat
deriving DecidableEq, Repr

/-- The state of the package. `snapQ`: the SNAPs that the coordinator has received, in order, and whether its checks of each have passed (11 R221, R224);
`storeGiB`: the snapshot store behind sockets 12 and 15 (11 R216); `stopped`: a link has gone down since the last reset, and no region runs (20 R407);
`grantAt`: the TIME at which the power arbiter last granted (20 R414); `hostHeld`: the writes of host port 1 to the window that a link which retrains holds, the oldest first
(20 R406). The last fields, from `firmware` on, are the model's own: the writes of firmware that come next,
the counter of free values, the moves of the outside world and of the agents that come next, the collective commands whose next step meets an uncorrectable error in
what it reads, the context whose slot the next step runs, and the counter that orders arrivals. -/
structure State where
  mem : Memory
  time : Nat
  populated : BitVec 16
  ctxs : Tab Ctx
  cores : Tab Core
  clusters : Tab Cluster
  dies : Tab Die
  ports : Tab Port
  regions : Tab Region
  grids : Tab Grid
  conts : Tab Cont
  poolKib : Nat
  ready : List Ready
  ended : List Ended
  cmds : List Cmd
  cmdSrc : Nat
  gencur : BitVec 16
  live : List (BitVec 16)
  births : Tab (BitVec 16)
  versions : List Version
  heldWrites : List HeldWrite
  cut : Option Cut
  snapQ : List (Nat × Bool)
  storeGiB : List Nat
  presv : Word
  drnb : Word
  genstall : Word
  genfulls : Word
  locks : Tab Lock
  lockReqs : List LockReq
  linksDown : BitVec 24
  stopped : Bool
  grantAt : Nat
  retrains : Tab Nat
  credits : Tab Credit
  cxlDown : BitVec 8
  cxlGiB : List Nat
  hostHeld : List (Nat × List Byte)
  fwlog : List (Nat × BitVec 8 × Option Nat)
  firmware : List FwWrite
  freeIx : Nat
  agenda : List Instr
  badReads : List Nat
  cur : Nat
  stamp : Nat
deriving DecidableEq, Repr

/-- The reasons a step stops the machine. Closed. -/
inductive Fault where
  /-- A physical address that no memory of 10 R200 has: raised by a copy piece, a page-table walk or a firmware write whose
  page-table entry names a frame beyond the owner's memory. Safe: the spec gives such an access no effect. -/
  | noSuchMemory
deriving DecidableEq, Repr

/-- The reasons the model gives no meaning. Closed. -/
inductive Refusal where
  /-- An instruction of the table whose meaning is not written yet; raised by Dispatch only. Safe: nothing runs. -/
  | notModelled (mnemonic : String)
deriving DecidableEq, Repr

/-! ### Reset -/

/-- k1 to k15 before anything binds: the spec gives x (05 R96). DESIGN CHOICE none: log entry 1. -/
def Token.reset : Token := ⟨.none, false, 0⟩

/-- The exception registers of a context that has bound nothing: the spec gives x (05 R105). DESIGN CHOICE 0: log entry 1. -/
def Sys.reset : Sys :=
  { psw := 0, epc := 0, etgt := 0, evec := 0, fstat := 0, faddr := 0, fnode := 0, gvsel := 0, dcsel := 0, barsel := 0 }

/-- A context at reset is free (05 R96); the spec gives x for its registers. DESIGN CHOICE 0: log entry 1. -/
def Ctx.reset : Ctx :=
  { status := .free, since := 0, gen := 0, grid := 0, region := 0, record := 0, gidx := 0, iidx := 0, win := 0, nbank := 0,
    kown := false, prot := false, mapped := false, slackLimit := 0, boundPrio := 0, pc := 0, run := none,
    halves := (none, none), curHalf := true, halfAt := none, refetch := true, redirAt := 0, quick := false, retStack := [],
    issueAt := 0, wait := .none, ending := false, endRp := none, sregs := [], pregs := [], vregs := [],
    latches := [], tds := [], toks := [], sys := Sys.reset, lcnt := [], lbody := [], loopRp := [], barst := 0, ldc := 0, stc := 0, cpc := 0,
    tlc := 0, impld := 0, ovff := 0, latef := 0, seqSrc := 0, nodes := [], goals := [], goalSkip := false, goalHeld := false, goalImpl := false,
    landImpl := [], workAt := 0, begun := none, raceAt := 0, raceBegun := none, demandAt := 0, landGoals := [], landAgain := [], landFault := none,
    flights := [], buf := [], stq := [], seg := none, held := [], heldBack := [], trapBack := none, attachAt := none, committing := false, commitAt := 0, pendTrap := none, reopen := false,
    preempt := none, boundary := false, stepDue := false, inStep := true, met := false, bundleSeq := 0, bindSrc := 0 }

/-- A weight plane of zero bytes: what binding sets (10 R200). At reset the spec gives x. DESIGN CHOICE 0: log entry 1. -/
def Plane.reset : Plane := ⟨[], []⟩

/-- A core at reset: PROMOTE 16, KGAIN 0x8000, KCAL 0, KTRIM 64 (05 R105, R108); counters 0 (18 R368). -/
def Core.reset : Core :=
  { rows := [], acc := [], active := Plane.reset, shadow := Plane.reset, job := none, race := none, owner := none, rq := [],
    rqv := [], promote := 16, kgain := 0x8000, kcal := 0, ktrim := [], fwPend := [], passCal := none, scribe := none, scribeOut := none, calTime := none, engFree := [],
    issuedAt := none, ranAt := 0, lastCtx := 0, bundles := 0, switches := 0, slackst := 0, latest := 0, caldr := 0, trimf := 0 }

/-- A barrier word at reset: TARGET 96, the rest 0 (18 R368). -/
def Barrier.reset : Barrier := ⟨96, 0, false, false, false⟩

/-- A dependence counter at reset (18 R368). -/
def DepCtr.reset : DepCtr := ⟨0, false, []⟩

/-- A cluster at reset: DROOPTH 30, DROOPST 0, counters 0 (05 R105, 18 R368). The phase of its clock against the timebase and the other clusters is left open
(01 R20, 20 R415): every cluster starts a cycle at reset, DESIGN CHOICE, log entry 83. Before any grant the turn of the copy command queue stands after core 0, so that
core 1 comes first (14 R301, which does not say; DESIGN CHOICE, log entry 112). -/
def Cluster.reset : Cluster :=
  { cycle := 0, fifths := 0, dcs := [], bars := [], timers := [], droopth := 30, sticky := false, alarms := [], droop := .off, seen := [],
    droopev := 0, strcyc := 0, halfcyc := 0, traffic := [], lastGrant := 0, grantAt := 0, grants := 0, barPend := [], decAt := [], rounds := [] }

/-- A die at reset: counters 0 (18 R368), a reserve of 16 GiB (11 R216), the arithmetic clock at its nominal 1.25 GHz (01 R20; the clock of an I/O die, which R20 does not
give, is taken as the same: DESIGN CHOICE, log entry 72). Firmware chooses the split of the
2,400 W (20 R414): one sixteenth for each die, DESIGN CHOICE, log entry 93. -/
def Die.reset : Die :=
  { audits := 0, leaks := 0, leakfl := 0, repeats := 0, feccor := 0, ageosc := 0, eol := 0, reserveGiB := 16, share := 150, grant := 150, limited := false, period := 4, oscAt := none }

/-- Credit counts at reset: the spec gives none. DESIGN CHOICE 0: log entry 1. -/
def Credit.reset : Credit := ⟨0, 0, 0, 0, 0, false⟩

/-- A host port after a cold reset whose image passed: STATUS 1, DSEQ 0, the certificate in REPORT (20 R416, R418, R420). -/
def Port.reset : Port :=
  { up := true, fwver := Config.imageVersion 0, status := 1, cmd := 0, cseq := 0, dseq := 0, nonce := 0,
    report := Config.certificate, vectors := [] }

/-- The root RCB that firmware writes for host port `p` (15 R312). Firmware chooses where the level-0 page tables lie, and the rule gives HANDLER, the overflow
ring and COLLTAB no value. DESIGN CHOICE `(p + 1) * 32768` for the tables, 0 for HANDLER, OVRBASE and COLLTAB, 1 for OVRSLOTS: log entry 8. -/
def Rcb.ofRoot (p : Nat) (populated : BitVec 16) : Rcb :=
  { fdom := p, cores := 1536, ukib := 384, ckib := 32768, dkib := 131072, copybw := 256, power := 256,
    stall := 4294967295, preempt := 4294967295, prio := 8, agecap := 15, prot := false, genpol := .dropOldest,
    snapRight := true, growRight := true, hwin := true, cretry := 15, handler := 0, ovrBase := 0, ovrSlots := 1, colltab := 0,
    dbt := (List.range 16).map fun v =>
      if populated.getLsbD v then
        { kind := if Config.memorySockets.contains v then .memory else if Config.ioSockets.contains v then .io else .compute,
          socket := v, root := if Config.computeSockets.contains v then 0 else (p + 1) * 32768 }
      else { kind := .absent, socket := 0, root := 0 } }

/-- The root region of host port `p` (02 R24, 15 R312). -/
def Region.ofRoot (p : Nat) (populated : BitVec 16) : Region :=
  { live := true, root := true, port := p, parent := p, rcb := Rcb.ofRoot p populated, rcbVa := 0, ring := [], ringTail := 0,
    genWait := 0, genTold := false, spillWait := 0 }

/-- A region that does not exist. -/
def Region.reset : Region := { Region.ofRoot 0 0 with live := false, root := false }

/-- A grid that does not exist. -/
def Grid.reset : Grid :=
  { live := false, region := 0, lrec := 0, entry := 0, groups := 0, issued := 0, win := 0, nbank := 0, kerf := false, slackc := 0,
    mapped := false, clusters := [], rot := 0, conts := 0, port := 0, queue := 0, launch := 0, user := 0 }

/-- The physical address of byte `off` of the coherent host window. -/
def windowAddr (off : Nat) : Nat := 0x4000 * 2 ^ 52 + off

/-- The headers of the 32 host launch queues as firmware writes them at reset: STATE 1, the rest 0 (14 R285). -/
def queueHeaders : List Host.Cell :=
  (List.range 32).map fun q => (windowAddr (q * 65536 + 0x44), 1)

/-- The record of the root RCB of host port `p` in the HBM of socket 0 (15 R308, R312). The spec names no place. DESIGN CHOICE: log entry 8. -/
def rootRcbAddr (p : Nat) : Nat := 0x5000 * 2 ^ 52 + 256 * p

/-- The bytes that are not zero in the root RCB of host port `p` as firmware writes it for a full package, by offset (15 R309, R312). -/
def rootRcbBytes (p : Nat) : Tab Byte :=
  [(0x08, 0xff), (0x09, 7), (0x0c, BitVec.ofNat 8 p), (0x11, 6), (0x14, 0x80), (0x15, 1), (0x19, 0x80), (0x1e, 2), (0x21, 1), (0x23, 1)]
    ++ (List.range 8).map (fun i => (0x24 + i, 0xff)) ++ [(0x2c, 0xf8), (0x34, 0xf7), (0x48, 1)]
    ++ ((List.range 16).map fun v =>
      if Config.computeSockets.contains v then [(0x80 + 8 * v, BitVec.ofNat 8 (0x10 + v))]
      else [(0x80 + 8 * v, BitVec.ofNat 8 ((if Config.memorySockets.contains v then 0x20 else 0x30) + v)),
        (0x81 + 8 * v, if p = 0 then 0x80 else 0), (0x82 + 8 * v, BitVec.ofNat 8 p)]).flatten

/-- The package right after a cold reset of an IKV-2612 whose firmware image passed its check (00 R4, 10 R200, 14 R285, 15 R312). -/
def State.reset : State :=
  { mem := ⟨queueHeaders, 0, false⟩, time := 0, populated := 0xffff, ctxs := [], cores := [], clusters := [], dies := [],
    ports := [(0, Port.reset), (1, Port.reset)],
    regions := [(0, Region.ofRoot 0 0xffff), (1, Region.ofRoot 1 0xffff)],
    grids := [], conts := [], poolKib := 512, ready := [], ended := [], cmds := [], cmdSrc := 0, gencur := 0, live := [], births := [],
    versions := [], heldWrites := [], cut := none, snapQ := [], storeGiB := [384, 384], presv := 0, drnb := 0, genstall := 0, genfulls := 0, locks := [],
    lockReqs := [], linksDown := 0, stopped := false, grantAt := 0, retrains := [], credits := [], cxlDown := 0,
    cxlGiB := [768, 768, 768, 768, 768, 768, 768, 768], hostHeld := [], fwlog := [], firmware := [],
    freeIx := 0, agenda := [], badReads := [], cur := 768, stamp := 0 }

end Sys2Proof.Machine
end

