-- ==== Sys2Proof/Machine/Tab.lean ====
section
/-!
DEFINITION. The operations of the sparse tables, and bits, lanes and bytes of values.
-/
namespace Sys2Proof.Machine

variable {α : Type}

/-- The entry of key `n`, if it is listed. -/
def look? : Tab α → Nat → Option α
  | [], _ => none
  | (k, v) :: r, n => if k = n then some v else look? r n

/-- The entry of key `n`, or the default. -/
def lookD (t : Tab α) (n : Nat) (d : α) : α := (look? t n).getD d

/-- The table with `a` at key `n`; keys stay in rising order. -/
def put : Tab α → Nat → α → Tab α
  | [], n, a => [(n, a)]
  | (k, v) :: r, n, a => if n < k then (n, a) :: (k, v) :: r else if n = k then (n, a) :: r else (k, v) :: put r n a

/-- The table without key `n`; keys stand in rising order. -/
def del : Tab α → Nat → Tab α
  | [], _ => []
  | (k, v) :: r, n => if n < k then (k, v) :: r else if n = k then r else (k, v) :: del r n

/-- Bits `lo + len - 1 : lo` of a number. -/
def bits (n lo len : Nat) : Nat := n / 2 ^ lo % 2 ^ len

/-- The value of little-endian bytes (R7). -/
def leNat : List Byte → Nat
  | [] => 0
  | b :: r => b.toNat + 256 * leNat r

/-- The low `n` bytes of a value, little-endian (R7). -/
def leBytes : Nat → Nat → List Byte
  | 0, _ => []
  | n + 1, v => BitVec.ofNat 8 v :: leBytes n (v / 256)

/-- Lane `i` of a vector (R117). -/
def lane (v : Vec) (i : Nat) : BitVec 32 := v.extractLsb' (32 * i) 32

/-- The vector whose lane `i` is `f i`, for 32 lanes. -/
def ofLanes (f : Nat → BitVec 32) : Vec :=
  (List.range 32).foldl (fun acc i => acc ||| ((f i).setWidth 1024 <<< (32 * i))) 0

/-- Lanes of `new` where the mask is 1, of `old` elsewhere (R179). -/
def mergeLanes (mask : BitVec 32) (new old : Vec) : Vec :=
  if mask = BitVec.allOnes 32 then new
  else if mask = 0 then old
  else ofLanes fun i => if mask.getLsbD i then lane new i else lane old i

/-- The same word in every lane. -/
def splat (w : BitVec 32) : Vec := ofLanes fun _ => w

/-- All 32 bits of a predicate alike (R98). -/
def rep32 (b : Bool) : BitVec 32 := if b then BitVec.allOnes 32 else 0

/-- The bits of a word named by a predicate on positions, counted. -/
def countOnes (w n : Nat) : Nat := (List.range w).foldl (fun c i => if n.testBit i then c + 1 else c) 0

/-- The number of elements of a list that satisfy a test. -/
def countIf (l : List α) (p : α → Bool) : Nat := (l.filter p).length

/-- The first element that satisfies a test is replaced by its image. -/
def updFirst (p : α → Bool) (f : α → α) : List α → List α
  | [] => []
  | a :: r => if p a then f a :: r else a :: updFirst p f r

/-- The list without the first element that satisfies a test. -/
def dropFirst (p : α → Bool) : List α → List α
  | [] => []
  | a :: r => if p a then r else a :: dropFirst p r

end Sys2Proof.Machine
end

