-- ==== Sys2Proof/Machine/Flags.lean ====
section
/-!
DEFINITION. Conditions, and the fields of the status and exception registers (03 R72, R74; 05 R106, R107; 02 R43).
-/
namespace Sys2Proof.Machine

/-- Bits `lo + len - 1 : lo` of `w` replaced by the low bits of `v`. -/
def setBits {n : Nat} (w : BitVec n) (lo len : Nat) (v : Nat) : BitVec n :=
  BitVec.ofNat n (w.toNat - bits w.toNat lo len * 2 ^ lo + v % 2 ^ len * 2 ^ lo)

/-- A condition of CMP (R72). -/
def condHolds (cc : Cond) (a b : Word) : Bool :=
  match cc with
  | .eq => a == b
  | .ne => a != b
  | .lt => a.slt b
  | .ge => !a.slt b
  | .le => !b.slt a
  | .gt => b.slt a
  | .ltu => a.ult b
  | .geu => !a.ult b
  | .leu => !b.ult a
  | .gtu => b.ult a
  | .tst => a &&& b != 0
  | .ntst => a &&& b == 0

/-- A condition of VICMP on an element of `w` bits (R74). -/
def icondHolds {w : Nat} (cc : ICond) (a b : BitVec w) : Bool :=
  match cc with
  | .eq => a == b
  | .ne => a != b
  | .lt => a.slt b
  | .le => !b.slt a
  | .gt => b.slt a
  | .ge => !a.slt b
  | .ltu => a.ult b
  | .geu => !a.ult b

/-! ### PSW (R106) -/

def pswSlotres (p : BitVec 32) : Nat := bits p.toNat 0 3
def pswXfer (p : BitVec 32) : Bool := p.getLsbD 3
def pswH (p : BitVec 32) : Bool := p.getLsbD 4
def pswCerr (p : BitVec 32) : Bool := p.getLsbD 5
def pswPstep (p : BitVec 32) : Bool := p.getLsbD 9
def pswStep (p : BitVec 32) : Bool := p.getLsbD 10
def pswRfast (p : BitVec 32) : Bool := p.getLsbD 11

/-- A Boolean as a field of one bit. -/
def ofBool (b : Bool) : Nat := if b then 1 else 0

/-- PSW at trap entry (R388): SLOTRES, XFER, PSTEP from STEP, STEP clear, H set. -/
def pswTrap (p : BitVec 32) (slotres : Nat) (xfer : Bool) : BitVec 32 :=
  setBits (setBits (setBits (setBits (setBits p 0 3 slotres) 3 1 (ofBool xfer)) 9 1 (ofBool (pswStep p))) 10 1 0) 4 1 1

/-- PSW at ERET (R390): H clear, STEP from PSTEP, SLOTRES 0. -/
def pswEret (p : BitVec 32) : BitVec 32 :=
  setBits (setBits (setBits p 4 1 0) 10 1 (ofBool (pswPstep p))) 0 3 0

/-- An MTSR to PSW (R106): RFAST and CERR, and in handler mode every field except H. -/
def pswMtsr (p : BitVec 32) (v : Word) : BitVec 32 :=
  let p1 := setBits (setBits p 11 1 (bits v.toNat 11 1)) 5 1 (bits v.toNat 5 1)
  if pswH p then setBits (setBits (setBits p1 9 2 (bits v.toNat 9 2)) 3 1 (bits v.toNat 3 1)) 0 3 (bits v.toNat 0 3) else p1

/-! ### FSTAT (R107) -/

/-- FSTAT of a trap: CODE, SLOT and LATE; the other fields keep their values (R388). -/
def fstatTrap (f : Word) (code : BitVec 8) (slot : Nat) (late : Bool) : Word :=
  setBits (setBits (setBits f 0 8 code.toNat) 8 3 slot) 11 1 (ofBool late)

/-- FSTAT of an attached fault: ACODE, ATGT, AV (R107). -/
def fstatAttach (f : Word) (code : BitVec 8) (atgt : Nat) : Word :=
  setBits (setBits (setBits f 16 8 code.toNat) 32 10 atgt) 24 1 1

/-- ATGT of a token (R107). -/
def atgtToken (t : Nat) : Nat := 0x200 + t % 16

/-- An attached fault has been recorded since AV was last cleared (R107). -/
def fstatAv (f : Word) : Bool := f.getLsbD 24

/-- Bits of FSTAT that an MTSR can write: the reserved ones read as zero (R6, R107). -/
def fstatMask : Word := 0x000003ff01ff0fff

/-! ### Resume points (R43) -/

def rpAddr (w : Word) : BitVec 32 := w.extractLsb' 0 32
def rpSlot (w : Word) : Nat := bits w.toNat 32 3
def rpBack (w : Word) : Nat := bits w.toNat 35 11
def rpBidx (w : Word) : Nat := bits w.toNat 46 6

/-- A resume point from its fields. -/
def mkRp (addr : BitVec 32) (slot back bidx : Nat) : Word :=
  BitVec.ofNat 64 (addr.toNat + slot % 8 * 2 ^ 32 + back % 2048 * 2 ^ 35 + bidx % 64 * 2 ^ 46)

/-- The same resume point at another slot. -/
def rpAt (w : Word) (slot : Nat) : Word := setBits w 32 3 slot

/-! ### Loop registers (R111) -/

def lbAddr (w : Word) : BitVec 32 := w.extractLsb' 0 32
def lbSpan (w : Word) : Nat := bits w.toNat 32 18
def lbAct (w : Word) : Bool := w.getLsbD 63

/-- LBODYn from its fields. -/
def mkLb (addr : BitVec 32) (span : Nat) (act : Bool) : Word :=
  BitVec.ofNat 64 (addr.toNat + span % 2 ^ 18 * 2 ^ 32 + ofBool act * 2 ^ 63)

/-- The address of the end bundle of a level (R170). -/
def lbEnd (w : Word) : BitVec 32 := lbAddr w + BitVec.ofNat 32 (4 * lbSpan w)

/-! ### Fault codes (19 R386) -/

def cILL : BitVec 8 := 0x01
def cPRIV : BitVec 8 := 0x02
def cWINDOW : BitVec 8 := 0x03
def cTDESC : BitVec 8 := 0x04
def cALIGN : BitVec 8 := 0x05
def cADDR : BitVec 8 := 0x06
def cRQOVF : BitVec 8 := 0x07
def cRQUNF : BitVec 8 := 0x08
def cTRIMRNG : BitVec 8 := 0x09
def cTRAP : BitVec 8 := 0x0a
def cBRK : BitVec 8 := 0x0b
def cSTEP : BitVec 8 := 0x0c
def cCALDRIFT : BitVec 8 := 0x10
def cDESC : BitVec 8 := 0x20
def cCADDR : BitVec 8 := 0x21
def cCALIGN : BitVec 8 := 0x22
def cVADDR : BitVec 8 := 0x23
def cPAGE : BitVec 8 := 0x24
def cPROT : BitVec 8 := 0x25
def cGENGONE : BitVec 8 := 0x26
def cXFER : BitVec 8 := 0x27
def cCOLL : BitVec 8 := 0x28
def cINERR : BitVec 8 := 0x29
def cMEMERR : BitVec 8 := 0x2a
def cGENFULL : BitVec 8 := 0x30
def cSPILLFULL : BitVec 8 := 0x31
def cOVRMAP : BitVec 8 := 0x38
def cUECC2 : BitVec 8 := 0x39
def cBUDGET : BitVec 8 := 0x3a
def cNESTF : BitVec 8 := 0x3b
def cLINKDOWN : BitVec 8 := 0x3c

/-- A precise fault of a slot. -/
def precise (code : BitVec 8) (faddr : Nat) : Trap := ⟨code, BitVec.ofNat 64 faddr, 0, false⟩

end Sys2Proof.Machine
end

