-- ==== Sys2Proof/Machine/Mem.lean ====
section
/-!
DEFINITION. The memories (10_memories R200 to R204): physical addresses, bytes, the canonical form, the scratchpad address map and the
lock bits of R267.
-/
namespace Sys2Proof.Machine

/-! ### Physical addresses -/

/-- A byte of the package: which memory, and the offset in it. -/
def phys (tag off : Nat) : Nat := tag * 2 ^ 52 + off

/-- The memory a physical address lies in. -/
def tagOf (a : Nat) : Nat := a / 2 ^ 52

/-- The offset of a physical address in its memory. -/
def offOf (a : Nat) : Nat := a % 2 ^ 52

def unitTag (core : Nat) : Nat := 0x1000 + core
def clusterTag (cl : Nat) : Nat := 0x2000 + cl
def dieTag (socket : Nat) : Nat := 0x3000 + socket
def windowTag : Nat := 0x4000
def hbmTag (socket : Nat) : Nat := 0x5000 + socket
def tierTag (socket : Nat) : Nat := 0x6000 + socket
def hostTag (port : Nat) : Nat := 0x7000 + port

/-- A memory of the package whose contents a cold reset clears (10 R200). -/
def isSram (a : Nat) : Bool := 0x1000 ≤ tagOf a && tagOf a < 0x5000

/-- A memory whose bytes belong to generations: HBM and the second tier (11 R217). -/
def isGen (a : Nat) : Bool := 0x5000 ≤ tagOf a && tagOf a < 0x7000

/-- The 64 KiB granule of an address (11 R215). -/
def granuleOf (a : Nat) : Nat := a / 65536

/-- The socket of a generation-bearing address. -/
def genDie (a : Nat) : Nat := tagOf a % 16

/-! ### Bytes -/

/-- The level-0 page tables of the two root regions, which firmware clears at every reset (15 R308, R312; log entry 8). -/
def isRootTable (a : Nat) : Bool :=
  (Config.memorySockets.any (fun d => tagOf a == hbmTag d) || Config.ioSockets.any (fun d => tagOf a == tierTag d)) &&
    decide (32768 ≤ offOf a ∧ offOf a < 98304)

/-- A byte of the two root RCBs, which firmware writes at every reset (15 R308, R312; log entry 8), as they are for a full package. -/
def rootRcbByte (a : Nat) : Option Byte :=
  if rootRcbAddr 0 ≤ a ∧ a < rootRcbAddr 2 then some (lookD (rootRcbBytes ((a - rootRcbAddr 0) / 256)) (a % 256) 0) else none

/-- What a byte that is not listed reads as: `none` where reset does not define it (00 R4). -/
def Memory.unlisted (m : Memory) (a : Nat) : Option Byte :=
  if (isSram a && !m.warm) || isRootTable a then some 0 else rootRcbByte a

/-- A reset leaves host memory as it is (10 R200): its bytes keep the value of the first epoch. -/
def Memory.epochAt (m : Memory) (a : Nat) : Nat := if tagOf a < 0x7000 then m.epoch else 0

/-- A byte of memory. -/
def Memory.read (m : Memory) (a : Nat) : Byte :=
  match look? m.cells a with
  | some b => b
  | none => (m.unlisted a).getD (Config.undefByte (m.epochAt a) a)

/-- A byte written; an entry equal to what the address reads as unlisted is not kept. -/
def Memory.write (m : Memory) (a : Nat) (b : Byte) : Memory :=
  { m with cells := if m.unlisted a = some b then del m.cells a else put m.cells a b }

/-- `n` bytes from `a`. -/
def Memory.reads (m : Memory) (a n : Nat) : List Byte := (List.range n).map fun i => m.read (a + i)

/-- Bytes written, each at its address, in order. -/
def Memory.writes (m : Memory) (cs : List Host.Cell) : Memory := cs.foldl (fun m c => m.write c.1 c.2) m

/-- Bytes placed from address `a` upward. -/
def cellsAt (a : Nat) (bs : List Byte) : List Host.Cell := (List.range bs.length).zipWith (fun i b => (a + i, b)) bs

/-- A little-endian value of `n` bytes. -/
def Memory.nat (m : Memory) (a n : Nat) : Nat := leNat (m.reads a n)

/-- A little-endian value of `n` bytes written. -/
def Memory.putNat (m : Memory) (a n v : Nat) : Memory := m.writes (cellsAt a (leBytes n v))

/-- A range cleared to zero. -/
def Memory.clear (m : Memory) (base len : Nat) : Memory :=
  let kept := { m with cells := m.cells.filter fun c => !(base ≤ c.1 && c.1 < base + len) }
  kept.writes ((List.range len).filterMap fun i => if m.unlisted (base + i) = some 0 then none else some (base + i, 0))

/-- The entries lie in strictly rising order of address. -/
def risingCells : List Host.Cell → Bool
  | [] => true
  | [_] => true
  | a :: b :: r => a.1 < b.1 && risingCells (b :: r)

/-- The canonical form: entries rise strictly and none equals what its address reads as unlisted. -/
def Memory.wf (m : Memory) : Bool := risingCells m.cells && m.cells.all fun c => m.unlisted c.1 != some c.2

/-! ### The scratchpad address map (10 R201 to R203) -/

/-- The space of a scratchpad address. -/
def spaceOf (a : Nat) : Nat := bits a 28 4

/-- Where context `k`'s core, cluster and die stand (01 R12, R13). -/
def coreOf (k : Nat) : Nat := k / 4
def clusterOf (k : Nat) : Nat := k / 4 / 96
def socketOf (k : Nat) : Nat := k / 4 / 96 / 2

/-- The bytes lie in their space's legal range (R201). -/
def inRange (mapped : Bool) (a len : Nat) : Bool :=
  let o := bits a 0 28
  match spaceOf a with
  | 0 => o + len ≤ 0x60000
  | 1 => o + len ≤ 0x2000000
  | 2 => if mapped then o / 2 ^ 20 < 96 && o % 2 ^ 20 + len ≤ 0x60000 else o + len ≤ 0x2400000
  | 3 => o + len ≤ 0x8000000
  | 14 => o + len ≤ 0x400000
  | _ => false

/-- The access crosses a stripe of the striped cluster window (R203). -/
def crossesStripe (mapped : Bool) (a len : Nat) : Bool := spaceOf a == 2 && !mapped && 128 < a % 128 + len

/-- The unit scratchpad and the offset in it that a striped window offset reaches (R202). -/
def stripedMember (o : Nat) : Nat × Nat := (o / 128 % 96, o / 128 / 96 * 128 + o % 128)

/-- The physical address of a scratchpad address of context `k` (R201, R202). An access of a copy still under way after its grid has completed goes to the byte
that the grid's MAPPED field gave it (DESIGN CHOICE, log entry 82). -/
def scratchPhys (mapped : Bool) (k a : Nat) : Nat :=
  let o := bits a 0 28
  match spaceOf a with
  | 0 => phys (unitTag (coreOf k)) o
  | 1 => phys (clusterTag (clusterOf k)) o
  | 2 =>
    let m := if mapped then (o / 2 ^ 20, o % 2 ^ 20) else stripedMember o
    phys (unitTag (clusterOf k * 96 + m.1)) m.2
  | 3 => phys (dieTag (socketOf k)) o
  | _ => phys windowTag o

/-- The load latency of a space (R201). -/
def spaceLat (space : Nat) : Nat :=
  match space with
  | 0 => 4
  | 1 => 20
  | 2 => 24
  | 3 => 48
  | 14 => 600
  | _ => 4

/-- The bank of an offset in its memory (R204). -/
def bankOf (a : Nat) : Nat :=
  let o := offOf a
  if tagOf a < 0x2000 then bits o 7 4 else if tagOf a < 0x3000 then bits o 7 6 else if tagOf a < 0x4000 then bits o 7 7 else 0

/-- The lock bit of the 8-byte granule of an address (R267), named for the whole package. A granule reached through space 0x2 has the lock bit of the byte of
the unit scratchpad that it is, by its offset there (DESIGN CHOICE, log entry 86). -/
def lockOf (a : Nat) : Nat :=
  let o := offOf a
  let b := ((bits o 15 2) ^^^ (bits o 21 2)) * 16 + ((bits o 3 4) ^^^ (bits o 23 4))
  (tagOf a * 128 + bankOf a) * 64 + b

/-- The scope whose memory level holds an address, for an agent on a core of its die: 0 unit to 4 system (R232, R233). -/
def levelOf (space : Nat) : Nat :=
  match space with
  | 0 => 0
  | 1 => 1
  | 2 => 1
  | 3 => 2
  | _ => 4

end Sys2Proof.Machine
end

