-- ==== Sys2Proof/Machine/Ops.lean ====
section
/-!
DEFINITION. The named operations on the state: its parts, reading and writing registers, results in flight (03 R63, R64), tokens
(05 R104), how a slot ends (03 R66 to R68, 08 R171), taking an exception and returning from one (19 R388, R390), and a
region's end (19 R402).
-/
namespace Sys2Proof.Machine

/-! ### Parts of the state -/

def State.ctx (s : State) (k : Nat) : Ctx := lookD s.ctxs k Ctx.reset
def State.putCtx (s : State) (k : Nat) (c : Ctx) : State := { s with ctxs := put s.ctxs k c }
def State.modCtx (s : State) (k : Nat) (f : Ctx → Ctx) : State := s.putCtx k (f (s.ctx k))

def State.core (s : State) (n : Nat) : Core := lookD s.cores n Core.reset
def State.putCore (s : State) (n : Nat) (c : Core) : State := { s with cores := put s.cores n c }
def State.modCore (s : State) (n : Nat) (f : Core → Core) : State := s.putCore n (f (s.core n))

def State.cluster (s : State) (n : Nat) : Cluster := lookD s.clusters n Cluster.reset
def State.putCluster (s : State) (n : Nat) (c : Cluster) : State := { s with clusters := put s.clusters n c }
def State.modCluster (s : State) (n : Nat) (f : Cluster → Cluster) : State := s.putCluster n (f (s.cluster n))

def State.die (s : State) (n : Nat) : Die := lookD s.dies n Die.reset
def State.modDie (s : State) (n : Nat) (f : Die → Die) : State := { s with dies := put s.dies n (f (s.die n)) }

def State.port (s : State) (n : Nat) : Port := lookD s.ports n Port.reset
def State.modPort (s : State) (n : Nat) (f : Port → Port) : State := { s with ports := put s.ports n (f (s.port n)) }

def State.region (s : State) (n : Nat) : Region := lookD s.regions n Region.reset
def State.modRegion (s : State) (n : Nat) (f : Region → Region) : State :=
  { s with regions := put s.regions n (f (s.region n)) }

def State.grid (s : State) (n : Nat) : Grid := lookD s.grids n Grid.reset
def State.modGrid (s : State) (n : Nat) (f : Grid → Grid) : State := { s with grids := put s.grids n (f (s.grid n)) }

/-- The cycle of context `k`'s cluster (18 R381). -/
def State.cyc (s : State) (k : Nat) : Nat := (s.cluster (clusterOf k)).cycle

/-- Context `k`'s region's resolved RCB (15 R310). -/
def State.rcb (s : State) (k : Nat) : Rcb := (s.region (s.ctx k).region).rcb

/-- A free value: the next one the spec leaves open (log entry 4). -/
def State.freeBits (s : State) : BitVec 1024 := Config.free s.freeIx

/-- The counter of free values advanced. -/
def State.bumpFree (s : State) : State := { s with freeIx := s.freeIx + 1 }

/-- The bundle in progress, or none: its number orders results (03 R64). -/
def Ctx.seqNow (c : Ctx) : Nat :=
  match c.run with
  | some r => r.seq
  | none => c.bundleSeq + 1

/-- The cycle in which the bundle in progress issued. -/
def State.issuedAt (s : State) (k : Nat) : Nat :=
  match (s.ctx k).run with
  | some r => r.issued
  | none => s.cyc k

/-- The context runs a trap handler (05 R106). -/
def Ctx.inHandler (c : Ctx) : Bool := pswH c.sys.psw

/-- The slot in progress, coded as in R43; the end of the task body is an EXIT of its bundle's Y slot (02 R33). -/
def Ctx.slotNow (c : Ctx) : Nat :=
  match c.run with
  | some r => r.slot
  | none => if c.ending then 7 else 0

/-- The resume point of the slot in progress, of an ended task body's last slot, or of the bundle about to issue (16 R338, R340; 02 R33). -/
def Ctx.resumePoint (c : Ctx) : Word :=
  match c.run with
  | some r => mkRp r.xb.addr r.slot r.xb.back r.xb.bidx
  | none => if c.ending then c.endRp.getD c.pc else c.pc

/-- A transfer that waits in ETGT for the end of the bundle that ERET has entered (03 R67, 19 R390). -/
def Ctx.xferWaits (c : Ctx) : Option Word := if pswXfer c.sys.psw && !c.inHandler then some c.sys.etgt else none

/-- What the slots of the bundle in progress read of the registers an MTSR of the same bundle may have written (03 R63). -/
def Ctx.sysAtIssue (c : Ctx) : Sys :=
  match c.run with
  | some r => r.sys0
  | none => c.sys

/-! ### Registers (05 R96 to R104) -/

/-- A register's value, results in flight apart. s0 reads as zero and p0 as all ones (R97, R98). -/
def State.regNow (s : State) (k : Nat) (d : Dest) : Vec :=
  match d with
  | .none => 0
  | .sreg n => if n = 0 then 0 else (lookD (s.ctx k).sregs n 0).setWidth 1024
  | .preg n => if n = 0 then (BitVec.allOnes 32).setWidth 1024 else (lookD (s.ctx k).pregs n 0).setWidth 1024
  | .vreg n => lookD (s.ctx k).vregs n 0
  | .td n => (lookD (s.ctx k).tds n 0).setWidth 1024
  | .row n => lookD (s.core (coreOf k)).rows n 0

/-- A value brought into a register: the lanes of a vector or a bank row that the mask names, all of any other. -/
def mergeDest (d : Dest) (mask : BitVec 32) (new old : Vec) : Vec :=
  match d with
  | .vreg _ | .row _ => mergeLanes mask new old
  | _ => new

/-- A register written. Writes to s0 and p0 are discarded (R97, R98). -/
def State.setReg (s : State) (k : Nat) (d : Dest) (v : Vec) : State :=
  match d with
  | .none => s
  | .sreg n => if n = 0 then s else s.modCtx k fun c => { c with sregs := put c.sregs n (v.setWidth 64) }
  | .preg n => if n = 0 then s else s.modCtx k fun c => { c with pregs := put c.pregs n (v.setWidth 32) }
  | .vreg n => s.modCtx k fun c => { c with vregs := put c.vregs n v }
  | .td n => s.modCtx k fun c => { c with tds := put c.tds n (v.setWidth 256) }
  | .row n => s.modCore (coreOf k) fun c => { c with rows := put c.rows n v }

/-- The first value listed for a register. -/
def oldOf : List (Dest × Vec) → Dest → Option Vec
  | [], _ => none
  | (d, v) :: r, n => if d = n then some v else oldOf r n

/-- A read in the shadow of a write: old or new, lane by lane, as the free value says (03 R64). -/
def shadow (d : Dest) (free new old : Vec) : Vec :=
  match d with
  | .vreg _ | .row _ => mergeLanes (free.setWidth 32) new old
  | .preg _ => (new &&& free) ||| (old &&& ~~~free)
  | _ => if free.getLsbD 0 then new else old

/-- A register as the slot in progress reads it (03 R63, R64): as it stood before the bundle; a result of an earlier bundle that has not
reached its nominal landing cycle may or may not show; one whose value does not exist yet, because its engine has not accepted it,
does not (log entry 10). -/
def State.read (s : State) (k : Nat) (d : Dest) : Vec :=
  let c := s.ctx k
  match (match c.run with | some r => oldOf r.olds d | none => none) with
  | some v => v
  | none =>
    c.flights.foldl (fun v f =>
      if f.dest = d ∧ f.seq < c.seqNow ∧ f.acc then
        let new := mergeDest d f.mask f.val v
        if f.nominal ≤ s.issuedAt k then new else shadow d (Config.free (s.freeIx * 4096 + f.nominal)) new v
      else v) (s.regNow k d)

/-- A scalar register as the slot in progress reads it; s0 is zero (05 R97). -/
def State.readS (s : State) (k : Nat) (n : BitVec 6) : Word := if n = 0 then 0 else (s.read k (.sreg n.toNat)).setWidth 64

/-- A predicate register as the slot in progress reads it; p0 is all ones (05 R98). -/
def State.readP (s : State) (k : Nat) (n : BitVec 6) : BitVec 32 := if n = 0 then BitVec.allOnes 32 else (s.read k (.preg n.toNat)).setWidth 32

/-- A vector register as the slot in progress reads it. -/
def State.readV (s : State) (k : Nat) (n : Nat) : Vec := s.read k (.vreg n)

/-- The lane mask of a guard (03 R52). -/
def State.mask (s : State) (k : Nat) (g : Guard) : BitVec 32 :=
  if g.getLsbD 6 then ~~~ (s.readP k (g.setWidth 6)) else s.readP k (g.setWidth 6)

/-- GuardTrue (00 R9, 03 R52). -/
def State.guard (s : State) (k : Nat) (g : Guard) : Bool := (s.mask k g).getLsbD 0

/-! ### Results in flight (03 R64) -/

/-- A result written to its register now; the slots of its own bundle go on reading the value from before it (R63). -/
def State.landNow (s : State) (k : Nat) (d : Dest) (mask : BitVec 32) (v : Vec) (seq : Nat) : State :=
  let old := s.regNow k d
  let s1 := s.modCtx k fun c => { c with run := c.run.map fun r =>
    if r.seq = seq ∧ (oldOf r.olds d).isNone then { r with olds := (d, old) :: r.olds } else r }
  s1.setReg k d (mergeDest d mask v old)

/-- The flight of a result of the bundle in progress with exposed latency `lat`. -/
def State.flight (s : State) (k : Nat) (d : Dest) (mask : BitVec 32) (v : Vec) (lat : Nat) (acc : Bool) (ctr : Ctr) : Flight :=
  { dest := d, mask := mask, val := v, seq := (s.ctx k).seqNow, nominal := s.issuedAt k + lat, due := s.cyc k + lat, acc := acc, ctr := ctr }

/-- A result of an engine that needs no acceptance, posted: it lands in bundle order (R64). One with L = 1 that nothing precedes lands
at once. -/
def State.post (s : State) (k : Nat) (d : Dest) (v : Vec) (lat : Nat) : State :=
  let c := s.ctx k
  if lat ≤ 1 ∧ !c.flights.any (fun f => f.dest = d) then s.landNow k d (BitVec.allOnes 32) v c.seqNow
  else s.modCtx k fun c => { c with flights := c.flights ++ [s.flight k d (BitVec.allOnes 32) v lat true .none] }

/-- A scalar result with latency `lat`; 1 in the S and Y slots (R64, R155). Writes to s0 are discarded. -/
def State.postS (s : State) (k : Nat) (d : BitVec 6) (v : Word) (lat : Nat) : State :=
  if d = 0 then s else s.post k (.sreg d.toNat) (v.setWidth 1024) lat

/-- A predicate result with latency `lat`. Writes to p0 are discarded. -/
def State.postP (s : State) (k : Nat) (d : BitVec 6) (v : BitVec 32) (lat : Nat) : State :=
  if d = 0 then s else s.post k (.preg d.toNat) (v.setWidth 1024) lat

/-- A result that makes its readers stall until it lands, `lat` cycles from now (14 R295). -/
def State.postLate (s : State) (k : Nat) (d : Dest) (v : Vec) (lat : Nat) : State :=
  s.modCtx k fun c => { c with flights := c.flights ++ [{ s.flight k d (BitVec.allOnes 32) v lat true .none with nominal := s.issuedAt k + 1 }] }

def State.lateS (s : State) (k : Nat) (d : BitVec 6) (v : Word) (lat : Nat) : State :=
  if d = 0 then s else s.postLate k (.sreg d.toNat) (v.setWidth 1024) lat

def State.lateP (s : State) (k : Nat) (d : BitVec 6) (v : BitVec 32) (lat : Nat) : State :=
  if d = 0 then s else s.postLate k (.preg d.toNat) (v.setWidth 1024) lat

def State.putS (s : State) (k : Nat) (d : BitVec 6) (v : Word) : State := s.postS k d v 1
def State.putP (s : State) (k : Nat) (d : BitVec 6) (v : BitVec 32) : State := s.postP k d v 1

/-- An outstanding-operation counter falls by one (18 R370). -/
def Ctx.decr (c : Ctx) : Ctr → Ctx
  | .none | .ldp | .stp => c
  | .ldc => { c with ldc := c.ldc - 1 }
  | .stc => { c with stc := c.stc - 1 }
  | .tlc => { c with tlc := c.tlc - 1 }

/-- The first result that can land: it is due and no earlier result goes to the same register (R64). -/
def landable (cyc : Nat) (p : Flight → Bool) : List Flight → List Flight → Option Flight
  | _, [] => none
  | before, f :: r =>
    if p f && f.acc && f.due ≤ cyc && !before.any (fun e => e.dest = f.dest && e.dest != .none) then some f
    else landable cyc p (before ++ [f]) r

/-- The first landable result among those `p` names lands. -/
def State.land (s : State) (k : Nat) (p : Flight → Bool) : State :=
  let c := s.ctx k
  match landable (s.cyc k) p [] c.flights with
  | none => s
  | some f =>
    let s1 := s.modCtx k fun c => { c with flights := dropFirst (· == f) c.flights }
    (s1.landNow k f.dest f.mask f.val f.seq).modCtx k fun c => c.decr f.ctr

/-! ### Tokens (05 R104) -/

/-- A token register; k0 is always produced without ERR. -/
def Ctx.tok (c : Ctx) (n : Nat) : Token := if n = 0 then ⟨.produced, false, 0⟩ else lookD c.toks n Token.reset

/-- The tokens as they stood before the bundle (03 R63). -/
def Ctx.tok0 (c : Ctx) (n : Nat) : Token :=
  if n = 0 then ⟨.produced, false, 0⟩ else match c.run with | some r => lookD r.toks0 n Token.reset | none => c.tok n

/-- A token bound to a new producer and pending. -/
def Ctx.bindTok (c : Ctx) (n : Nat) : Ctx :=
  if n = 0 then c else { c with bindSrc := c.bindSrc + 1, toks := put c.toks n ⟨.pending, false, c.bindSrc + 1⟩ }

/-- A kin whose producer completed with ERR, and whose token another producer may have taken since. -/
def errKin : Nat × Nat := (16, 0)

/-- The producers that kin fields name in a token file, as an instruction is appended or issued. -/
def kinsOf (toks : Nat → Token) (t : Toks) : List (Nat × Nat) :=
  [t.kin0.toNat, t.kin1.toNat, t.kin2.toNat].filterMap fun n =>
    if n = 0 then none else if (toks n).st = .produced ∧ (toks n).err then some errKin else some (n, (toks n).bind)

/-- A kin that its producer still owes: the token is pending and bound to the same producer. -/
def Ctx.kinPending (c : Ctx) (kb : Nat × Nat) : Bool := (c.tok kb.1).st == .pending && (c.tok kb.1).bind == kb.2

/-- A kin that was produced with ERR by the same producer. -/
def Ctx.kinErr (c : Ctx) (kb : Nat × Nat) : Bool :=
  kb == errKin || ((c.tok kb.1).st == .produced && (c.tok kb.1).bind == kb.2 && (c.tok kb.1).err)

/-- A kin list after the producer of `kb` completed with ERR. -/
def markKin (kb : Nat × Nat) (l : List (Nat × Nat)) : List (Nat × Nat) := l.map fun x => if x = kb then errKin else x

/-- The same for what waits in a buffer or in a segment. -/
def BufOp.markKin (kb : Nat × Nat) (b : BufOp) : BufOp :=
  match b.op with
  | .copy m => { b with op := .copy { m with kins := Machine.markKin kb m.kins } }
  | .tile i appc base kins koutBind rfast promote => { b with op := .tile i appc base (Machine.markKin kb kins) koutBind rfast promote }
  | _ => b

/-- The producer `bind` of token `n` completes (05 R104): its consumers learn of an ERR; a token bound to a later producer is left unchanged. -/
def State.produce (s : State) (k n bind : Nat) (err : Bool) : State :=
  if n = 0 then s
  else
    let s1 := s.modCtx k fun c =>
      if (c.tok n).st = .pending ∧ (c.tok n).bind = bind then { c with toks := put c.toks n ⟨.produced, err, bind⟩ } else c
    if !err then s1
    else
      let gen := (s1.ctx k).gen
      { s1 with cmds := s1.cmds.map fun (m : Cmd) => if m.k = k ∧ m.gen = gen then { m with kins := markKin (n, bind) m.kins } else m }.modCtx k
        fun c => { c with
          nodes := c.nodes.map fun (x : Node) => { x with kinBind := markKin (n, bind) x.kinBind }
          buf := c.buf.map (BufOp.markKin (n, bind)), held := c.held.map (BufOp.markKin (n, bind))
          heldBack := c.heldBack.map (BufOp.markKin (n, bind)) }

/-! ### Atomics and stores that outlive their context -/

/-- The new value of an atomic (13 R269), on the operand's width. -/
def AtomOp.eval {w : Nat} (op : AtomOp) (old x y : BitVec w) : BitVec w :=
  match op with
  | .add => old + x
  | .min => if x.slt old then x else old
  | .max => if old.slt x then x else old
  | .xch => x
  | .cas => if old = x then y else old

/-- The granule after an atomic. -/
def Memory.atomic (m : Memory) (o : StoreOp) (op : AtomOp) (x y : Word) : Memory :=
  let old := m.nat o.addr o.size
  m.putNat o.addr o.size
    (if o.size = 4 then (op.eval (BitVec.ofNat 32 old) (x.setWidth 32) (y.setWidth 32)).toNat else (op.eval (BitVec.ofNat 64 old) x y).toNat)

/-- The links of the route between two sockets, first along x (20 R404). -/
def routeLinks (a b : Nat) : List Nat :=
  let mid := a / 4 * 4 + b % 4
  let xs := (List.range 3).filterMap fun i =>
    if Nat.min (a % 4) (b % 4) ≤ i ∧ i < Nat.max (a % 4) (b % 4) then some (3 * (a / 4) + i) else none
  let ys := (List.range 3).filterMap fun i =>
    if Nat.min (mid / 4) (b / 4) ≤ i ∧ i < Nat.max (mid / 4) (b / 4) then some (12 + 4 * i + b % 4) else none
  xs ++ ys

/-- A link of the route between two sockets is down. -/
def State.routeDown (s : State) (a b : Nat) : Bool := (routeLinks a b).any fun l => s.linksDown.getLsbD l

/-- Nothing crosses a link that is down on the way between two dies, there or back (20 R407). -/
def State.pathUp (s : State) (a b : Nat) : Bool := !s.routeDown a b && !s.routeDown b a

/-- A byte of the coherent host window that context `k` reaches no more: a link of its path is down (20 R407). -/
def State.cutOff (s : State) (k a : Nat) : Bool := tagOf a == windowTag && !s.pathUp (socketOf k) 12

/-- A store whose slot has committed performs although its context is gone (19 R402), but not across a link that is down (20 R407). -/
def State.storeLeft (s : State) (k : Nat) (o : StoreOp) : State :=
  match o.kind with
  | .none => s
  | .plain | .release => { s with mem := s.mem.writes (o.bytes.filter fun c => !s.cutOff k c.1) }
  | .unlock _ =>
    if !s.cutOff k o.addr && (look? s.locks (lockOf o.addr)).any fun (h : Lock) => h.k == k then
      { s with mem := s.mem.writes o.bytes, locks := del s.locks (lockOf o.addr) } else s
  | .atomic op _ x y => if s.cutOff k o.addr then s else { s with mem := s.mem.atomic o op x y }

/-- The stores of a context that its slots have committed perform, in their order: at once, for no wait of theirs can be seen any more (DESIGN CHOICE, log entry 105). -/
def State.storesLeft (s : State) (k : Nat) : State :=
  let c := s.ctx k
  (c.stq.map (fun (p : PendStore) => p.op) ++ c.buf.filterMap fun (b : BufOp) => match b.op with | .store o => some o | _ => none).foldl
    (fun s o => s.storeLeft k o) s

/-! ### Region's end (19 R402) -/

/-- Firmware receives a record: the region, the code and, of an attached fault, its counter or token (10 R209, 05 R107). -/
def State.report (s : State) (r : Nat) (code : BitVec 8) (atgt : Option Nat) : State := { s with fwlog := s.fwlog ++ [(r, code, atgt)] }

/-- Regions named by a set and every region below them, to the depth of the tree. -/
def withChildren (rs : Tab Region) : Nat → List Nat → List Nat
  | 0, ids => ids
  | n + 1, ids =>
    withChildren rs n (ids ++ (rs.filterMap fun e =>
      if e.2.live && !e.2.root && ids.contains e.2.parent && !ids.contains e.1 then some e.1 else none))

/-- The regions that fail with region `r`: its fault domain and their children, roots excepted (15 R311). -/
def failSet (s : State) (r : Nat) : List Nat :=
  let fd := (s.region r).rcb.fdom
  let base := s.regions.filterMap fun e => if e.2.live && !e.2.root && (e.1 = r || e.2.rcb.fdom = fd) then some e.1 else none
  withChildren s.regions s.regions.length base

/-- A context that stops with its region, or that has passed a suspension point: it is free. -/
def Ctx.freed (c : Ctx) : Ctx := { Ctx.reset with gen := c.gen + 1, bundleSeq := c.bundleSeq, bindSrc := c.bindSrc }

/-- The context is bound to a continuation of one of the regions. -/
def Ctx.ofRegions (c : Ctx) (ids : List Nat) : Bool := c.status != .free && ids.contains c.region

/-- The copy commands of these regions that wait in a context's buffer are withdrawn (R402). -/
def Ctx.withdrawn (c : Ctx) (ids : List Nat) : Ctx :=
  { c with buf := c.buf.filter fun (b : BufOp) => match b.op with | .copy m => !ids.contains m.region | _ => true }

/-- The copy commands in a context's buffer, which a continuation leaves there (02 R36). -/
def Ctx.copies (c : Ctx) : List BufOp := c.buf.filter fun (b : BufOp) => match b.op with | .copy _ => true | _ => false

/-- A context as these regions fail (R402): free, if it is bound to one of them. The copies that other regions' continuations have left in its buffer stay. -/
def Ctx.failed (c : Ctx) (ids : List Nat) : Ctx :=
  if c.ofRegions ids then { c.freed with buf := (c.withdrawn ids).copies } else c.withdrawn ids

/-- A core without its owner: the Kerf is released and its result queues are empty (14 R297). -/
def Core.release (c : Core) : Core := { c with owner := none, job := none, race := none, passCal := none, rq := [], rqv := [] }

/-- The array, another unit or the race row runs a node of context `k`. -/
def Core.runsFor (c : Core) (k : Nat) : Bool := c.job.any (fun (j : Job) => j.k == k) || c.race.any fun (j : Job) => j.k == k

/-- A number that no context has. -/
def noCtx : Nat := 12288

/-- Regions whose grids and children have all completed are over (02 R31); children come before parents. -/
def State.settleRegions : Nat → State → State
  | 0, s => s
  | n + 1, s =>
    let finished := fun (r : Nat) (x : Region) => x.live && !x.root && !s.grids.any (fun g => g.2.live && g.2.region == r)
      && !s.regions.any fun c => c.2.live && !c.2.root && c.2.parent == r
    settleRegions n { s with regions := s.regions.map fun e => if finished e.1 e.2 then (e.1, { e.2 with live := false }) else e }

/-- Failing regions end (R402): their contexts are freed, what these hold of a segment is dropped and what they have stored before performs, their commands that
have not started are withdrawn, their continuations are freed, their launches end with FAILED and `code` unless `silent` (20 R410). Commands that have started complete, and their writes stand, those that an owner
still holds among them. A parent whose last live child fails, and whose grids are done, completes (02 R31). A cut that one of them asked for goes on for
no one (DESIGN CHOICE, log entry 77). -/
def State.endRegions (s0 : State) (ids : List Nat) (code : BitVec 8) (silent : Bool) : State :=
  let gone := fun k => (s0.ctx k).ofRegions ids
  let s := s0.ctxs.foldl (fun (s : State) e => if e.2.ofRegions ids then s.storesLeft e.1 else s) s0
  let ended := s.grids.filterMap fun e =>
    if e.2.live && ids.contains e.2.region then
      some { port := e.2.port, queue := e.2.queue, launch := e.2.launch, user := e.2.user, status := 5, detail := code : Ended }
    else none
  let deadConts := s.conts.filter fun e => ids.contains (s.grid e.2.grid).region
  State.settleRegions s.regions.length { s with
    ctxs := s.ctxs.map fun e => (e.1, e.2.failed ids)
    cores := s.cores.map fun e => if e.2.owner.any gone then (e.1, e.2.release) else e
    cmds := s.cmds.filter fun c => !(ids.contains c.region && !c.started)
    ready := s.ready.filter fun r => !ids.contains r.region
    conts := s.conts.filter fun e => !ids.contains (s.grid e.2.grid).region
    clusters := s.clusters.map fun e => (e.1, { e.2 with dcs := e.2.dcs.map fun d =>
      (d.1, { d.2 with links := d.2.links.filter fun r => !deadConts.any fun x => x.1 = e.1 * 2 ^ 32 + r.toNat }) })
    regions := s.regions.map fun e => if ids.contains e.1 then (e.1, { e.2 with live := false, ring := [] }) else e
    grids := s.grids.map fun e => if ids.contains e.2.region then (e.1, { e.2 with live := false }) else e
    lockReqs := s.lockReqs.filter fun l => !gone l.k
    snapQ := s.snapQ.filter fun x => !gone x.1
    cut := s.cut.map fun c => if gone c.k then { c with k := noCtx } else c
    ended := if silent then s.ended else s.ended ++ ended
    fwlog := s.fwlog ++ ids.map fun r => (r, code, none) }

/-- A region-fatal fault of region `r` (R402, 15 R311). A root region never fails, but the other regions of its fault domain do. -/
def State.regionFatal (s : State) (r : Nat) (code : BitVec 8) : State :=
  if (s.region r).root then (s.report r code none).endRegions (failSet s r) code false else s.endRegions (failSet s r) code false

/-! ### Barrier words and the visibility of cluster registers -/

/-- A phase of a barrier word ends (18 R378). -/
def Barrier.endPhase (b : Barrier) : Barrier := { b with count := 0, perr := b.err, err := false, phase := !b.phase }

/-- An MTSR to BARVAL (18 R380): TARGET, clamped, and ERR; the phase ends when COUNT is not below the new TARGET. -/
def Barrier.mtsr (b : Barrier) (v : Word) : Barrier :=
  let t := bits v.toNat 0 9
  let t1 := if t = 0 then 1 else if t > 384 then 384 else t
  let b1 := { b with target := BitVec.ofNat 9 t1, err := v.getLsbD 29 }
  if b1.count ≠ 0 ∧ b1.target ≤ b1.count then b1.endPhase else b1

/-- An MTSR of context `k` to a cluster register, recorded: the others see it from the second cycle after (08 R176). -/
def Cluster.record (cl : Cluster) (reg k : Nat) : Cluster :=
  let recent := cl.seen.filter fun (e : Seen) => cl.cycle ≤ e.cycle + 1
  match recent.find? fun (e : Seen) => e.cycle == cl.cycle with
  | some _ => { cl with seen := recent.map fun (e : Seen) => if e.cycle == cl.cycle then { e with writes := (reg, k) :: e.writes } else e }
  | none => { cl with seen := recent ++ [⟨cl.cycle, [(reg, k)], cl.droopth, cl.sticky, cl.bars⟩] }

/-- A write of the same cycle by a higher core to the same register remains (05 R112). -/
def Cluster.outranked (cl : Cluster) (reg k : Nat) : Bool :=
  cl.seen.any fun (e : Seen) => e.cycle == cl.cycle && e.writes.any fun w => w.1 == reg && coreOf k < coreOf w.2

/-- What context `k` reads of a cluster register: the record it still sees instead of the present value, if any (08 R176). It sees what remained of the cycle of its
own last write. -/
def Cluster.oldFor (cl : Cluster) (reg k : Nat) : Option Seen :=
  let recent := cl.seen.filter fun (e : Seen) => cl.cycle < e.cycle + 2 && e.writes.any fun w => w.1 == reg
  let own := recent.foldl (fun (n : Nat) (e : Seen) => if e.writes.any fun w => w.1 == reg && w.2 == k then e.cycle + 1 else n) 0
  recent.find? fun (e : Seen) => decide (own ≤ e.cycle)

/-- An MTSR of context `k` to a barrier word, of the cycle that runs (18 R380). -/
def Cluster.barWrite (cl : Cluster) (k b : Nat) (v : Word) : Cluster := { cl with barPend := cl.barPend ++ [(b, k, v)] }

/-- A write placed behind those of lower or equal cores. -/
def insertByCore (w : Nat × Nat × Word) : List (Nat × Nat × Word) → List (Nat × Nat × Word)
  | [] => [w]
  | x :: r => if coreOf w.2.1 < coreOf x.2.1 then w :: x :: r else x :: insertByCore w r

/-- The MTSR writes of the cycle to barrier words take effect after its arrivals (18 R380), in ascending order of cores (05 R112). -/
def Cluster.settleBars (cl : Cluster) : Cluster :=
  { (cl.barPend.foldl (fun l w => insertByCore w l) []).foldl (fun (cl : Cluster) w =>
      let r := cl.record (0x1000 + w.1) w.2.1
      { r with bars := put r.bars w.1 ((lookD r.bars w.1 Barrier.reset).mtsr w.2.2) }) cl with barPend := [] }

/-- A barrier word of a cluster. -/
def Cluster.bar (cl : Cluster) (b : Nat) : Barrier := lookD cl.bars b Barrier.reset

/-- An arrival (18 R379). -/
def Barrier.arrive (w : Barrier) (err : Bool) : Barrier :=
  let w1 := { w with err := w.err || err, count := w.count + 1 }
  if w1.target ≤ w1.count then w1.endPhase else w1

/-- An arrival at barrier word `b`, which those also see who do not yet see a write of its register (08 R176; 05 R112). -/
def Cluster.arriveAt (cl : Cluster) (b : Nat) (err : Bool) : Cluster :=
  let f := fun (t : Tab Barrier) => put t b ((lookD t b Barrier.reset).arrive err)
  { cl with bars := f cl.bars, seen := cl.seen.map fun (e : Seen) => { e with bars := f e.bars } }

/-- An arrival of the context at barrier word `b` is held by its segment (12 R237). -/
def Ctx.heldArrival (c : Ctx) (b : Nat) : Bool := c.held.any fun (x : BufOp) => x.op == .sync (some b)

/-- ARM and SEEN of BARST (18 R379, R368). -/
def barArm (st : Word) (b : Nat) : Bool := st.getLsbD b
def barSeen (st : Word) (b : Nat) : Bool := st.getLsbD (32 + b)

/-- A BARW that waits for a phase that has ended is satisfied, whatever the word does afterwards (18 R379); not while its segment still holds the context's own arrival. -/
def State.notePhases (s : State) (cl : Nat) : State :=
  { s with ctxs := s.ctxs.map fun e =>
      match e.2.wait with
      | .phase b => if clusterOf e.1 = cl ∧ !e.2.heldArrival b ∧ ((s.cluster cl).bar b).phase ≠ barSeen e.2.barst b then (e.1, { e.2 with wait := .phaseMet }) else e
      | _ => e }

/-- A WAITDC on a counter that has come to zero is satisfied, with the ERR it has then (18 R377). -/
def State.noteDc (s : State) (cl n : Nat) : State :=
  let d := lookD (s.cluster cl).dcs n DepCtr.reset
  if d.count = 0 then
    { s with ctxs := s.ctxs.map fun e => if clusterOf e.1 = cl ∧ e.2.wait = .dcZero n then (e.1, { e.2 with wait := .dcMet n d.err }) else e }
  else s

/-- Context `k` arrives at a barrier word (18 R379): SEEN and ARM, the word's ERR from the context's FSTAT.AV, its count. -/
def State.arrive (s : State) (k b : Nat) : State :=
  let cl := clusterOf k
  let w := (s.cluster cl).bar b
  let s1 := s.modCtx k fun c => { c with barst := setBits (setBits c.barst (32 + b) 1 (ofBool w.phase)) b 1 1 }
  (s1.modCluster cl fun c => c.arriveAt b (fstatAv (s.ctx k).sysAtIssue.fstat)).notePhases cl

/-- A blocked context becomes ready (02 R38). -/
def Ctx.awake (c : Ctx) (cycle : Nat) : Ctx := if c.status = .blocked then { c with status := .ready, since := cycle } else c

/-- A context gives up what its slot has asked for: the locks of a ring block (14 R293), the coordinator's turn for a SNAP that has not begun its cut (11 R224). -/
def State.leaveQueues (s : State) (k : Nat) : State :=
  { s with
    lockReqs := s.lockReqs.filter fun (l : LockReq) => !(l.ring && l.k == k)
    snapQ := if s.cut.any fun c => c.k == k then s.snapQ else s.snapQ.filter fun x => x.1 != k }

/-! ### Taking an exception (19 R388) -/

/-- Trap entry: FSTAT, FADDR and FNODE, EPC and ETGT, PSW, and the redirect to EVEC (R388). A fault in handler mode ends the region
with NESTF (R389). `fslot` is FSTAT.SLOT, `epc` the resume point that ERET re-enters with `slotres`, `xfer` the target of a taken transfer. After a step trap a read of a result that has not
landed stalls (R403). The opening that R94 gives the bundle after the one trapped on is dropped: after ERET that bundle opens a segment only if it carries SEG (R395;
DESIGN CHOICE, log entry 96). -/
def State.enterTrap (s : State) (k : Nat) (t : Trap) (epc : Word) (slotres fslot : Nat) (xfer : Option Word) : State :=
  let c := s.ctx k
  if c.inHandler then s.regionFatal c.region cNESTF
  else
    (s.leaveQueues k).putCtx k ({ c with
      sys := { c.sys with
        fstat := fstatTrap c.sys.fstat t.code fslot t.late
        faddr := t.faddr
        fnode := if t.late then t.fnode else c.sys.fnode
        epc := rpAt epc slotres
        etgt := match xfer with | some x => x | none => c.sys.etgt
        psw := pswTrap c.sys.psw slotres xfer.isSome }
      latef := if t.late then c.latef + 1 else c.latef
      flights := if t.code = cSTEP then c.flights.map fun (f : Flight) => { f with nominal := Nat.min f.nominal (s.cyc k) } else c.flights
      run := none, pc := c.sys.evec, refetch := true, redirAt := s.cyc k + 1, quick := false, retStack := [], wait := .none, goals := [], seg := none
      reopen := false, stepDue := false, inStep := false, ending := false : Ctx }.awake (s.cyc k))

/-- Firmware runs: the check of its image has not rejected it (20 R416, R419). -/
def State.fwRuns (s : State) : Bool := (s.port 0).status == 1

/-- The open segment has something to wait for before it is over: held operations, or, of a lockstep pair, the signatures of its bundles (19 R393). -/
def Ctx.mustCommit (c : Ctx) : Bool := c.seg.isSome && (!c.held.isEmpty || c.prot)

/-- The open segment is one that a rewind re-enters: its first bundle has yet to issue again (19 R394). -/
def Ctx.reenters (c : Ctx) : Bool := c.seg.any fun (g : Seg) => g.bundles == 0

/-- The commit of the open segment begins; of a lockstep pair two cycles later at the earliest, when the follower's signatures have matched (19 R393, R397). -/
def Ctx.commits (c : Ctx) (cycle : Nat) : Ctx :=
  if c.committing then c else { c with committing := true, commitAt := if c.prot then cycle + 2 else cycle }

/-- A fault of the held operation at resume point `rp` while its segment commits (16 R338, R342; log entry 12): the operation and those after it stay held, and
their commit goes on after ERET, as does a trap that waited for it. -/
def State.commitFault (s : State) (k : Nat) (t : Trap) (rp : Word) : State :=
  let c := s.ctx k
  let p := c.pendTrap.getD ⟨t, c.resumePoint, rpSlot c.resumePoint, 0,
    match c.xferWaits with | some x => some x | none => c.run.bind fun r => r.xfer⟩
  (s.putCtx k { c with goals := [], heldBack := c.held, held := [], committing := false, trapBack := c.pendTrap, pendTrap := none }).enterTrap k t p.epc p.slotres
    (rpSlot rp) p.xfer

/-- Trap entry once an open schedule segment has committed (R388, 19 R393). -/
def State.trapAt (s : State) (k : Nat) (p : PendTrap) : State :=
  let c := s.ctx k
  if (c.mustCommit ∨ c.held ≠ [] ∨ c.committing) ∧ !c.inHandler then
    s.putCtx k ({ c.commits (s.cyc k) with pendTrap := some p, wait := .commit, goals := [] : Ctx }.awake (s.cyc k))
  else s.enterTrap k p.trap p.epc p.slotres p.fslot p.xfer

/-- A fault at slot `slot` of the bundle in progress, of the bundle about to issue, or of an ended task body's last bundle (R66, R388; 02 R33). A transfer that
a slot before it committed, in this entry of the bundle or in the one before, waits in ETGT (03 R67). FSTAT.SLOT of TRAP is 0 (08 R177). -/
def State.raise (s : State) (k : Nat) (t : Trap) (slot : Nat) : State :=
  let c := s.ctx k
  let fslot := if t.code = cTRAP then 0 else slot
  match c.run with
  | some r => (s.modCtx k fun c => { c with held := c.held ++ r.ldl.toList }).trapAt k
      ⟨t, mkRp r.xb.addr 0 r.xb.back r.xb.bidx, slot, fslot, match c.xferWaits with | some x => some x | none => r.xfer⟩
  | none => s.trapAt k ⟨t, c.resumePoint, slot, fslot, c.xferWaits⟩

/-! ### How a slot ends -/

/-- How an instruction leaves its slot. -/
inductive SlotRes where
  /-- it commits -/
  | done (s : State)
  /-- it raises a precise or late fault and does not commit (R66) -/
  | fault (t : Trap)
  /-- it waits and the context is blocked (02 R37) -/
  | block (w : Wait) (s : State)
  /-- it waits and keeps the issue width (02 R39) -/
  | stall (w : Wait) (s : State)
  /-- the context has left its bundle: it is free, or fetch is redirected -/
  | left (s : State)

/-- A half of the loop buffer (02 R44). -/
def Ctx.half (c : Ctx) (second : Bool) : Option Block := if second then c.halves.2 else c.halves.1

/-- The resident bundle at `addr` with its block: of the half in use, or of the other (02 R44). -/
def Ctx.resident (c : Ctx) (addr : BitVec 32) : Option (Block × XBundle) :=
  [c.half c.curHalf, c.half (!c.curHalf)].findSome? fun (h : Option Block) =>
    h.bind fun (b : Block) => (b.bundles.find? fun (x : XBundle) => decide (x.addr = addr)).map fun (x : XBundle) => (b, x)

/-- The resume point of the bundle at `addr`: with its place when it is resident, else the first bundle of a block (02 R43). -/
def Ctx.resolve (c : Ctx) (addr : BitVec 32) : Word :=
  match c.resident addr with
  | some bx => mkRp addr 0 bx.2.back bx.2.bidx
  | none => mkRp addr 0 4 0

/-- The back-edge test (08 R171): the active levels whose end bundle this is, from the highest down. Answers the loop registers and
the transfer. -/
def backEdgeTest (addr : BitVec 32) : List Nat → Tab (BitVec 32) → Tab Word → Tab (BitVec 32) × Tab Word × Option (BitVec 32)
  | [], cnt, body => (cnt, body, none)
  | n :: r, cnt, body =>
    let b := lookD body n 0
    if lbAct b && lbEnd b == addr then
      let v := lookD cnt n 0 - 1
      let cnt1 := put cnt n v
      if v ≠ 0 then (cnt1, body, some (lbAddr b)) else backEdgeTest addr r cnt1 (put body n (setBits b 63 1 0))
    else backEdgeTest addr r cnt body

/-- The S slot's commit runs the back-edge test, unless its instruction forbids it or a handler runs (R171, R172). -/
def Ctx.backEdge (c : Ctx) : Ctx :=
  match c.run with
  | none => c
  | some r =>
    if r.noBack || c.inHandler then c
    else
      let t := backEdgeTest r.xb.addr [3, 2, 1, 0] c.lcnt c.lbody
      let c1 := { c with lcnt := t.1, lbody := t.2.1 }
      match t.2.2 with
      | none => c1
      | some a => { c1 with run := some { r with xfer := some (c.resolve a) } }

/-- The hold latches of both sets read as zero (03 R57). Latch `8 * set + 2 * slot + operand`. -/
def Ctx.clearLatches (c : Ctx) : Ctx := { c with latches := [] }

/-- The header's KIB bit (03 R51). -/
def XBundle.kib (x : XBundle) : Bool := x.pfx.getLsbD 2
def XBundle.rdv (x : XBundle) : Bool := x.pfx.getLsbD 1
def XBundle.segBit (x : XBundle) : Bool := x.pfx.getLsbD 0
def XBundle.slack (x : XBundle) : Nat := bits x.pfx.toNat 4 4

/-- The last slot of a bundle has committed (03 R67, R68): KIB and RDV, the transfer or the passage to the next bundle, the end of
the task body (02 R33, 08 R168), the end of a segment (19 R393), a step trap due, and BRK (19 R388). Where the bundle ends the task body no bundle would issue next: BRK then
has EPC and SLOTRES name the last slot of that bundle, and ERET goes on with the EXIT (DESIGN CHOICE, log entry 108). -/
def State.endBundle (s : State) (k : Nat) (r : Run) : State :=
  let c := s.ctx k
  let xferNow := c.xferWaits.isSome
  let next := match c.xferWaits with | some x => x | none => match r.xfer with | some x => x | none => r.fall
  let ends := r.fallEnd && r.xfer.isNone && !xferNow
  let full := c.seg.any fun (g : Seg) => 256 ≤ g.bundles || 64 ≤ g.stores
  let c0 := { c with held := c.held ++ r.ldl.toList }
  let c1 := if r.xb.kib then { c0.clearLatches with iidx := c0.iidx + 1, boundary := c0.boundary || !c.inHandler } else c0
  let c2 := { c1 with
    run := none, pc := next, redirAt := s.cyc k, wait := .none, ending := c.ending || ends,
    endRp := if ends then some (mkRp r.xb.addr 7 r.xb.back r.xb.bidx) else c1.endRp, inStep := c1.inStep || (c1.prot && r.xb.rdv), met := false,
    sys := { c1.sys with psw := if xferNow then setBits c1.sys.psw 3 1 0 else c1.sys.psw },
    stepDue := pswStep c1.sys.psw && !c.inHandler && !r.brk,
    reopen := c1.reopen || r.segEnd || full
    seg := if (r.segEnd || full) && !c1.mustCommit then none else c1.seg }
  let s2 := s.putCtx k (if (r.segEnd || full) && c2.mustCommit then c2.commits (s.cyc k) else c2)
  if r.brk then s2.trapAt k (if ends then ⟨⟨cBRK, 0, 0, false⟩, mkRp r.xb.addr 0 r.xb.back r.xb.bidx, 7, 7, none⟩ else ⟨⟨cBRK, 0, 0, false⟩, next, 0, 7, none⟩) else s2

/-- A slot commits: the S slot runs the back-edge test, the last slot ends the bundle (03 R66). -/
def State.finishSlot (s : State) (k : Nat) : State :=
  let s0 := s.bumpFree
  let c := s0.ctx k
  match c.run with
  | none => s0.putCtx k { c with wait := .none }
  | some r0 =>
    let c1 := if r0.slot = 0 then c.backEdge else c
    match c1.run with
    | none => s0.putCtx k c1
    | some r =>
      if r.slot = 7 then (s0.putCtx k c1).endBundle k r
      else s0.putCtx k { c1 with run := some { r with slot := r.slot + 1 }, wait := .none }

/-- An instruction's result applied to the context that ran it. -/
def State.apply (s : State) (k : Nat) (r : SlotRes) : State :=
  match r with
  | .done s1 => s1.finishSlot k
  | .fault t => s.raise k t (s.ctx k).slotNow
  | .block w s1 => s1.modCtx k fun c => { c with wait := w, status := .blocked, since := s1.cyc k }
  | .stall w s1 => s1.modCtx k fun c => { c with wait := w }
  | .left s1 => s1

/-- The current context's slot runs: `f` answers how it ends (03 R66). -/
def State.slot (s : State) (f : Nat → SlotRes) : State := s.apply s.cur (f s.cur)

/-- A slot with a false guard and no other rule of R53 commits without effect. -/
def State.guarded (s : State) (g : Guard) (f : Nat → SlotRes) : State :=
  s.slot fun k => if s.guard k g then f k else .done s

/-! ### Returning from an exception (19 R390) -/

/-- ERET: PSW, with PSTEP as `psw0` has it, and the redirect to `epc` at its slot. A transfer that waits in ETGT is taken when the entered bundle completes.
An ERET to the last slot of an ended task body ends it again (02 R33, R36), and a commit that a late fault interrupted goes on (16 R338, R342). -/
def State.returnFromTrap (s : State) (k : Nat) (psw0 : BitVec 32) (epc : Word) : State :=
  s.modCtx k fun c => { c with
    sys := { c.sys with psw := setBits (pswEret c.sys.psw) 10 1 (ofBool (pswPstep psw0)) }
    run := none, pc := epc, refetch := true, redirAt := s.cyc k, quick := false, wait := .none, inStep := false
    ending := c.endRp.any fun r => bits r.toNat 0 52 == bits epc.toNat 0 52
    held := c.heldBack ++ c.held, heldBack := [], pendTrap := c.trapBack, trapBack := none, committing := c.committing || c.heldBack ≠ []
    commitAt := s.cyc k }

/-! ### System state that several meanings share -/

/-- CTXID (05 R107). A lockstep pair reads the leader's core (19 R396). -/
def State.ctxid (s : State) (k : Nat) : BitVec 32 :=
  let c := s.ctx k
  BitVec.ofNat 32 (k % 4 + (if c.prot then coreOf k % 96 / 2 * 2 else coreOf k % 96) * 4 + clusterOf k % 2 * 2 ^ 9
    + socketOf k * 2 ^ 10 + c.win / 64 % 16 * 2 ^ 14 + c.nbank % 16 * 2 ^ 18 + ofBool c.kown * 2 ^ 22 + ofBool c.prot * 2 ^ 23)

/-- An attached fault of a context's own work: FSTAT and the firmware's record (05 R107, 18 R209). -/
def State.attach (s : State) (k : Nat) (code : BitVec 8) (atgt : Nat) : State :=
  let s1 := s.modCtx k fun c => { c with
    sys := { c.sys with fstat := fstatAttach c.sys.fstat code atgt }, attachAt := some (s.cyc k)
    run := c.run.map fun r => { r with sys0 := { r.sys0 with fstat := fstatAttach r.sys0.fstat code atgt } } }
  s1.report (s.ctx k).region code (some atgt)

/-- Sockets `a` and `b` are this many links apart (01 R17). -/
def hops (a b : Nat) : Nat :=
  let d := fun (x y : Nat) => if x ≤ y then y - x else x - y
  d (a % 4) (b % 4) + d (a / 4) (b / 4)

end Sys2Proof.Machine
end

