-- ==== Sys2Proof/Machine/Fabric.lean ====
section
/-!
DEFINITION. The fabric (20_boundary R404 to R407, R411; 12_consistency R249; 18_counters R384): routes, flits and their credits.
-/
namespace Sys2Proof.Machine

/-! ### Paths (20 R411; 18 R383) -/

/-- The CXL port that holds a byte of the second tier is down: frames are interleaved at 4 KiB over the populated ports (20 R411). -/
def State.cxlFails (s : State) (a : Nat) : Bool :=
  if tagOf a < 0x6000 ∨ 0x7000 ≤ tagOf a then false
  else
    let base := if tagOf a = 0x600f then 4 else 0
    let ports := (List.range 4).filter fun p => s.cxlGiB.getD (base + p) 0 != 0
    match ports[offOf a / 4096 % ports.length]? with
    | some p => s.cxlDown.getLsbD (base + p)
    | none => true

/-- The socket of the die that owns a byte (18 R383): the coherent host window lies on socket 12 (01 R16). -/
def ownerSocket (a : Nat) : Nat :=
  let t := tagOf a
  if t < 0x2000 then (t - 0x1000) / 192
  else if t < 0x3000 then (t - 0x2000) / 2
  else if t < 0x4000 then t - 0x3000
  else if t < 0x5000 then 12
  else if t < 0x7000 then t % 16
  else if t = 0x7001 then 15 else 12

/-! ### Flits and credits (18 R384) -/

/-- Buffer entries of a channel at a receiver, at least one: the fabric sets them. -/
def vcEntries (vc : Nat) : Nat := Config.vcDepth vc + 1

/-- The counts of one channel of a link end. Ends `2 * l` and `2 * l + 1` are the lower and the higher socket's of link `l` (20 R417); from 48 on,
`48 + 2 * d` is die `d`'s side of its port and the next one its router's. -/
def State.credit (s : State) (link vc : Nat) : Credit := lookD s.credits (4 * link + vc) Credit.reset

def State.modCredit (s : State) (link vc : Nat) (f : Credit → Credit) : State := { s with credits := put s.credits (4 * link + vc) (f (s.credit link vc)) }

/-- The other end of a link or die port. -/
def peerEnd (e : Nat) : Nat := if e % 2 = 0 then e + 1 else e - 1

/-- Available() (R384). -/
def Credit.available (c : Credit) (vc : Nat) : Nat := vcEntries vc - (c.sent - c.seen).toNat

/-- The ends that a flit from die `a` to die `b` passes, sender and receiver. -/
def routeEnds (a b : Nat) : List (Nat × Nat) :=
  let dir := fun (l : Nat) => if l < 12 then a % 4 < b % 4 else a / 4 < b / 4
  (48 + 2 * a, 49 + 2 * a) :: (routeLinks a b).map (fun l => if dir l then (2 * l, 2 * l + 1) else (2 * l + 1, 2 * l)) ++ [(49 + 2 * b, 48 + 2 * b)]

/-- A link of the route retrains again, after a failed retraining: it holds its traffic (20 R406). -/
def State.retraining (s : State) (a b : Nat) : Bool := (routeLinks a b).any fun l => lookD s.retrains l 0 != 0 && !s.linksDown.getLsbD l

/-- Every sender on the way from die `a` to die `b` may send on the channel. -/
def State.mayTravel (s : State) (a b vc : Nat) : Bool :=
  a == b || (!s.retraining a b && (routeEnds a b).all fun x => 0 < (s.credit x.1 vc).available vc)

/-- Flits leave one end on a channel, as many as `want` and the credits allow; the other end accepts them and passes them on. -/
def State.hop (s : State) (vc want : Nat) (x : Nat × Nat) : State :=
  let n := BitVec.ofNat 16 (Nat.min want ((s.credit x.1 vc).available vc))
  (s.modCredit x.1 vc fun c => { c with sent := c.sent + n, last := s.time, audited := false }).modCredit x.2 vc fun c =>
    { c with recv := c.recv + n, freed := c.freed + n }

/-- The flits of an access: how many it takes is left open (log entry 50). -/
def State.flits (s : State) (a b vc : Nat) : State :=
  if a = b then s else ((routeEnds a b).foldl (fun s x => s.hop vc ((s.freeBits.setWidth 16).toNat + 1) x) s).bumpFree

/-- A read of die `b` by die `a`, and its response (12 R249). -/
def State.readFlits (s : State) (a b : Nat) : State := (s.flits a b 0).flits b a 1

/-- A write of `n` bytes and its acknowledgement (12 R249). -/
def State.writeFlits (s : State) (a b n : Nat) : State := (s.flits a b (if n ≤ 64 then 0 else 2)).flits b a 1

/-- A flit of the credit scheme itself leaves an end on VC3: it is counted at both ends, and its entry is free, and known to be, at once (R384; 12 R249; DESIGN CHOICE, log
entry 104). -/
def State.creditFlit (s : State) (link : Nat) : State :=
  (s.modCredit link 3 fun c => { c with sent := c.sent + 1, seen := c.seen + 1, last := s.time, audited := false }).modCredit (peerEnd link) 3 fun c =>
    { c with recv := c.recv + 1, freed := c.freed + 1 }

/-- OnCreditReturn (R384): the count that arrives, in a flit on VC3 from the other end; a stale or corrupt one is ignored. -/
def State.creditReturn (s : State) (link vc : Nat) (freed : BitVec 16) : State :=
  (s.modCredit link vc fun c => if (freed - c.seen).toNat ≤ (c.sent - c.seen).toNat then { c with seen := freed } else c).creditFlit (peerEnd link)

/-- The credits that are free on the way from die `a` to die `b` come back. -/
def State.settleRoute (s : State) (a b : Nat) : State :=
  { s with credits := ((routeEnds a b).foldl (fun s x => (List.range 4).foldl (fun s vc =>
      if (s.credit x.1 vc).seen = (s.credit x.2 vc).freed then s else s.creditReturn x.1 vc (s.credit x.2 vc).freed) s) s).credits }

/-- A sender without credits whose receiver has freed entries since. -/
def State.creditDue (s : State) (link vc : Nat) : Bool :=
  (s.credit link vc).available vc == 0 && (s.credit link vc).seen != (s.credit (peerEnd link) vc).freed

/-- The sender's channel has been idle for 4,096 Sill cycles since its last flit, or since reset: an audit flit is due (R384; one an idle period, log entry 50). -/
def State.auditDue (s : State) (link vc : Nat) : Bool := !(s.credit link vc).audited && decide ((s.credit link vc).last + 2048 ≤ s.time)

/-- The die of a link end (20 R417). -/
def endDie (n : Nat) : Nat :=
  let l := n / 2
  if l < 12 then 4 * (l / 3) + l % 3 + n % 2 else if l < 24 then l - 12 + 4 * (n % 2) else (l - 24) % 16

/-- The link of two ends is down (20 R407): no message crosses it. -/
def State.endsCut (s : State) (link : Nat) : Bool := decide (link < 48) && s.linksDown.getLsbD (link / 2)

/-- The link of two ends retrains and holds its traffic (20 R406). -/
def State.endsRetrain (s : State) (link : Nat) : Bool := decide (link < 48) && lookD s.retrains (link / 2) 0 != 0

/-- Every channel of every link, which join the routers of all sockets (01 R12), and of the ports of the dies that are present, each with its counts (R384). -/
def State.channels (s : State) : List (Nat × Credit) :=
  ((List.range 80).filter fun n => decide (n < 48) || s.populated.getLsbD (endDie n)).flatMap fun n =>
    (List.range 4).map fun vc => (4 * n + vc, s.credit n vc)

/-- OnAudit (R384): receiver `link` learns the count `sent` of its sender, in a flit on VC3. -/
def State.creditAudit (s : State) (link vc : Nat) (sent : BitVec 16) : State :=
  let c := s.credit link vc
  let lost := sent - c.recv
  let s1 := (s.modDie (endDie link) fun d =>
    if sent = c.recv then { d with audits := d.audits + 1 }
    else { d with audits := d.audits + 1, leaks := d.leaks + 1, leakfl := d.leakfl + lost.setWidth 64 }).modCredit (peerEnd link) vc fun c =>
      { c with sent := sent, audited := true }
  (s1.modCredit link vc fun c => { c with recv := sent, freed := c.freed + lost }).creditFlit (peerEnd link)

/-- The links of the way from die `a` to die `b` take control messages: none of them retrains (20 R406). -/
def State.controlOpen (s : State) (a b : Nat) : Bool := a == b || !s.retraining a b

/-- A control message from die `a` to die `b` on VC3 (11 R221; 12 R249), once the credits that are free on its way have come back (18 R384). -/
def State.control (s : State) (a b : Nat) : State := if a = b then s else (s.settleRoute a b).flits a b 3

/-- Accesses of a core of a die to the coherent host window, at these physical addresses, may leave for socket 12 (12 R249). -/
def State.windowOpen (s : State) (socket : Nat) (as : List Nat) : Bool :=
  !as.any (fun a => tagOf a == windowTag) || (s.mayTravel socket 12 0 && s.mayTravel 12 socket 1 && s.pathUp socket 12)

/-- Their flits. -/
def State.windowFlits (s : State) (socket : Nat) (as : List Nat) : State :=
  if as.any fun a => tagOf a == windowTag then (s.flits socket 12 0).flits 12 socket 1 else s

/-! ### Host port 1's writes to the window (01 R16; 12 R249) -/

/-- A write of `bytes` at offset `off` of the window arrives from socket 15, once the credits that are free on its way have come back. R249 lists no channel for it: the model
takes VC0 up to 64 bytes and VC2 above, as for a copy's writes (DESIGN CHOICE, log entry 91). -/
def State.windowArrives (s : State) (off : Nat) (bytes : List Byte) : State :=
  let t := ((s.settleRoute 15 12).settleRoute 12 15).writeFlits 15 12 bytes.length
  { t with mem := t.mem.writes (cellsAt (windowAddr off) bytes) }

/-- A link of its way retrains. -/
def State.hostHolds (s : State) : Bool := s.retraining 15 12 || s.retraining 12 15

/-- What a retraining link has held arrives, in order, once none does (20 R406); nothing crosses a link that is down (20 R407). -/
def State.settleHost (s : State) : State :=
  if !s.pathUp 15 12 then { s with hostHeld := [] }
  else if s.hostHolds then s
  else s.hostHeld.foldl (fun t w => t.windowArrives w.1 w.2) { s with hostHeld := [] }

end Sys2Proof.Machine
end

