-- ==== Sys2Proof/Machine/Operands.lean ====
section
/-!
DEFINITION. Operand forms: immediates and literals (08 R156, 03 R62), vector operands with their latches (09 R180), the window checks
(03 R54, 05 R100), effective addresses (13 R254), and the registers a slot reads (03 R64).
-/
namespace Sys2Proof.Machine

/-! ### Immediates and literals -/

/-- Literal word `i` of the bundle in progress (03 R62). -/
def State.lit (s : State) (k i : Nat) : BitVec 32 :=
  match (s.ctx k).run with
  | some r => r.xb.lits.extractLsb' (32 * i) 32
  | none => 0

/-- Operand b of forms K and CK (08 R156). -/
def State.litWord (s : State) (k : Nat) (pair : Bool) (i : BitVec 2) : Word :=
  if pair then (s.lit k (i.toNat + 1)) ++ (s.lit k i.toNat) else (s.lit k i.toNat).signExtend 64

/-! ### Vector operands (09 R180) -/

/-- The latch of operand `opnd` (0 a, 1 b) of the vector slot in progress, in the set in use (03 R57). -/
def Ctx.latchKey (c : Ctx) (opnd : Nat) : Nat := 8 * ofBool c.inHandler + 2 * (c.slotNow - 1) + opnd

/-- A vector source. -/
def State.vsrc (s : State) (k : Nat) (o : VSrc) (opnd : Nat) : Vec :=
  match o.hold with
  | .held => lookD (s.ctx k).latches ((s.ctx k).latchKey opnd) 0
  | _ => s.readV k o.n.toNat

/-- Operand b: a register, a latch, or a literal in every lane. -/
def State.vsrcB (s : State) (k : Nat) (o : VSrcB) : Vec :=
  match o with
  | .reg r => s.vsrc k r 1
  | .lit i => splat (s.lit k i.toNat)

/-- Hold code 01 stores the value in the slot's latch, whatever the guard (03 R53, R57). -/
def State.hold (s : State) (k : Nat) (o : VSrc) (opnd : Nat) : State :=
  match o.hold with
  | .latch => s.modCtx k fun c => { c with latches := put c.latches (c.latchKey opnd) (s.readV k o.n.toNat) }
  | _ => s

def State.holdB (s : State) (k : Nat) (o : VSrcB) : State :=
  match o with
  | .reg r => s.hold k r 1
  | .lit _ => s

/-- The register number a source names; a held operand names none (05 R100). -/
def VSrc.regs (o : VSrc) : List Nat := match o.hold with | .held => [] | _ => [o.n.toNat]
def VSrcB.regs (o : VSrcB) : List Nat := match o with | .reg r => VSrc.regs r | .lit _ => []

/-- WINDOW for the first register, in field order, at or above the window size (03 R54, R55). -/
def Ctx.window (c : Ctx) (regs : List Nat) : Option Trap :=
  (regs.find? fun n => decide (c.win ≤ n)).map fun n => precise cWINDOW n

/-- WINDOW for a bank at or above the bank count, or any bank without the Kerf (03 R54, 09 R195). -/
def Ctx.bankFault (c : Ctx) (bank : Nat) : Option Trap :=
  if !c.kown ∨ c.nbank ≤ bank then some (precise cWINDOW bank) else none

/-! ### Effective addresses (13 R254) -/

/-- The sum of a base and an offset as an exact integer. -/
def eaSum (base : Word) (off : Int) : Int := (base.toNat : Int) + off

/-- The sum is an address. -/
def eaOk (x : Int) : Bool := 0 ≤ x && x < 2 ^ 32

/-! ### Registers a slot reads (03 R64) -/

/-- The predicate a guard reads. -/
def rG (g : Guard) : Dest := .preg (g.setWidth 6).toNat
def rS (n : BitVec 6) : Dest := .sreg n.toNat
def rP (n : BitVec 6) : Dest := .preg n.toNat
def rV (o : VSrc) : List Dest := (VSrc.regs o).map .vreg
def rVB (o : VSrcB) : List Dest := (VSrcB.regs o).map .vreg
def rBin (o : VBin) : List Dest := rG o.g :: rV o.a ++ rVB o.b
def rFused (o : VBin) : List Dest := .vreg o.vd.toNat :: rBin o
def rUn (o : VUn) : List Dest := rG o.g :: rV o.a
def rCm (o : VCm) : List Dest := rG o.g :: rV o.a ++ rVB o.b

/-- The registers a slot instruction reads, tile descriptors and bank rows apart. Events read none. -/
def Instr.reads : Instr → List Dest
  | .add g _ a b | .sub g _ a b | .and g _ a b | .or g _ a b | .xor g _ a b | .andn g _ a b | .shl g _ a b | .shr g _ a b
  | .sra g _ a b | .mul g _ a b | .mulh g _ a b | .mulhu g _ a b | .div g _ a b | .divu g _ a b | .rem g _ a b
  | .remu g _ a b | .min g _ a b | .max g _ a b | .minu g _ a b | .maxu g _ a b | .lea g _ a b _ _ | .cmp g _ _ _ a b
  | .dhop g _ a b => [rG g, rS a, rS b]
  | .addImm g _ a _ | .subImm g _ a _ | .andImm g _ a _ | .orImm g _ a _ | .xorImm g _ a _ | .andnImm g _ a _ | .mulImm g _ a _
  | .mulhImm g _ a _ | .mulhuImm g _ a _ | .divImm g _ a _ | .divuImm g _ a _ | .remImm g _ a _ | .remuImm g _ a _
  | .minImm g _ a _ | .maxImm g _ a _ | .minuImm g _ a _ | .maxuImm g _ a _ => [rG g, rS a]
  | .shlImm g _ a _ | .shrImm g _ a _ | .sraImm g _ a _ => [rG g, rS a]
  | .clz g _ a | .ctz g _ a | .popc g _ a | .mov g _ a | .sext g _ a _ | .zext g _ a _ | .cmpLit g _ _ _ a _ _ | .pfroms g _ a
  | .bri g a | .calli g _ a | .ret g a | .loop g _ a _ | .mtsr g a _ | .pswWrite g a | .promoteWrite g a | .droopthWrite g a
  | .droopstWrite g a | .barvalWrite g a | .vmovs g _ a _ => [rG g, rS a]
  | .pand g _ a b | .por g _ a b | .pxor g _ a b | .pandn g _ a b => [rG g, rP a, rP b]
  | .ptos g _ a | .pcnt g _ a | .pfirst g _ a => [rG g, rP a]
  | .lit g _ _ _ | .br g _ | .call g _ | .loopx g _ | .mfsr g _ _ | .trap g _ => [rG g]
  | .vadd _ o | .vsub _ o | .vmul _ o | .vmin _ o | .vmax _ o | .vcpys _ o | .viadd _ o | .visub _ o | .vimul _ o | .vimulh _ o
  | .vimin _ o | .vimax _ o | .vshl _ o | .vshr _ o | .vsra _ o => rBin o
  | .vand o | .vor o | .vxor o | .vsel o | .vperm o => rBin o
  | .vfma _ o | .vfms _ o | .vfnma _ o | .vclamp _ o | .vimad _ o => rFused o
  | .vabs _ o | .vneg _ o | .vrnd _ o | .viabs _ o | .vcvt _ _ o | .vpkbx _ o | .vupbx _ o | .vredAdd _ o | .vredMin _ o
  | .vredMax _ o | .vbcast o _ | .vslide o _ => rUn o
  | .vsqrt o | .vrcp o | .vrsq o | .vexp2 o | .vlog2 o | .vsig o | .vtanh o | .vmov o => rUn o
  | .vcmp _ _ o | .vicmp _ _ o => rCm o
  | .vext g _ a _ | .vwracc g _ _ a => rG g :: rV a
  | .vrdacc g _ bank row => [rG g, .row (16 * bank.toNat + row.toNat)]
  | .vlit g _ _ | .vpop g _ _ => [rG g]
  | .mma g _ _ _ _ _ | .mmaz g _ _ _ _ _ | .rmin g _ _ _ | .rmax g _ _ _ | .rsort g _ _ _ | .rtopk g _ _ _ _ | .wload g _ _
  | .wswap g _ | .tepi g _ _ _ _ _ _ _ | .tew g _ _ _ _ _ | .tdrain g _ _ _ _ _ | .force g _ _ _ | .tstore g _ _ _ _ _ _ _
  | .tdrop g _ _ | .acz g _ | .scribe g => [rG g]
  | .tdld g _ base _ => [rG g, rS base]
  | .ldB m | .ldBu m | .ldH m | .ldHu m | .ldW m | .ldWu m | .ldD m | .vld m | .vldb m | .pld m | .stq m => [rG m.g, rS m.base]
  | .stB m | .stH m | .stW m | .stD m => [rG m.g, rS m.base, .sreg m.t.toNat]
  | .vst m => [rG m.g, rS m.base, .vreg m.t.toNat]
  | .pst m => [rG m.g, rS m.base, .preg m.t.toNat]
  | .vgath m => [rG m.g, rS m.base, .vreg m.vi.toNat]
  | .vscat m => [rG m.g, rS m.base, .vreg m.vi.toNat, .vreg m.t.toNat]
  | .ldlW m | .ldlD m => [rG m.g, rS m.base]
  | .stuW m | .stuD m => [rG m.g, rS m.base, .sreg m.t.toNat]
  | .ldacqW m | .ldacqD m => [rG m.g, rS m.base]
  | .strelW m | .strelD m | .aaddW m | .aaddD m | .aminW m | .aminD m | .amaxW m | .amaxD m | .axchW m | .axchD m =>
    [rG m.g, rS m.base, .sreg m.t.toNat]
  | .acasW m | .acasD m => [rG m.g, rS m.base, .sreg m.t.toNat, .sreg (m.t.toNat + 1)]
  | .cpy c | .cpyil c | .cgath c | .tmv c | .ccoll c | .cflush c | .cpq c | .cpre c => [rG c.g, rS c.a]
  | .wait g _ _ _ _ | .waitk g _ | .waitdc g _ _ | .drain g _ | .bara g _ | .barw g _ | .bart g _ _ | .snap g _ | .suspend g
  | .exit g | .yield g | .eret g | .brkpt g => [rG g]
  | .gview g _ a | .grow g _ a | .dcset g _ a => [rG g, rS a]
  | .timer g _ a b => [rG g, rS a, rS b]
  | .spawn g _ a b => rG g :: rS a :: rS b :: (List.range 47).map fun i => .preg (i + 1)
  | .qacq q | .qpeek q => [rG q.g, rS q.r]
  | .qcommit q | .qrel q => [rG q.g, rS q.r, rS q.x]
  | _ => []

/-- A result whose nominal landing cycle has come and that has not landed: a read of its register stalls issue (03 R64). -/
def State.isLate (s : State) (k : Nat) (i : Instr) : Bool :=
  (s.ctx k).flights.any fun f => f.nominal ≤ s.cyc k && (Instr.reads i).contains f.dest

end Sys2Proof.Machine
end

