-- ==== Sys2Proof/Machine/Engine.lean ====
section
/-!
DEFINITION. The engines of a core behind their elastic buffers (03_bundles R63 to R65), a context's own view of its stores (12 R234, R235,
R237), loads and stores as they perform (13 R257, R260 to R269), and locks (13 R267, R268). Engines are numbered by their slots (02 R43).
-/
namespace Sys2Proof.Machine

/-! ### Elastic buffers (03 R65) -/

/-- The contexts of a core. -/
def ctxsOf (core : Nat) : List Nat := [4 * core, 4 * core + 1, 4 * core + 2, 4 * core + 3]

/-- The engine of an operation. -/
def EngOp.eng (o : EngOp) : Nat :=
  match o with
  | .result vb _ _ => if vb then 2 else 1
  | .load _ => 4
  | .store _ => 5
  | .copy m => if m.kind = .tok then 3 else 6
  | .tile .. => 3
  | .sync _ => 0
  | .append .. => 3
  | .tdld .. => 3

def BufOp.eng (b : BufOp) : Nat := b.op.eng

/-- The instructions of context `k` that wait for an engine. -/
def Ctx.waiting (c : Ctx) (eng : Nat) : List BufOp := c.buf.filter fun (b : BufOp) => b.eng == eng

/-- The elastic buffer of an engine holds its eight entries. -/
def State.bufFull (s : State) (k eng : Nat) : Bool :=
  8 ≤ ((ctxsOf (coreOf k)).map fun j => ((s.ctx j).waiting eng).length).sum

/-- Another context of the core has an older instruction in front of the engine. -/
def State.bufOlder (s : State) (k eng issued : Nat) : Bool :=
  (ctxsOf (coreOf k)).any fun j => j != k && ((s.ctx j).waiting eng).any fun (b : BufOp) => b.issued < issued

/-- An operation that acquires when it reads. -/
def EngOp.acquires : EngOp → Bool
  | .load o => (match o.kind with | .acquire => true | .lock _ => true | _ => false)
  | .store o => (match o.kind with | .atomic .. => true | _ => false)
  | _ => false

/-- An acquire of an earlier bundle has not read yet (13 R265, R268, R269). -/
def State.acquiring (s : State) (k seq : Nat) : Bool :=
  let c := s.ctx k
  c.buf.any (fun (b : BufOp) => b.seq < seq && b.op.acquires) || c.stq.any (fun (p : PendStore) => p.seq < seq && (EngOp.store p.op).acquires)
    || s.lockReqs.any fun (l : LockReq) => l.k == k && l.ldl.any fun (x : LoadOp × Nat) => x.2 < seq

/-- The last cycle that a bundle's SLACK absorbs, counted from its issue (03 R65), within the grid's slack class. -/
def State.slackEnd (s : State) (k : Nat) : Nat :=
  let c := s.ctx k
  let sl := match c.run with | some r => r.xb.slack | none => 0
  s.issuedAt k + 4 * Nat.min sl c.slackLimit

/-! ### The context's own stores (12 R234, R235, R237) -/

/-- The cells a plain store, or with `rel` a release, will write. -/
def StoreOp.forwards (o : StoreOp) (rel : Bool) : List Host.Cell :=
  match o.kind with
  | .plain => o.bytes
  | .release => if rel then o.bytes else []
  | _ => []

/-- The stores of bundles before `seq` that have not performed, in program order, each with its cells; of held ones the releases too (R237). -/
def Ctx.ownStores (c : Ctx) (seq : Nat) : List (List Host.Cell) :=
  let back := match c.heldBack with | b :: _ => b.seq | [] => 0
  let ofBuf := fun (rel : Bool) (b : BufOp) =>
    if b.seq < seq then (match b.op with | .store o => o.forwards rel | _ => []) else []
  let ofStq := fun (before : Bool) (p : PendStore) => if p.seq < seq ∧ (p.seq < back) = before then p.op.forwards false else []
  c.stq.map (ofStq true) ++ c.heldBack.map (ofBuf true) ++ c.stq.map (ofStq false) ++ c.buf.map (ofBuf false) ++ c.held.map (ofBuf true)

/-- Their cells. -/
def Ctx.ownCells (c : Ctx) (seq : Nat) : List Host.Cell := (c.ownStores seq).flatten

/-- The last cell listed for an address. -/
def lastCell (a : Nat) : List Host.Cell → Option Byte
  | [] => none
  | x :: r => match lastCell a r with | some b => some b | none => if x.1 = a then some x.2 else none

/-- A byte as a context sees it at bundle `seq`. -/
def State.ownByte (s : State) (k seq a : Nat) : Byte :=
  match lastCell a ((s.ctx k).ownCells seq) with
  | some b => b
  | none => s.mem.read a

/-- Bytes as the context sees them. -/
def State.ownBytes (s : State) (k seq a n : Nat) : List Byte :=
  let cs := (s.ctx k).ownCells seq
  (List.range n).map fun i => match lastCell (a + i) cs with | some b => b | none => s.mem.read (a + i)

/-- The granules of a part. -/
def granulesOf (p : Nat × Nat) : List Nat := (List.range ((p.1 + p.2 + 7) / 8 - p.1 / 8)).map fun i => p.1 / 8 + i

/-- The last pending store on a granule that a load reads does not hold all the bytes it reads there: between it and the store before it in the coherence order another
agent's may come (12 R235, R239). -/
def partly (stores : List (List Host.Cell)) (p : Nat × Nat) : Bool :=
  let last := stores.filter fun l => !l.isEmpty
  !last.isEmpty && (granulesOf p).any fun g =>
    match last.reverse.find? fun l => l.any fun x => x.1 / 8 == g with
    | none => false
    | some l => (List.range 8).any fun i =>
      decide (p.1 ≤ 8 * g + i ∧ 8 * g + i < p.1 + p.2) && !l.any fun x => x.1 == 8 * g + i

/-- A store of an earlier bundle that cannot be forwarded acts on granules of these bytes. -/
def StoreOp.acts (o : StoreOp) (rel : Bool) (parts : List (Nat × Nat)) : Bool :=
  (match o.kind with | .plain => false | .none => false | .release => !rel | _ => true) &&
    parts.any fun p => decide (p.1 / 8 * 8 < o.addr + o.size ∧ o.addr < (p.1 + p.2 + 7) / 8 * 8)

/-- A load of these bytes waits for stores of earlier bundles (R235): for a release, an unlock or an atomic on their granules, and for a store that holds some
of the bytes of a granule only (R239). `held`: of those in the open segment. It waits for none of an interrupted commit, which goes on only after ERET: it sees the stores among them, over
what memory holds, and not the atomics and the unlocks, which have not acted (DESIGN CHOICE, log entry 115). -/
def Ctx.blockedBy (c : Ctx) (held : Bool) (seq : Nat) (parts : List (Nat × Nat)) : Bool :=
  let hits := fun (rel : Bool) (b : BufOp) => b.seq < seq && (match b.op with | .store o => o.acts rel parts | _ => false)
  let stores := { c with heldBack := [] }.ownStores seq
  if held then c.held.any (hits true) || (!c.held.isEmpty && parts.any (partly stores))
  else c.stq.any (fun (p : PendStore) => p.seq < seq && p.op.acts false parts) || c.buf.any (hits false)
    || parts.any (partly stores)

def Ctx.blocked (c : Ctx) (seq : Nat) (parts : List (Nat × Nat)) : Bool := c.blockedBy false seq parts || c.blockedBy true seq parts

/-- The bytes that an operation in a buffer has still to read. -/
def EngOp.unread : EngOp → List (Nat × Nat)
  | .load o => if o.kind = .none then [] else o.parts
  | .tdld _ a _ => [(a, 32)]
  | _ => []

/-- Two reads that a context makes in program order: of one granule, or of its own unit scratchpad (12 R240). -/
def ordered (core : Nat) (p q : Nat × Nat) : Bool :=
  (tagOf p.1 == unitTag core && tagOf q.1 == unitTag core) || (granulesOf p).any fun g => (granulesOf q).contains g

/-- A read of an earlier bundle that comes before one of these bytes waits still, in its buffer or, an LDL, for its lock; or an acquire does, which comes before every later
read (12 R235, R240, R245). -/
def State.readsBefore (s : State) (k seq : Nat) (parts : List (Nat × Nat)) : Bool :=
  let before := fun (l : List (Nat × Nat)) => l.any fun p => parts.any fun q => ordered (coreOf k) p q
  (s.ctx k).buf.any (fun (b : BufOp) => b.seq < seq && before b.op.unread)
    || s.lockReqs.any (fun (l : LockReq) => l.k == k && l.ldl.any fun (x : LoadOp × Nat) => decide (x.2 < seq) && before x.1.parts) || s.acquiring k seq

/-- A descriptor, or a ring block that is peeked at, cannot be read yet: for the context's own stores, or for its earlier reads. -/
def State.mustNotRead (s : State) (k seq : Nat) (parts : List (Nat × Nat)) : Bool := (s.ctx k).blocked seq parts || s.readsBefore k seq parts

/-- A TDLD of an earlier bundle has still to write one of these descriptor registers (17 R348). -/
def Ctx.tdWritten (c : Ctx) (seq : Nat) (tds : List Nat) : Bool := c.flights.any fun (f : Flight) => decide (f.seq < seq) && tds.any fun n => f.dest == .td n

/-- A store of a bundle up to `seq` on these bytes has not performed. -/
def Ctx.storing (c : Ctx) (seq : Nat) (parts : List (Nat × Nat)) : Bool :=
  let hits := fun (sq : Nat) (o : StoreOp) => sq ≤ seq && o.kind != .none &&
    parts.any fun p => decide (p.1 < o.addr + o.size ∧ o.addr < p.1 + p.2) || o.bytes.any fun x => decide (p.1 ≤ x.1 ∧ x.1 < p.1 + p.2)
  c.stq.any (fun (p : PendStore) => hits p.seq p.op) || c.buf.any fun (b : BufOp) => match b.op with | .store o => hits b.seq o | _ => false

/-! ### Acceptance (03 R65, 13 R257) -/

/-- The largest number of addresses in one bank, at least 1 (13 R262). -/
def bankLoad (as : List Nat) : Nat :=
  as.foldl (fun m a => Nat.max m (countIf as fun b => tagOf b == tagOf a && bankOf b == bankOf a)) 1

/-- The cycles an operation occupies its engine. -/
def EngOp.interval : EngOp → Nat
  | .result _ _ n => n
  | .load o => bankLoad (o.parts.map fun p => p.1)
  | .store o => if o.size < o.bytes.length then bankLoad ((List.range (o.bytes.length / 4)).map fun i => (o.bytes.getD (4 * i) (0, 0)).1) else 1
  | _ => 1

/-- The commands that enter a copy command queue (14 R301; 03 R53). -/
def CmdKind.queued : CmdKind → Bool
  | .tmv | .none | .noneT | .tok => false
  | _ => true

/-- A cluster's copy command queue has room, and fewer than four commands have entered it in this cycle (14 R301). -/
def State.copyRoom (s : State) (cl : Nat) : Bool :=
  let x := s.cluster cl
  countIf s.cmds (fun (m : Cmd) => clusterOf m.k == cl && m.kind.queued) < 256 && (x.grantAt != x.cycle || decide (x.grants < 4))

/-- The place of a core in a cluster's turn, which starts after the last core that it granted (14 R301). -/
def Cluster.turn (cl : Cluster) (core : Nat) : Nat := (core % 96 + 95 - cl.lastGrant % 96) % 96

/-- The engine of an instruction of context `k` is free for it: nothing older is in front of it, and no acquire that it follows is still to read (03 R65; 13 R265). -/
def State.atEngine (s : State) (k : Nat) (b : BufOp) : Bool :=
  lookD (s.core (coreOf k)).engFree b.eng 0 ≤ s.cyc k && !s.bufOlder k b.eng b.issued && (b.eng < 3 || !s.acquiring k b.seq)

/-- The command enters a copy command queue. -/
def EngOp.queued : EngOp → Bool
  | .copy m => m.kind.queued
  | _ => false

/-- No node of the context is to produce one of these kins. -/
def Ctx.kinsFree (c : Ctx) (kins : List (Nat × Nat)) : Bool := !c.nodes.any fun (n : Node) => kins.any fun kb => n.toks.kout.toNat == kb.1 && n.koutBind == kb.2

/-- What context `k` has in front of its C engine: the oldest entry of the buffer, or, where that is empty, the oldest operation of a segment that commits. -/
def State.copyFront (s : State) (k : Nat) : Option BufOp :=
  let c := s.ctx k
  match c.waiting 6, c.held with
  | b :: _, _ => some b
  | [], b :: _ =>
    if c.committing && decide (c.commitAt ≤ s.cyc k) && (match b.op with | .copy m => c.kinsFree m.kins | _ => false) then some b else none
  | [], [] => none

/-- Context `k` offers the copy command queue a command: its C engine could accept it. -/
def State.offers (s : State) (k : Nat) : Bool := (s.copyFront k).any fun b => b.op.queued && s.atEngine k b

/-- No core that comes before this one offers the copy command queue a command (14 R301). -/
def State.copyTurn (s : State) (core : Nat) : Bool :=
  let x := s.cluster (core / 96)
  !s.ctxs.any fun e => clusterOf e.1 == core / 96 && coreOf e.1 != core && decide (x.turn (coreOf e.1) < x.turn core) && s.offers e.1

/-- A command enters the queue. -/
def Cluster.granted (cl : Cluster) (core : Nat) : Cluster :=
  { cl with lastGrant := core % 96, grantAt := cl.cycle, grants := (if cl.grantAt = cl.cycle then cl.grants else 0) + 1 }

/-- Its engine can accept an instruction of context `k` now. -/
def State.canAccept (s : State) (k : Nat) (b : BufOp) : Bool :=
  s.atEngine k b &&
    match b.op with
    | .load o => !s.mustNotRead k b.seq o.parts && s.windowOpen (socketOf k) (o.parts.map fun p => p.1)
    | .copy m => !m.kind.queued || (s.copyRoom (clusterOf k) && s.copyTurn (coreOf k))
    | .append _ tds => !(s.ctx k).tdWritten b.seq tds
    | .tdld td a _ => !s.mustNotRead k b.seq [(a, 32)] && !(s.ctx k).tdWritten b.seq [td]
    | _ => true

/-- The flight of a bundle's load (`ldc`, `ldp`) or store (`stc`, `stp`) to a register gets its value and the cycle it can land from. -/
def fillFlight (ctr : Ctr) (d : Dest) (seq : Nat) (v : Vec) (due : Nat) (fs : List Flight) : List Flight :=
  (updFirst (fun (f : Flight) => f.ctr == ctr && f.dest == d && f.seq == seq && !f.acc) (fun f => { f with val := v, acc := true, due := due })
    fs.reverse).reverse

def State.fill (s : State) (k : Nat) (ctr : Ctr) (d : Dest) (seq : Nat) (v : Vec) (lat : Nat) : State :=
  s.modCtx k fun c => { c with flights := fillFlight ctr d seq v (s.cyc k + lat) c.flights }

/-- The flight of a bundle's load to a register is dropped: the register keeps its value. Its counter still falls when it is due. -/
def State.void (s : State) (k : Nat) (d : Dest) (seq : Nat) (lat : Nat) : State :=
  s.modCtx k fun c =>
    let fs := updFirst (fun (f : Flight) => f.ctr == .ldc && f.dest == d && f.seq == seq && !f.acc)
      (fun f => { f with dest := .none, acc := true, due := s.cyc k + lat }) c.flights
    { c with flights := fs }

/-- The value of the bytes a load has read (13 R260 to R263, R265, R268). -/
def LoadKind.value (kd : LoadKind) (bs : List Byte) : Vec :=
  let n := leNat bs
  match kd with
  | .scalar false | .pred | .vec | .none => BitVec.ofNat 1024 n
  | .scalar true | .acquire | .lock _ =>
    (if bs.length = 1 then (BitVec.ofNat 8 n).signExtend 64 else if bs.length = 2 then (BitVec.ofNat 16 n).signExtend 64
      else if bs.length = 4 then (BitVec.ofNat 32 n).signExtend 64 else BitVec.ofNat 64 n).setWidth 1024
  | .bcast => splat (BitVec.ofNat 32 n)

/-- A load reads its bytes now; its result lands after its latency (R257). -/
def State.loadReads (s : State) (k seq : Nat) (o : LoadOp) : State :=
  let bs := (o.parts.map fun p => s.ownBytes k seq p.1 p.2).flatten
  (s.windowFlits (socketOf k) (o.parts.map fun p => p.1)).fill k .ldc o.dest seq (o.kind.value bs) o.lat

/-! ### Locks (13 R267, R268) -/

/-- The lock is free, or held by the context. -/
def State.lockOpen (s : State) (l k : Nat) : Bool :=
  match look? s.locks l with
  | none => true
  | some h => h.k == k

/-- A request of the context for the lock is granted: it holds the lock, or the lock is free and no other request came before (R267 to R269). -/
def State.lockMine (s : State) (l k : Nat) : Bool :=
  match look? s.locks l with
  | none => (s.lockReqs.find? fun (r : LockReq) => r.lock == l).all fun r => r.k == k
  | some h => h.k == k

/-- The lock of a load or store of one granule. -/
def LoadOp.lock (o : LoadOp) : Nat := lockOf ((o.parts.headD (0, 0)).1)
def StoreOp.lock (o : StoreOp) : Nat := lockOf o.addr

/-- Ldl with the lock: it is held from now on, the granule is read, pd becomes all ones (R268). -/
def State.ldlGranted (s : State) (k seq : Nat) (o : LoadOp) : State :=
  let s1 := { s with locks := put s.locks o.lock ⟨k, ownerSocket (o.parts.headD (0, 0)).1, (s.cluster (clusterOf k)).fifths, 0⟩ }
  let s2 := s1.loadReads k seq o
  match o.kind with
  | .lock pd => if pd = 0 then s2 else s2.fill k .ldp (.preg pd) seq (BitVec.allOnes 1024) o.lat
  | _ => s2

/-- Ldl without the lock after its wait: pd becomes 0, s_t keeps its value, at the latency of the space from then on (R268). -/
def State.ldlFailed (s : State) (k seq : Nat) (o : LoadOp) : State :=
  let s1 := s.void k o.dest seq o.lat
  match o.kind with
  | .lock pd => if pd = 0 then s1 else s1.fill k .ldp (.preg pd) seq 0 o.lat
  | _ => s1

/-- A load leaves its buffer (R257, R265, R268). -/
def State.acceptLoad (s : State) (k seq : Nat) (o : LoadOp) : State :=
  match o.kind with
  | .lock _ =>
    if s.lockMine o.lock k then s.ldlGranted k seq o
    else { s with lockReqs := s.lockReqs ++ [⟨o.lock, k, false, some (o, seq), s.cyc k⟩] }
  | _ => s.loadReads k seq o

/-- A store leaves its buffer: it performs later, in program order (R257). One with a false guard only retires (03 R53). -/
def State.acceptStore (s : State) (k seq : Nat) (o : StoreOp) : State :=
  match o.kind with
  | .none => s.fill k .stc .none seq 0 o.lat
  | _ => s.modCtx k fun c => { c with stq := c.stq ++ [⟨seq, s.cyc k, o, none⟩] }

/-- A TDLD reads its 32 bytes now; its register is written after its latency (17 R348). -/
def State.tdldReads (s : State) (k seq td a lat : Nat) : State :=
  s.fill k .tlc (.td td) seq (BitVec.ofNat 1024 (leNat (s.ownBytes k seq a 32))) lat

/-- A result whose instruction is accepted in a cycle lands as much after its nominal cycle as that is after its issue (03 R65); one whose nominal cycle a step trap has
moved up all the same (19 R403). -/
def startFlight (cycle issued : Nat) (fs : List Flight) (e : Flight) : Flight :=
  match fs.find? fun (f : Flight) => { f with nominal := e.nominal } == e with
  | some f => { e with acc := true, due := cycle + (f.nominal - issued) }
  | none => e

/-- An engine accepts an instruction (03 R65). -/
def State.accept (s : State) (k : Nat) (b : BufOp) : State :=
  let s1 := s.modCore (coreOf k) fun co => { co with engFree := put co.engFree b.eng (s.cyc k + b.op.interval) }
  match b.op with
  | .result _ fs _ => s1.modCtx k fun c => { c with flights := c.flights.map (startFlight (s.cyc k) b.issued fs) }
  | .load o => s1.acceptLoad k b.seq o
  | .store o => s1.acceptStore k b.seq o
  | .copy m =>
    let s2 := { s1 with cmds := s1.cmds ++ [{ m with id := s1.cmdSrc + 1, acceptedAt := s.cyc k }], cmdSrc := s1.cmdSrc + 1 }
    if m.kind.queued then s2.modCluster (clusterOf k) fun cl => cl.granted (coreOf k) else s2
  | .tdld td a lat => s1.tdldReads k b.seq td a lat
  | .tile .. => s1
  | .sync _ => s1
  | .append .. => s1

/-- The oldest instruction of context `k` in front of an engine is accepted, if it can be. -/
def State.acceptFirst (s : State) (k eng : Nat) : State :=
  match (s.ctx k).buf.find? fun (b : BufOp) => b.eng == eng with
  | some b => if s.canAccept k b then (s.modCtx k fun c => { c with buf := dropFirst (fun e => e == b) c.buf }).accept k b else s
  | none => s

/-- The entry of an instruction of the bundle in progress. One that found its buffer full keeps the context blocked until it is accepted (03 R65). -/
def State.bufOp (s : State) (k : Nat) (op : EngOp) : BufOp :=
  { seq := (s.ctx k).seqNow, rp := (s.ctx k).resumePoint, issued := s.issuedAt k
    limit := if (s.ctx k).wait == .engine then 0 else s.slackEnd k, op := op }

/-- An instruction enters its elastic buffer, and its engine if that can accept it (03 R65). The copy command queue grants once every core has issued in the cycle (14
R301). -/
def State.submit (s : State) (k : Nat) (op : EngOp) : State :=
  let b := s.bufOp k op
  let s1 := s.modCtx k fun c => { c with buf := c.buf ++ [b] }
  if op.queued then s1 else s1.acceptFirst k b.eng

/-- An instruction that finds its buffer full waits in its slot, the context blocked (03 R65). -/
def State.withRoom (s : State) (k eng : Nat) (f : SlotRes) : SlotRes := if s.bufFull k eng then .block .engine s else f

/-- Results of an engine with one latency (03 R64): their flights wait until the engine accepts the instruction. -/
def State.vresults (s : State) (k : Nat) (ds : List (Dest × Vec)) (mask : BitVec 32) (lat interval : Nat) : State :=
  let fs := ds.map fun d => s.flight k d.1 mask d.2 lat false .none
  (s.modCtx k fun c => { c with flights := c.flights ++ fs }).submit k (.result ((s.ctx k).slotNow == 2) fs interval)

def State.vresult (s : State) (k : Nat) (d : Dest) (mask : BitVec 32) (v : Vec) (lat interval : Nat) : State :=
  s.vresults k [(d, v)] mask lat interval

/-! ### Stores perform (13 R257, R266 to R269) -/

/-- A load of a bundle up to `seq` has not read its bytes: stores of those bundles wait (03 R63). -/
def State.loadsUnread (s : State) (k seq : Nat) : Bool :=
  (s.ctx k).buf.any (fun (b : BufOp) => b.seq ≤ seq && (match b.op with | .load o => o.kind != .none | .tdld .. => true | _ => false))
    || s.lockReqs.any fun (l : LockReq) => l.k == k && l.ldl.any fun (x : LoadOp × Nat) => x.2 ≤ seq

/-- The result's landing is its instruction's retirement. -/
def Ctr.counts : Ctr → Bool
  | .ldc | .stc | .tlc => true
  | _ => false

/-- The instruction is one of the bound continuation's, not a copy that one before it left in the buffer (02 R36). -/
def BufOp.ofGen (b : BufOp) (gen : Nat) : Bool := match b.op with | .copy m => m.gen == gen | _ => true

/-- Every L-, ST-, C- and T-slot operation of bundles before `seq` has retired (13 R266). -/
def State.allRetired (s : State) (k seq : Nat) : Bool :=
  let c := s.ctx k
  !c.buf.any (fun (b : BufOp) => 3 ≤ b.eng && b.seq < seq && b.ofGen c.gen) && !c.stq.any (fun (p : PendStore) => p.seq < seq)
    && !c.flights.any (fun (f : Flight) => f.ctr.counts && f.seq < seq)
    && !s.lockReqs.any (fun (l : LockReq) => l.k == k && l.ldl.any fun (x : LoadOp × Nat) => x.2 < seq)
    && !s.cmds.any fun (m : Cmd) => m.kind != .tok && m.k == k && m.gen == c.gen && m.seq < seq

/-- An atomic performs: the granule is read and written, the old value goes to s_t (13 R269). -/
def State.atomic (s : State) (k seq : Nat) (o : StoreOp) (op : AtomOp) (t : Nat) (x y : Word) : State :=
  let old := s.mem.nat o.addr o.size
  let v := if o.size = 4 then (BitVec.ofNat 32 old).signExtend 64 else BitVec.ofNat 64 old
  { s with mem := s.mem.atomic o op x y }.fill k .stc (if t = 0 then .none else .sreg t) seq (v.setWidth 1024) o.lat

/-- The head of the pending stores leaves them. -/
def State.popStore (s : State) (k : Nat) : State := s.modCtx k fun c => { c with stq := c.stq.tail }

/-- The bundle in progress has its C slot still to run, whose descriptor a store of the bundle does not reach (13 R270, 03 R81). -/
def Ctx.copyAhead (c : Ctx) (seq : Nat) : Bool := c.run.any fun r => r.seq == seq && decide (r.slot ≤ 6)

/-- The addresses of the bytes a store may write. -/
def StoreOp.places (o : StoreOp) : List Nat := o.bytes.map fun c => c.1

/-- The kinds with the release side (12 R241). -/
def StoreKind.releases : StoreKind → Bool
  | .release | .unlock _ | .atomic .. => true
  | _ => false

/-- The cycle and the TIME from which the write path of a scope is empty, for one who begins to wait with the cycle that begins (12 R246). -/
def State.pathEnd (s : State) (k : Nat) (sc : Scope) : Nat × Nat :=
  match sc with
  | .u => (0, 0)
  | .c => (s.cyc k, 0)
  | .d => (s.cyc k + 3, 0)
  | .p => (0, s.time + bits s.freeBits.toNat 0 64 % 41)
  | .s => (0, s.time + bits s.freeBits.toNat 0 64 % 81)

/-- The release at the head of the pending stores begins to wait for its write path in the cycle after the operations before it have retired (13 R266). -/
def State.openPath (s : State) (k : Nat) : State :=
  match (s.ctx k).stq with
  | p :: r =>
    if p.path.isNone && p.op.kind.releases && p.op.scope != .u && s.allRetired k p.seq then
      (s.modCtx k fun c => { c with stq := { p with path := some (s.pathEnd k p.op.scope) } :: r }).bumpFree else s
  | [] => s

/-- Its write path is empty. -/
def State.pathEmpty (s : State) (k : Nat) (p : PendStore) : Bool :=
  p.op.scope == .u || p.path.any fun x => decide (x.1 ≤ s.cyc k ∧ x.2 ≤ s.time)

/-- The oldest accepted store can perform now, or ask for its lock. -/
def State.storeReady (s : State) (k : Nat) : Bool :=
  match (s.ctx k).stq with
  | [] => false
  | p :: _ =>
    !s.loadsUnread k p.seq && !(s.ctx k).copyAhead p.seq && s.windowOpen (socketOf k) p.op.places &&
    match p.op.kind with
    | .plain | .none => true
    | .release | .unlock _ => s.allRetired k p.seq && s.pathEmpty k p
    | .atomic .. => s.allRetired k p.seq && s.pathEmpty k p && !s.lockReqs.any fun (l : LockReq) => l.k == k && l.ldl.isNone && !l.ring

/-- The oldest accepted store performs (R257): plain, release, unlock (R268) or atomic (R269). -/
def State.performStore (s0 : State) (k : Nat) : State :=
  match (s0.ctx k).stq with
  | [] => s0
  | p :: _ =>
    if !s0.storeReady k then s0
    else
      let s := s0.windowFlits (socketOf k) p.op.places
      let done := fun (s : State) => (s.popStore k).modCtx k fun c => c.decr .stc
      match p.op.kind with
      | .plain | .release | .none => done { s with mem := s.mem.writes p.op.bytes }
      | .unlock pd =>
        let own := (look? s.locks p.op.lock).any fun (h : Lock) => h.k == k
        let s1 := if own then { s with mem := s.mem.writes p.op.bytes, locks := del s.locks p.op.lock } else s
        done (if pd = 0 then s1 else s1.fill k .stp (.preg pd) p.seq (if own then BitVec.allOnes 1024 else 0) p.op.lat)
      | .atomic op t x y =>
        if s.lockMine p.op.lock k then (s.popStore k).atomic k p.seq p.op op t x y
        else if s.lockReqs.any (fun (l : LockReq) => l.k == k && l.ldl.isNone && !l.ring) then s
        else { s with lockReqs := s.lockReqs ++ [⟨p.op.lock, k, false, none, s.cyc k⟩] }

/-- The first request for a lock that can be granted is granted (R267): an LDL takes it, an atomic performs. A queue instruction acts in its slot (14 R293). -/
def State.grantLock (s : State) (l : Nat) : State :=
  match s.lockReqs.find? fun (r : LockReq) => r.lock == l with
  | none => s
  | some r =>
    if !s.lockOpen l r.k ∨ r.ring then s
    else
      let s1 := { s with lockReqs := dropFirst (fun e => e == r) s.lockReqs }
      match r.ldl with
      | some x => s1.ldlGranted r.k x.2 x.1
      | none =>
        match (s1.ctx r.k).stq with
        | p :: _ =>
          match p.op.kind with
          | .atomic op t x y => (s1.popStore r.k).atomic r.k p.seq p.op op t x y
          | _ => s1
        | [] => s1

/-- A lock has been held for 64 cycles of the clock of the die that owns it (R267). Of the I/O die on socket 12, whose clock 01 R20 does not give, the model takes the same
1.25 GHz (DESIGN CHOICE, log entry 72). -/
def State.lockDue (s : State) (h : Lock) : Bool := decide (h.since + (64 - h.spent) * (s.die h.die).period ≤ (s.cluster (clusterOf h.k)).fifths)

/-- The cycles that a lock's die has counted by an instant, as the period of its clock changes. -/
def Lock.count (h : Lock) (period now : Nat) : Lock :=
  let n := (now - h.since) / period
  { h with since := h.since + n * period, spent := h.spent + n }

/-- The clock of a die runs with another period (01 R20), from which the locks it owns go on counting (R267). -/
def State.setPeriod (s : State) (die period : Nat) : State :=
  let old := (s.die die).period
  { s with locks := s.locks.map fun (e : Nat × Lock) => if e.2.die = die then (e.1, e.2.count old (s.cluster (clusterOf e.2.k)).fifths) else e }.modDie die fun d => { d with period := period }

/-- It becomes free. -/
def State.expireLock (s : State) (l : Nat) : State :=
  match look? s.locks l with
  | some h => if s.lockDue h then { s with locks := del s.locks l } else s
  | none => s

/-- An LDL that has waited 256 cycles fails (R268). They are the cycles of its context's cluster, stretched ones among them; the rule does not say whose (DESIGN CHOICE, log
entry 72). -/
def State.timeoutLdl (s : State) (k : Nat) : State :=
  match s.lockReqs.find? fun (r : LockReq) => r.k == k && r.ldl.isSome && r.first + 256 ≤ s.cyc k with
  | some r =>
    match r.ldl with
    | some x => { s with lockReqs := dropFirst (fun e => e == r) s.lockReqs }.ldlFailed k x.2 x.1
    | none => s
  | none => s

end Sys2Proof.Machine
end

