-- ==== Sys2Proof/Machine/Float.lean ====
section
/-!
DEFINITION. Number formats and arithmetic rules (06_formats R113 to R133), on encodings, with exact dyadic values in between.
-/
namespace Sys2Proof.Machine

/-! ### Formats and values (R114) -/

/-- A floating-point format: exponent bits, fraction bits, bias, and the magnitudes of its largest finite value, of its infinity (in
E4M3 the NaN) and of its canonical NaN. -/
structure Fmt where
  eb : Nat
  fb : Nat
  bias : Nat
  maxFin : Nat
  inf : Nat
  nan : Nat
  hasInf : Bool
deriving DecidableEq, Repr

def fp32 : Fmt := ⟨8, 23, 127, 0x7f7fffff, 0x7f800000, 0x7fc00000, true⟩
def fp16 : Fmt := ⟨5, 10, 15, 0x7bff, 0x7c00, 0x7e00, true⟩
def bf16 : Fmt := ⟨8, 7, 127, 0x7f7f, 0x7f80, 0x7fc0, true⟩
def e4m3 : Fmt := ⟨4, 3, 7, 0x7e, 0x7f, 0x7f, false⟩
def e5m2 : Fmt := ⟨5, 2, 15, 0x7b, 0x7c, 0x7e, true⟩
def af26 : Fmt := ⟨8, 17, 127, 0x1fdffff, 0x1fe0000, 0x1ff0000, true⟩

/-- Width of a format. -/
def Fmt.width (f : Fmt) : Nat := 1 + f.eb + f.fb

/-- A value: NaN, an infinity, or exactly `(-1)^neg * m * 2^e`; a zero keeps its sign. -/
inductive FVal where
  | nan
  | inf (neg : Bool)
  | fin (neg : Bool) (m : Nat) (e : Int)
deriving DecidableEq, Repr

/-- Sign bit and magnitude bits of an encoding. -/
def Fmt.sign (f : Fmt) (x : Nat) : Bool := x.testBit (f.eb + f.fb)
def Fmt.mag (f : Fmt) (x : Nat) : Nat := x % 2 ^ (f.eb + f.fb)

/-- An encoding from sign and magnitude. -/
def Fmt.enc (f : Fmt) (neg : Bool) (mag : Nat) : Nat := (if neg then 2 ^ (f.eb + f.fb) else 0) + mag

/-- The encoding is a NaN (R114, R115). -/
def Fmt.isNaN (f : Fmt) (x : Nat) : Bool := if f.hasInf then f.inf < f.mag x else f.mag x = f.nan

/-- The encoding is an infinity. -/
def Fmt.isInf (f : Fmt) (x : Nat) : Bool := f.hasInf && f.mag x == f.inf

/-- The value of an encoding (R114). -/
def Fmt.val (f : Fmt) (x : Nat) : FVal :=
  if f.isNaN x then .nan
  else if f.isInf x then .inf (f.sign x)
  else
    let e := f.mag x / 2 ^ f.fb
    let fr := f.mag x % 2 ^ f.fb
    if e = 0 then .fin (f.sign x) fr (1 - (f.bias : Int) - f.fb)
    else .fin (f.sign x) (2 ^ f.fb + fr) ((e : Int) - f.bias - f.fb)

/-- The value of an integer; zero is positive. -/
def FVal.ofInt (i : Int) : FVal := .fin (i < 0) i.natAbs 0

/-! ### Rounding (R125, R126) -/

/-- `m / 2^sh` rounded to an integer under a mode, for a value of the given sign. -/
def roundShift (mode : RMode) (neg : Bool) (m sh : Nat) : Nat :=
  let q := m / 2 ^ sh
  let r := m % 2 ^ sh
  if r = 0 then q
  else match mode with
    | .rtz => q
    | .rdn => if neg then q + 1 else q
    | .rup => if neg then q else q + 1
    | .rne => if 2 ^ sh < 2 * r then q + 1 else if 2 * r = 2 ^ sh then q + q % 2 else q

/-- `m * 2^e` rounded to a multiple of `2^q`, in units of `2^q`. -/
def roundUnit (mode : RMode) (neg : Bool) (m : Nat) (e q : Int) : Nat :=
  if q ≤ e then m * 2 ^ (e - q).toNat else roundShift mode neg m (q - e).toNat

/-- Position of the leading one: `2^n ≤ m < 2^(n+1)` (m not zero). -/
def lead (m : Nat) : Nat := Nat.log2 m

/-- A finite result beyond the format: infinity or the largest finite value, as the mode says; E4M3 has the NaN for infinity (R125). -/
def Fmt.overflow (f : Fmt) (mode : RMode) (neg sat : Bool) : Nat :=
  let away := match mode with | .rne => true | .rtz => false | .rdn => neg | .rup => !neg
  if sat || !away then f.enc neg f.maxFin else if f.hasInf then f.enc neg f.inf else f.nan

/-- Round(v, fmt, mode, sat) for a floating format (R125). -/
def Fmt.round (f : Fmt) (mode : RMode) (sat : Bool) (v : FVal) : Nat :=
  match v with
  | .nan => f.nan
  | .inf neg => if sat then f.enc neg f.maxFin else if f.hasInf then f.enc neg f.inf else f.nan
  | .fin neg m e =>
    if m = 0 then f.enc neg 0
    else
      let q0 : Int := e + lead m - f.fb
      let qmin : Int := 1 - (f.bias : Int) - f.fb
      let q := if q0 < qmin then qmin else q0
      let w := roundUnit mode neg m e q
      let mag := w + ((q - qmin).toNat) * 2 ^ f.fb
      if f.maxFin < mag then f.overflow mode neg sat else f.enc neg mag

/-- RoundToInteger of a finite value (R125). -/
def roundToInt (mode : RMode) (neg : Bool) (m : Nat) (e : Int) : Int :=
  let w : Nat := roundUnit mode neg m e 0
  if neg then -(w : Int) else w

/-- Round(v, fmt, mode, sat) for a two's complement integer of `w` bits (R125). -/
def roundInt (w : Nat) (mode : RMode) (sat : Bool) (v : FVal) : Nat :=
  let lo : Int := -(2 ^ (w - 1))
  let hi : Int := 2 ^ (w - 1) - 1
  let wrap := fun (i : Int) => (i % 2 ^ w).toNat
  match v with
  | .nan => 0
  | .inf neg => if sat then (if neg then wrap lo else wrap hi) else wrap lo
  | .fin neg m e =>
    let q := roundToInt mode neg m e
    if lo ≤ q ∧ q ≤ hi then wrap q else if sat then (if q < lo then wrap lo else wrap hi) else wrap lo

/-! ### Exact operations (R127, R183) -/

/-- Negation; NaN stays NaN. -/
def FVal.neg : FVal → FVal
  | .nan => .nan
  | .inf s => .inf (!s)
  | .fin s m e => .fin (!s) m e

/-- The exact product; the sign is the XOR of the signs (R127). -/
def FVal.mul : FVal → FVal → FVal
  | .nan, _ => .nan
  | _, .nan => .nan
  | .inf s, .inf t => .inf (s != t)
  | .inf s, .fin t m _ => if m = 0 then .nan else .inf (s != t)
  | .fin s m _, .inf t => if m = 0 then .nan else .inf (s != t)
  | .fin s m e, .fin t n f => .fin (s != t) (m * n) (e + f)

/-- The exact sum; a zero sum of opposite signs takes the sign of the mode (R127). -/
def FVal.add (mode : RMode) : FVal → FVal → FVal
  | .nan, _ => .nan
  | _, .nan => .nan
  | .inf s, .inf t => if s = t then .inf s else .nan
  | .inf s, .fin _ _ _ => .inf s
  | .fin _ _ _, .inf t => .inf t
  | .fin s m e, .fin t n f =>
    let g := if e ≤ f then e else f
    let x := m * 2 ^ (e - g).toNat
    let y := n * 2 ^ (f - g).toNat
    if s = t then .fin s (x + y) g
    else if x = y then .fin (mode == .rdn) 0 g
    else if x < y then .fin t (y - x) g else .fin s (x - y) g

/-- An infinite input under SAT becomes the largest finite value (R126). -/
def Fmt.satIn (f : Fmt) (sat : Bool) (x : Nat) : Nat := if sat && f.isInf x then f.enc (f.sign x) f.maxFin else x

/-- The value of an input under SAT. -/
def Fmt.input (f : Fmt) (sat : Bool) (x : Nat) : FVal := f.val (f.satIn sat x)

/-- VADD, VSUB, VMUL and the fused families on one element (R183). -/
def Fmt.add (f : Fmt) (mode : RMode) (sat : Bool) (a b : Nat) : Nat := f.round mode sat ((f.input sat a).add mode (f.input sat b))
def Fmt.sub (f : Fmt) (mode : RMode) (sat : Bool) (a b : Nat) : Nat := f.round mode sat ((f.input sat a).add mode (f.input sat b).neg)
def Fmt.mul (f : Fmt) (mode : RMode) (sat : Bool) (a b : Nat) : Nat := f.round mode sat ((f.input sat a).mul (f.input sat b))
def Fmt.fma (f : Fmt) (mode : RMode) (sat : Bool) (a b c : Nat) : Nat :=
  f.round mode sat (((f.input sat a).mul (f.input sat b)).add mode (f.input sat c))
def Fmt.fms (f : Fmt) (mode : RMode) (sat : Bool) (a b c : Nat) : Nat :=
  f.round mode sat (((f.input sat a).mul (f.input sat b)).add mode (f.input sat c).neg)
def Fmt.fnma (f : Fmt) (mode : RMode) (sat : Bool) (a b c : Nat) : Nat :=
  f.round mode sat ((f.input sat c).add mode ((f.input sat a).mul (f.input sat b)).neg)

/-! ### Orders, signs, integers and roots (R129, R184, R185) -/

/-- The order of VMIN and VMAX: -0 below +0 (R129). -/
def Fmt.key (f : Fmt) (x : Nat) : Int := if f.sign x then -(f.mag x : Int) - 1 else f.mag x

/-- The order of the compares: -0 equals +0 (R188). -/
def Fmt.cmpKey (f : Fmt) (x : Nat) : Int := if f.sign x then -(f.mag x : Int) else f.mag x

def Fmt.min (f : Fmt) (a b : Nat) : Nat := if f.isNaN a || f.isNaN b then f.nan else if f.key b < f.key a then b else a
def Fmt.max (f : Fmt) (a b : Nat) : Nat := if f.isNaN a || f.isNaN b then f.nan else if f.key a < f.key b then b else a

/-- VABS, VNEG and VCPYS; a NaN in a becomes canonical (R184). -/
def Fmt.abs (f : Fmt) (a : Nat) : Nat := if f.isNaN a then f.nan else f.mag a
def Fmt.negate (f : Fmt) (a : Nat) : Nat := if f.isNaN a then f.nan else f.enc (!f.sign a) (f.mag a)
def Fmt.copySign (f : Fmt) (a b : Nat) : Nat := if f.isNaN a then f.nan else f.enc (f.sign b) (f.mag a)

/-- VCLAMP: Min(Max(c, a), b) (R184). -/
def Fmt.clamp (f : Fmt) (c a b : Nat) : Nat := f.min (f.max c a) b

/-- A condition of VCMP (R74, R188). -/
def Fmt.cond (f : Fmt) (cc : FCond) (a b : Nat) : Bool :=
  let un := f.isNaN a || f.isNaN b
  match cc with
  | .eq => !un && f.cmpKey a == f.cmpKey b
  | .ne => un || f.cmpKey a != f.cmpKey b
  | .lt => !un && f.cmpKey a < f.cmpKey b
  | .le => !un && f.cmpKey a ≤ f.cmpKey b
  | .gt => !un && f.cmpKey b < f.cmpKey a
  | .ge => !un && f.cmpKey b ≤ f.cmpKey a
  | .un => un
  | .or => !un

/-- VRND: an integer value in the same format; a zero keeps the sign of the input (R185). -/
def Fmt.rnd (f : Fmt) (mode : RMode) (a : Nat) : Nat :=
  match f.val a with
  | .fin neg m e => f.round .rne false (.fin neg (roundUnit mode neg m e 0) 0)
  | v => f.round .rne false v

/-- The integer square root, bit by bit from `2^n` down. -/
def isqrt (x : Nat) : Nat → Nat → Nat
  | 0, r => if (r + 1) * (r + 1) ≤ x then r + 1 else r
  | n + 1, r => isqrt x n (if (r + 2 ^ (n + 1)) * (r + 2 ^ (n + 1)) ≤ x then r + 2 ^ (n + 1) else r)

/-- VSQRT (R129): the exact root rounded under the mode. The root of `m * 2^e` is taken to 32 bits with a sticky bit below. -/
def sqrt32 (mode : RMode) (a : Nat) : Nat :=
  match fp32.val a with
  | .nan => fp32.nan
  | .inf neg => if neg then fp32.nan else fp32.inf
  | .fin neg m e =>
    if m = 0 then a
    else if neg then fp32.nan
    else
      let odd : Nat := (e % 2).toNat
      let x := m * 2 ^ (64 + odd)
      let e1 : Int := e - 64 - odd
      let r := isqrt x 46 0
      fp32.round mode false (.fin false (2 * r + (if r * r = x then 0 else 1)) (e1 / 2 - 1))

/-! ### Transcendentals (R131 to R133): every step rounds to FP32 with RNE -/

def mul32 (a b : Nat) : Nat := fp32.mul .rne false a b
def add32 (a b : Nat) : Nat := fp32.add .rne false a b
def fma32 (a b c : Nat) : Nat := fp32.fma .rne false a b c
def neg32 (a : Nat) : Nat := fp32.enc (!fp32.sign a) (fp32.mag a)

/-- ScaleB(y, n) (R131). -/
def scaleB (y : Nat) (n : Int) : Nat :=
  match fp32.val y with
  | .fin s m e => fp32.round .rne false (.fin s m (e + n))
  | v => fp32.round .rne false v

/-- The constants 1.0, -1.0, 0.5 and -2.0. -/
def one32 : Nat := 0x3f800000
def mone32 : Nat := 0xbf800000
def half32 : Nat := 0x3f000000
def mtwo32 : Nat := 0xc0000000

/-- The tables of R132, each entry the FP32 value that RNE gives for the decimal printed. -/
def tabG : List Nat := [0x3f800000, 0x3f638e39, 0x3f4ccccd, 0x3f3a2e8c, 0x3f2aaaab, 0x3f1d89d9, 0x3f124925, 0x3f088888]
def tabL : List Nat := [0x00000000, 0x3e2e00d2, 0x3ea4d3c2, 0x3eeb3a9f, 0x3f15c01a, 0x3f335004, 0x3f4eaed0, 0x3f6829fb]
def tabX : List Nat := [0x3f800000, 0x3f8b95c2, 0x3f9837f0, 0x3fa5fed7, 0x3fb504f3, 0x3fc5672a, 0x3fd744fd, 0x3feac0c7]
def tabQ : List Nat := [0x3f715bef, 0x3f5a514a, 0x3f48d2ab, 0x3f3af4ba, 0x3f2aaaab, 0x3f1a5fb2, 0x3f0e00d5, 0x3f0432a5]
def coefB : List Nat := [0x3fb8aa3b, 0xbf38aa3b, 0x3ef6384f, 0xbeb8aa3b, 0x3e93bb63, 0xbe76384f, 0x3e530bb1, 0xbe38aa3b]
def c1 : Nat := 0x3f317218
def c2 : Nat := 0x3e75fdf0
def c3 : Nat := 0x3d635847
def c4 : Nat := 0x3c1d955c
def c5 : Nat := 0x3aaec423
def a3 : Nat := 0xbeaaaaab
def a5 : Nat := 0x3e088888
def a7 : Nat := 0xbd5d0dd0
def k1 : Nat := 0x3fb8aa3b
def k2 : Nat := 0x4038aa3b

/-- Split of a finite non-zero value of positive sign (R131): the encoding of m in [1, 2), and e. -/
def split32 (x : Nat) : Nat × Int :=
  match fp32.val x with
  | .fin _ m e =>
    let l := lead m
    (one32 + (m * 2 ^ (23 - l)) % 2 ^ 23, e + l)
  | _ => (one32, 0)

/-- Top3 and Top2 of the encoding of m (R131). -/
def top3 (m : Nat) : Nat := bits m 20 3
def top2 (m : Nat) : Nat := bits m 21 2

/-- A Newton step of RcpRef. -/
def rcpStep (m y : Nat) : Nat := fma32 y (fma32 (neg32 m) y one32) y

/-- RcpRef (R133), for a finite non-zero value. -/
def rcpRef (x : Nat) : Nat :=
  let sp := split32 x
  let y := rcpStep sp.1 (rcpStep sp.1 (rcpStep sp.1 (tabG.getD (top3 sp.1) 0)))
  scaleB (if fp32.sign x then neg32 y else y) (-sp.2)

/-- RcpRefExt: RcpRef extended to +infinity (R133). -/
def rcpRefExt (x : Nat) : Nat := if fp32.isInf x then 0 else rcpRef x

/-- A Newton step of RsqRef. -/
def rsqStep (m y : Nat) : Nat := fma32 (mul32 y half32) (fma32 (neg32 (mul32 m y)) y one32) y

/-- RsqRef (R133), for a finite positive value. -/
def rsqRef (x : Nat) : Nat :=
  let sp := split32 x
  let odd := sp.2 % 2 = 1
  let m := if odd then sp.1 + 2 ^ 23 else sp.1
  let e := if odd then sp.2 - 1 else sp.2
  let j := top2 sp.1 + (if odd then 4 else 0)
  scaleB (rsqStep m (rsqStep m (rsqStep m (tabQ.getD j 0)))) (-(e / 2))

/-- Fma(p, r, c) with an exact `r`. -/
def fmaAt (r : FVal) (p c : Nat) : Nat := fp32.round .rne false (((fp32.val p).mul r).add .rne (fp32.val c))

/-- Exp2Ref (R133), for a finite value or +infinity: `f` and `r` are exact, also where FP32 cannot hold them, for -1/16 < x < 0 (DESIGN CHOICE, log entry 87:
R131 has every step round). -/
def exp2Ref (x : Nat) : Nat :=
  match fp32.val x with
  | .fin s m e =>
    if s = false ∧ 0x43000000 ≤ x then fp32.inf
    else if s = true ∧ 0x43160000 < fp32.mag x then 0
    else
      let n : Int := roundToInt .rdn s m e
      let g : Int := if e ≤ 0 then e else 0
      let sm : Int := if s then -(m * 2 ^ (e - g).toNat : Nat) else (m * 2 ^ (e - g).toNat : Nat)
      let f : Nat := (sm - n * 2 ^ (-g).toNat).toNat
      let j := 8 * f / 2 ^ (-g).toNat
      let r : FVal := .fin false (8 * f - j * 2 ^ (-g).toNat) (g - 3)
      let p := [c4, c3, c2, c1, one32].foldl (fmaAt r) c5
      scaleB (mul32 (tabX.getD j 0) p) n
  | .inf false => fp32.inf
  | .inf true => 0
  | .nan => fp32.nan

/-- Log2Ref (R133), for a finite positive value. -/
def log2Ref (x : Nat) : Nat :=
  let sp := split32 x
  let j := top3 sp.1
  let z := fma32 sp.1 (tabG.getD j 0) mone32
  let q := [6, 5, 4, 3, 2, 1, 0].foldl (fun q i => fma32 q z (coefB.getD i 0)) (coefB.getD 7 0)
  add32 (add32 (fp32.round .rne false (FVal.ofInt sp.2)) (tabL.getD j 0)) (mul32 z q)

/-- The inputs of R133, sorted: NaN; infinities; finite with a sign; zeros with a sign. -/
def rcp32 (x : Nat) : Nat :=
  match fp32.val x with
  | .nan => fp32.nan
  | .inf s => fp32.enc s 0
  | .fin s m _ => if m = 0 then fp32.enc s fp32.inf else rcpRef x

def rsq32 (x : Nat) : Nat :=
  match fp32.val x with
  | .nan => fp32.nan
  | .inf s => if s then fp32.nan else 0
  | .fin s m _ => if m = 0 then fp32.enc s fp32.inf else if s then fp32.nan else rsqRef x

def exp232 (x : Nat) : Nat :=
  match fp32.val x with
  | .nan => fp32.nan
  | .inf s => if s then 0 else fp32.inf
  | .fin _ _ _ => exp2Ref x

def log232 (x : Nat) : Nat :=
  match fp32.val x with
  | .nan => fp32.nan
  | .inf s => if s then fp32.nan else fp32.inf
  | .fin s m _ => if m = 0 then fp32.enc true fp32.inf else if s then fp32.nan else log2Ref x

/-- SigRef (R133). -/
def sig32 (x : Nat) : Nat :=
  if fp32.isNaN x then fp32.nan else rcpRefExt (add32 one32 (exp2Ref (mul32 (neg32 x) k1)))

/-- TanhRef (R133). -/
def tanh32 (x : Nat) : Nat :=
  if fp32.isNaN x then fp32.nan
  else if fp32.mag x = 0 then x
  else
    let a := fp32.mag x
    if a < 0x3e000000 then
      let w := mul32 x x
      let p := fma32 w (fma32 w a7 a5) a3
      fma32 (mul32 x w) p x
    else
      let y := fma32 mtwo32 (rcpRefExt (add32 one32 (exp2Ref (mul32 a k2)))) one32
      if fp32.sign x then neg32 y else y

/-! ### Block formats (R119 to R123) -/

/-- A block: sidecar exponent, micro-exponents (bit p), sign and magnitude of each element. -/
structure BxBlock where
  e : Nat
  u : Nat
  els : List (Bool × Nat)
deriving DecidableEq, Repr

def bxK : BTy → Nat
  | .bx8 => 6
  | .bx4 => 2

def bxMax : BTy → Nat
  | .bx8 => 127
  | .bx4 => 7

/-- Bits of one element. -/
def bxW : BTy → Nat
  | .bx8 => 8
  | .bx4 => 4

/-- Floor(Log2) of a finite FP32 magnitude that is not zero. -/
def floorLog2 (mag : Nat) : Int :=
  match fp32.val mag with
  | .fin _ m e => e + lead m
  | _ => 0

/-- EncodeBlock (R122), on FP32 encodings. -/
def encodeBlock (t : BTy) (mode : RMode) (sat : Bool) (xs : List Nat) : BxBlock :=
  let x := xs.map (fp32.satIn sat)
  if x.any (fun v => fp32.inf ≤ fp32.mag v) then ⟨255, 0, x.map fun _ => (false, 0)⟩
  else
    let amax := x.foldl (fun a v => Nat.max a (fp32.mag v)) 0
    let e : Nat := if amax = 0 then 0 else (floorLog2 amax + 126).toNat
    let up := fun p =>
      let pm := Nat.max (fp32.mag (x.getD (2 * p) 0)) (fp32.mag (x.getD (2 * p + 1) 0))
      if pm ≠ 0 ∧ (e : Int) - 126 ≤ floorLog2 pm then 1 else 0
    let els := (List.range 16).map fun i =>
      let v := x.getD i 0
      match fp32.val v with
      | .fin s m ex => (s, Nat.min (roundUnit mode s m ex ((e : Int) - 127 + (up (i / 2) : Nat) - bxK t)) (bxMax t))
      | _ => (false, 0)
    ⟨e, (List.range 8).foldl (fun a p => a + up p * 2 ^ p) 0, els⟩

/-- The exact value of an element; NaN in a NaN block (R119, R121); an infinity for a magnitude of 2^128 or more (R123). -/
def BxBlock.val (t : BTy) (b : BxBlock) (i : Nat) : FVal :=
  if b.e = 255 then .nan
  else
    let el := b.els.getD i (false, 0)
    if b.e = 254 ∧ b.u.testBit (i / 2) ∧ 2 ^ bxK t ≤ el.2 then .inf el.1
    else .fin el.1 el.2 ((b.e : Int) - 127 + (bits b.u (i / 2) 1 : Nat) - bxK t)

/-- The plane bits of a block, element 0 lowest (R119). -/
def BxBlock.plane (t : BTy) (b : BxBlock) : Nat :=
  b.els.foldr (fun el acc => el.2 + (if el.1 then 2 ^ (bxW t - 1) else 0) + 2 ^ bxW t * acc) 0

/-- The sidecar of a block: E, then the u bits (R120). -/
def BxBlock.side (b : BxBlock) : Nat := b.e + 256 * b.u

/-- A block from its plane bits and its sidecar. -/
def BxBlock.ofBits (t : BTy) (plane side : Nat) : BxBlock :=
  ⟨side % 256, side / 256 % 256,
    (List.range 16).map fun i =>
      let el := bits plane (bxW t * i) (bxW t)
      (el.testBit (bxW t - 1), el % 2 ^ (bxW t - 1))⟩

/-! ### AF26 (R118) -/

/-- One addition into an AF26 accumulator: RNE to 17 fraction bits, small results flush to a signed zero. -/
def af26Add (acc : Nat) (v : FVal) : Nat :=
  match (af26.val acc).add .rne v with
  | .nan => af26.nan
  | .inf s => af26.enc s af26.inf
  | .fin s m e =>
    if m = 0 then 0
    else
      let q : Int := e + lead m - 17
      let w := roundUnit .rne s m e q
      let ex : Int := q + lead w
      if ex < -126 then af26.enc s 0
      else if 127 < ex then af26.enc s af26.inf
      else af26.enc s ((ex + 127).toNat * 2 ^ 17 + (if lead w = 18 then w / 2 else w) % 2 ^ 17)

/-- Promotion of an accumulator into an FP32 bank element (R118). -/
def promoteInto (bank acc : Nat) : Nat := fp32.round .rne false ((fp32.val bank).add .rne (af26.val acc))

end Sys2Proof.Machine
end

