-- ==== Sys2Proof/Machine/Thunk.lean ====
section
/-!
DEFINITION. Tile descriptors (17_tile R345 to R347), index maps and byte ranges (16_thunks R325, R328, R329), the thunk table, and what a
demand runs next (16 R330 to R333).
-/
namespace Sys2Proof.Machine

/-! ### Tile descriptors (17 R345, R346) -/

/-- A tile descriptor, its fields apart. `resv`: a reserved field that must be zero is not (the extents and the map kind are judged apart). -/
structure TD where
  base : Nat
  side : Nat
  e0 : Nat
  e1 : Nat
  e2 : Nat
  e3 : Nat
  s0 : Nat
  s1 : Nat
  s2 : Nat
  fmt : Nat
  kind : Nat
  org2 : Nat
  org3 : Nat
  resv : Bool
deriving DecidableEq, Repr

/-- The descriptor in 32 bytes (17 R345). -/
def TD.ofBits (d : BitVec 256) : TD :=
  let n := d.toNat
  let fmt := bits n 200 4
  let kind := bits n 204 2
  { base := bits n 0 32, side := bits n 32 32, e0 := bits n 64 16, e1 := bits n 80 16, e2 := bits n 96 16, e3 := bits n 112 16
    s0 := bits n 128 24, s1 := bits n 152 24, s2 := bits n 176 24, fmt := fmt, kind := kind, org2 := bits n 208 16
    org3 := bits n 224 16
    resv := bits n 206 2 ≠ 0 || bits n 240 16 ≠ 0 || (fmt ≠ 8 && fmt ≠ 9 && bits n 32 32 ≠ 0) || (kind ≠ 2 && bits n 208 32 ≠ 0) }

def TD.isBx (d : TD) : Bool := d.fmt == 8 || d.fmt == 9
def TD.bty (d : TD) : BTy := if d.fmt = 8 then .bx8 else .bx4

/-- Bytes of an element; BX formats count as 1 (17 R346). -/
def TD.esize (d : TD) : Nat := if d.fmt = 0 ∨ d.fmt = 3 then 4 else if d.fmt = 1 ∨ d.fmt = 2 ∨ d.fmt = 4 then 2 else 1

/-- c(i3) of 17 R346. -/
def TD.col (d : TD) (i3 : Nat) : Nat := if d.fmt = 9 then i3 / 2 else i3 * d.esize

/-- Byte offset of an element from BASE (17 R346). -/
def TD.off (d : TD) (i0 i1 i2 i3 : Nat) : Nat := 16 * (i0 * d.s0 + i1 * d.s1 + i2 * d.s2) + d.col i3

/-- Offset of a block's sidecar from SIDE, for a block whose first element lies at offset `o` (17 R346). -/
def TD.sideOff (d : TD) (o : Nat) : Nat := if d.fmt = 8 then o / 8 else o / 4

/-- Tiles of a destination: rows of tiles, columns of tiles, and their number (16 R325). -/
def TD.tileRows (d : TD) : Nat := (d.e2 + 15) / 16
def TD.tileCols (d : TD) : Nat := (d.e3 + 31) / 32
def TD.tiles (d : TD) : Nat := d.e0 * d.e1 * d.tileRows * d.tileCols

/-! ### Boxes, images, bytes -/

/-- A box of indices: lowest and highest in each dimension. -/
structure Box where
  l0 : Nat
  h0 : Nat
  l1 : Nat
  h1 : Nat
  l2 : Nat
  h2 : Nat
  l3 : Nat
  h3 : Nat
deriving DecidableEq, Repr

/-- All of a descriptor's elements. -/
def TD.full (d : TD) : Box := ⟨0, d.e0 - 1, 0, d.e1 - 1, 0, d.e2 - 1, 0, d.e3 - 1⟩

/-- The elements of output tile `t` (16 R325). -/
def TD.tileBox (d : TD) (t : Nat) : Box :=
  let c := t % d.tileCols
  let r := t / d.tileCols % d.tileRows
  let g := t / d.tileCols / d.tileRows
  ⟨g / d.e1, g / d.e1, g % d.e1, g % d.e1, 16 * r, Nat.min (16 * r + 15) (d.e2 - 1), 32 * c, Nat.min (32 * c + 31) (d.e3 - 1)⟩

/-- The image of an index under a descriptor's map (16 R328, 17 R433); dimensions 0 and 1 have origin 0. -/
def TD.imageIx (d : TD) (i0 i1 i2 i3 : Nat) : Nat × Nat × Nat × Nat :=
  let r := if d.kind = 1 then i3 else i2
  let c := if d.kind = 1 then i2 else i3
  (if d.s0 = 0 then 0 else i0, if d.s1 = 0 then 0 else i1, (if d.s2 = 0 then 0 else r) + (if d.kind = 2 then d.org2 else 0),
    c + (if d.kind = 2 then d.org3 else 0))

/-- The image of a box, clipped to the operand's extents; none where nothing is left (16 R328). -/
def TD.imageBox (d : TD) (b : Box) : Option Box :=
  let lo := d.imageIx b.l0 b.l1 b.l2 b.l3
  let hi := d.imageIx b.h0 b.h1 b.h2 b.h3
  if lo.1 < d.e0 ∧ lo.2.1 < d.e1 ∧ lo.2.2.1 < d.e2 ∧ lo.2.2.2 < d.e3 then
    some ⟨lo.1, Nat.min hi.1 (d.e0 - 1), lo.2.1, Nat.min hi.2.1 (d.e1 - 1), lo.2.2.1, Nat.min hi.2.2.1 (d.e2 - 1),
      lo.2.2.2, Nat.min hi.2.2.2 (d.e3 - 1)⟩
  else none

/-- What overlap tests compare (16 R329): 128-byte units of scratchpad addresses, a bank, or a result queue. -/
inductive Area where
  | mem (lo hi : Nat)
  | bank (b : Nat)
  | queue (q : Nat)
deriving DecidableEq, Repr

/-- Two areas share something; different spaces never match, because the space is part of the address. -/
def Area.meets : Area → Area → Bool
  | .mem a b, .mem c d => a ≤ d && c ≤ b
  | .bank a, .bank b => a == b
  | .queue a, .queue b => a == b
  | _, _ => false

def meetAny (x y : List Area) : Bool := x.any fun a => y.any fun b => a.meets b

/-- The area of `len` bytes from scratchpad address `a`. -/
def areaOf (a len : Nat) : Area := .mem (a / 128) ((a + len - 1) / 128)

/-- The bounding bytes of a box: first address and length (16 R329). -/
def TD.dataRange (d : TD) (b : Box) : Nat × Nat :=
  let lo := d.off b.l0 b.l1 b.l2 b.l3
  (d.base + lo, d.off b.h0 b.h1 b.h2 b.h3 + d.esize - lo)

/-- The bounding bytes of the sidecars of the blocks a box touches (16 R329, 17 R346). -/
def TD.sideRange (d : TD) (b : Box) : Nat × Nat :=
  let lo := d.sideOff (d.off b.l0 b.l1 b.l2 (b.l3 / 16 * 16))
  (d.side + lo, d.sideOff (d.off b.h0 b.h1 b.h2 (b.h3 / 16 * 16)) + 2 - lo)

/-- The bytes of a box (16 R329). -/
def TD.areas (d : TD) (b : Box) : List Area :=
  let r := d.dataRange b
  let s := d.sideRange b
  if d.isBx then [areaOf r.1 r.2, areaOf s.1 s.2] else [areaOf r.1 r.2]

/-! ### Nodes: destinations and sources -/

def opMMA : Nat := 1
def opMMAZ : Nat := 2
def opRMIN : Nat := 3
def opRMAX : Nat := 4
def opRSORT : Nat := 5
def opRTOPK : Nat := 6
def opWLOAD : Nat := 8
def opWSWAP : Nat := 9
def opTEPI : Nat := 0xc
def opTEW : Nat := 0xd
def opTDRAIN : Nat := 0xe

def Node.isMma (n : Node) : Bool := n.op.toNat == opMMA || n.op.toNat == opMMAZ
def Node.isRace (n : Node) : Bool := opRMIN ≤ n.op.toNat && n.op.toNat ≤ opRTOPK

/-- AUX holds slot bits [31:14] (17 R349): bit `i` of the slot is bit `i - 14` of AUX. -/
def Node.slotBits (n : Node) (lo len : Nat) : Nat := bits n.aux.toNat (lo - 14) len

/-- The streamed form (17 R351). -/
def Node.strm (n : Node) : Bool := n.isMma && n.slotBits 14 1 == 1

/-- A plane node (16 R330). -/
def Node.isPlane (n : Node) : Bool := n.op.toNat == opWLOAD || n.op.toNat == opWSWAP || n.strm

def Node.ddT (n : Node) : TD := TD.ofBits n.dd
def Node.daT (n : Node) : TD := TD.ofBits n.da
def Node.dbT (n : Node) : TD := TD.ofBits n.db

/-- All output tiles of a node. -/
def Node.all (n : Node) : BitVec 64 := BitVec.ofNat 64 (2 ^ n.nt - 1)

/-- The tiles of a set, in ascending order. -/
def tileList (t : BitVec 64) : List Nat := (List.range 64).filter fun i => t.getLsbD i

/-- The destination has scratchpad bytes. -/
def Node.scratchDst (n : Node) : Bool := n.isRace || n.op.toNat == opTEPI || n.op.toNat == opTEW

/-- What a node's destination covers over one tile (16 R325, R329). -/
def Node.destTile (n : Node) (t : Nat) : List Area :=
  if n.scratchDst then n.ddT.areas (n.ddT.tileBox t)
  else if n.isMma then [.bank n.acc]
  else if n.op.toNat = opTDRAIN then [.queue (n.slotBits 14 3)]
  else []

/-- What a node's destination covers over tiles. -/
def Node.dest (n : Node) (t : BitVec 64) : List Area := ((tileList t).map n.destTile).flatten

/-- The image of a box in an operand, as areas. -/
def TD.imageAreas (d : TD) (b : Box) : List Area := match d.imageBox b with | some x => d.areas x | none => []

/-- What a node reads to produce one tile (16 R328, R330): whole rows of K for MMA, every key of a row for a race. -/
def Node.srcTile (n : Node) (t : Nat) : List Area :=
  let a := n.daT
  let b := n.dbT
  if n.isMma then
    .bank n.acc :: a.imageAreas ⟨0, 0, 0, 0, 0, a.e2 - 1, 0, a.e3 - 1⟩
      ++ (if n.strm then b.imageAreas ⟨0, 0, 0, 0, 0, b.e2 - 1, 0, b.e3 - 1⟩ else [])
  else if n.isRace then
    let x := n.ddT.tileBox t
    a.imageAreas { x with l3 := 0, h3 := a.e3 - 1 }
  else if n.op.toNat = opWLOAD then b.areas b.full
  else if n.op.toNat = opTEPI then
    .bank n.acc :: (if n.slotBits 19 1 = 1 then b.imageAreas (n.ddT.tileBox t) else [])
  else if n.op.toNat = opTEW then
    a.imageAreas (n.ddT.tileBox t) ++ (if n.acc = 5 then [] else b.imageAreas (n.ddT.tileBox t))
  else if n.op.toNat = opTDRAIN then [.bank n.acc]
  else []

def Node.src (n : Node) (t : BitVec 64) : List Area := ((tileList t).map n.srcTile).flatten

/-- TilesOver: the output tiles whose bytes meet an area (16 R330). -/
def Node.tilesOver (n : Node) (s : List Area) : BitVec 64 :=
  (List.range n.nt).foldl (fun acc t => if meetAny (n.destTile t) s then acc ||| (1 <<< t) else acc) 0

/-! ### Goals -/

/-- The node with an append number. -/
def Ctx.node (c : Ctx) (seq : Nat) : Option Node := c.nodes.find? fun (n : Node) => n.seq == seq

/-- The goals not yet met: tiles that are not complete, or a complete node that has not retired (16 R330, R331). With `skip`, nodes with FAILED
are passed over (16 R339). -/
def Ctx.openGoals (c : Ctx) (skip : Bool) (gs : List Goal) : List Goal :=
  gs.filter fun (g : Goal) =>
    match c.node g.seq with
    | none => false
    | some n => !(skip && n.failed) && (g.tiles &&& ~~~ n.done != 0 || (g.tiles != 0 && n.done == n.all))

def Ctx.goalsBy (c : Ctx) (f : Node → BitVec 64) : List Goal := c.nodes.map fun (n : Node) => ⟨n.seq, f n⟩

/-- A read of areas: the nodes whose destination meets them (16 R333). -/
def Ctx.readGoals (c : Ctx) (a : List Area) : List Goal := c.goalsBy fun n => n.tilesOver a

/-- A write of areas: the nodes whose source meets them, over all tiles, or whose destination does (16 R333). -/
def Ctx.writeGoals (c : Ctx) (a : List Area) : List Goal :=
  c.goalsBy fun n => if meetAny (n.src (n.all &&& ~~~ n.done)) a then n.all else n.tilesOver a

/-- Nodes with a source or destination that meets areas, over all tiles (16 R333, landings). -/
def Ctx.touchGoals (c : Ctx) (a : List Area) : List Goal :=
  c.goalsBy fun n => if meetAny (n.src (n.all &&& ~~~ n.done)) a || (n.tilesOver a &&& ~~~ n.done) != 0 then n.all else 0

def Ctx.scratchGoals (c : Ctx) : List Goal := c.goalsBy fun n => if n.scratchDst then n.all else 0
def Ctx.allGoals (c : Ctx) : List Goal := c.goalsBy fun n => n.all
def Ctx.bankWriters (c : Ctx) (b : Nat) : List Goal := c.goalsBy fun n => if n.isMma && n.acc == b then n.all else 0
def Ctx.bankUsers (c : Ctx) (b : Nat) : List Goal := c.goalsBy fun n => if (n.src n.all).contains (.bank b) then n.all else 0
def Ctx.queueGoals (c : Ctx) (q : Nat) : List Goal :=
  c.goalsBy fun n => if n.op.toNat == opTDRAIN && n.slotBits 14 3 == q then n.all else 0

/-- The node bound to a producer. -/
def Ctx.nodeOf (c : Ctx) (kb : Nat × Nat) : Option Node :=
  c.nodes.find? fun (n : Node) => n.toks.kout.toNat == kb.1 && n.koutBind == kb.2

/-- The nodes that kin tokens are bound to, over all tiles (16 R331). -/
def Ctx.kinGoals (c : Ctx) (kins : List (Nat × Nat)) : List Goal :=
  kins.filterMap fun kb => (c.nodeOf kb).map fun n => ⟨n.seq, n.all⟩

/-- The implicit demands of a handler pass over failed nodes (16 R339). -/
def Ctx.skips (c : Ctx) : Bool := c.inHandler

/-- A demand reaches nodes: they are to run again (16 R330). -/
def Ctx.reach (c : Ctx) (via : List Nat) : Ctx :=
  { c with nodes := c.nodes.map fun (n : Node) => if via.contains n.seq then { n with failed := false } else n
           landAgain := c.landAgain.filter fun x => !via.contains x }

/-- A node runs for the slot's demand, or for the demand of a landing that names the first of `via`: an implicit one is counted with the first run (18 R368, IMPLD). -/
def Ctx.countRun (c : Ctx) (landing : Bool) (via : List Nat) : Ctx :=
  if landing then
    let asks := fun (l : Nat × List Nat) => via.head?.any fun x => l.2.contains x
    { c with impld := if c.landImpl.any asks then c.impld + 1 else c.impld, landImpl := dropFirst asks c.landImpl }
  else { c with impld := if c.goalImpl then c.impld + 1 else c.impld, goalImpl := false }

/-- What the slot's demand still waits for. -/
def Ctx.asked (c : Ctx) : List Goal := c.openGoals c.goalSkip c.goals

/-- A demand begins: its first run counts from this cycle, unless runs of an earlier one are still timed (17 R350). -/
def Ctx.begins (c : Ctx) (cycle : Nat) : Ctx :=
  if c.asked.isEmpty && (c.openGoals false c.landGoals).isEmpty then { c with workAt := Nat.max c.workAt cycle, raceAt := Nat.max c.raceAt cycle } else c

/-- A slot that first demands (16 R333): it goes on when nothing is left to demand. -/
def State.demanding (s : State) (k : Nat) (skip : Bool) (wait : Wait → State → SlotRes) (gs : List Goal) (f : SlotRes) : SlotRes :=
  let c := s.ctx k
  let open_ := c.openGoals skip gs
  if open_ = [] then f
  else wait .demand (s.putCtx k { c.begins (s.cyc k) with demandAt := s.cyc k, goals := open_, goalSkip := skip, goalHeld := false, goalImpl := true })

/-- An implicit demand that blocks the context. -/
def State.demandBlock (s : State) (k : Nat) (gs : List Goal) (f : SlotRes) : SlotRes :=
  s.demanding k (s.ctx k).skips .block gs f

/-- An implicit demand during which the context keeps the issue width. -/
def State.demandHold (s : State) (k : Nat) (gs : List Goal) (f : SlotRes) : SlotRes :=
  s.demanding k (s.ctx k).skips .stall gs f

/-- The demand of FORCE, TSTORE and an append to a full table: it is not counted as implicit and runs failed nodes (16 R339). -/
def State.demandForce (s : State) (k : Nat) (gs : List Goal) (f : SlotRes) : SlotRes :=
  let c := s.ctx k
  let open_ := c.openGoals false gs
  if open_ = [] then f
  else .block .demand (s.putCtx k { c.begins (s.cyc k) with demandAt := s.cyc k, goals := open_, goalSkip := false, goalHeld := false, goalImpl := false })

/-! ### What a demand runs next (16 R330) -/

/-- The next action of a demand; `via`: the nodes whose demands have reached it, the outermost first. -/
inductive Plan where
  | none
  | wait (via : List Nat)
  | fail (seq : Nat) (via : List Nat)
  | retire (seq : Nat)
  | run (seq : Nat) (tiles : BitVec 64) (via : List Nat)
deriving DecidableEq, Repr

/-- An action that the demand of node `seq` has reached. -/
def Plan.through (p : Plan) (seq : Nat) : Plan :=
  match p with
  | .wait v => .wait (seq :: v)
  | .fail x v => .fail x (seq :: v)
  | .run x t v => .run x t (seq :: v)
  | p => p

/-- The first action of a list of demands that is one. -/
def firstPlan (f : Nat → BitVec 64 → Plan) : List Goal → Plan
  | [] => .none
  | g :: r => match f g.seq g.tiles with | .none => firstPlan f r | p => p

/-- The first kin of node `seq` that is not produced without ERR, in order: its producer is demanded, waited for, or fails the node (16 R330 to R332). -/
def kinPlan (demand : Nat × Nat → Plan) (opn err : Nat × Nat → Bool) (seq : Nat) : List (Nat × Nat) → Plan
  | [] => .none
  | kb :: r =>
    match demand kb with
    | .none => if opn kb then .wait [seq] else if err kb then .fail seq [seq] else kinPlan demand opn err seq r
    | p => p

/-- The operation will produce token `kb.1` for the binding `kb.2`. -/
def EngOp.produces (o : EngOp) (kb : Nat × Nat) : Bool :=
  match o with
  | .copy m => m.kout == kb.1 && m.koutBind == kb.2
  | .tile _ _ _ _ b _ _ => b == kb.2 && kb.2 != 0
  | _ => false

/-- A command of binding `gen` that will produce a token is under way. -/
def State.producing (s : State) (k gen : Nat) (kb : Nat × Nat) : Bool :=
  s.cmds.any (fun (m : Cmd) => m.k == k && m.gen == gen && m.kout == kb.1 && m.koutBind == kb.2)
    || (s.ctx k).buf.any fun (b : BufOp) => b.op.produces kb

/-- The producer has not completed: its token waits for it, or, although its token has been rebound since, it is still under way or a pending node (16 R331). -/
def State.kinOpen (s : State) (k : Nat) (kb : Nat × Nat) : Bool :=
  let c := s.ctx k
  c.kinPending kb || (c.nodeOf kb).isSome || s.producing k c.gen kb || (c.held ++ c.heldBack).any fun (b : BufOp) => b.op.produces kb

/-- The demands that Demand of node `n` over `t` makes before it runs, beyond its kin tokens (16 R330). -/
def Ctx.predecessors (c : Ctx) (n : Node) (t : BitVec 64) : List Goal :=
  let earlier := c.nodes.filter fun (p : Node) => p.seq < n.seq
  let all := fun (sel : Node → Bool) => (earlier.filter sel).map fun (p : Node) => (⟨p.seq, p.all⟩ : Goal)
  let plane := if n.isPlane then all fun p => p.isMma || p.op.toNat == opWLOAD || p.op.toNat == opWSWAP
    else if n.isMma then all fun p => p.isPlane else []
  let drain := if n.op.toNat = opTDRAIN then all fun p => p.op.toNat == opTDRAIN && p.slotBits 14 3 == n.slotBits 14 3 else []
  let src := n.src t
  let dst := n.dest t
  plane ++ drain ++ (earlier.map fun (p : Node) =>
    [⟨p.seq, p.tilesOver src⟩, ⟨p.seq, p.tilesOver dst⟩,
      ⟨p.seq, if meetAny (p.src (p.all &&& ~~~ p.done)) dst then p.all else 0⟩]).flatten

/-- Demand (16 R330), one action at a time: the kins in order, then the predecessors, then the run. Predecessors have lower append numbers, so `fuel` bounds the
depth. -/
def State.plan (s : State) (k : Nat) (skip : Bool) : Nat → Nat → BitVec 64 → Plan
  | 0, _, _ => .wait []
  | fuel + 1, seq, tiles =>
    let c := s.ctx k
    match c.node seq with
    | none => .none
    | some n =>
      if skip && n.failed then .none
      else if n.done = n.all then (if tiles = 0 then .none else .retire seq)
      else
        let t := tiles &&& ~~~ n.done
        if t = 0 then .none
        else
          let kin := fun (kb : Nat × Nat) => firstPlan (s.plan k skip fuel) (c.kinGoals [kb])
          match kinPlan kin (s.kinOpen k) c.kinErr seq n.kinBind with
          | .none =>
            match firstPlan (s.plan k skip fuel) (c.predecessors n t) with
            | .none => .run seq t [seq]
            | p => p.through seq
          | p => p.through seq

/-- A landing passes over a node: it meets it as a failed one in a handler (R339), and not because of a landing's own demand (R340). -/
def Ctx.landSkips (c : Ctx) (n : Node) : Bool := c.inHandler && n.failed && !c.landAgain.contains n.seq

/-- The nodes that the demands of nodes reach, to a depth. -/
def Ctx.behind (c : Ctx) : Nat → List Nat → List Nat
  | 0, ids => ids
  | d + 1, ids =>
    let more := (c.nodes.filter fun (n : Node) => ids.contains n.seq).flatMap fun n =>
      (c.predecessors n n.all ++ c.kinGoals n.kinBind).filterMap fun g => if g.tiles = 0 ∨ ids.contains g.seq then none else some g.seq
    if more.isEmpty then ids else Ctx.behind c d (ids ++ more.eraseDups)

/-- What a landing's demand does next (16 R335). It runs a failed node neither again, once a landing has met its fault (R340), nor in a handler (R339): the landing
stays held, and others go on. -/
def State.landPlan (s : State) (k : Nat) : Plan :=
  let c := s.ctx k
  let one := fun (seq : Nat) (tiles : BitVec 64) =>
    match s.plan k c.inHandler (c.nodes.length + 1) seq tiles with
    | .run x t via => if (c.node x).any fun (n : Node) => n.failed && c.landAgain.contains x then .none else .run x t via
    | p => p
  match firstPlan one c.landGoals with
  | .none => if c.landGoals.isEmpty then .none else .wait []
  | p => p

/-- The node that the race row runs, or the one that the array or another unit runs. -/
def Core.laneJob (co : Core) (race : Bool) : Option Job := if race then co.race else co.job

/-- A run that has begun and that has no pass or row behind it yet. -/
def Ctx.beginning (c : Ctx) (race : Bool) : Option (Plan × Bool) :=
  match (if race then c.raceBegun else c.begun) with
  | some (seq, t, landing) => if (c.node seq).isSome then some (.run seq t [seq], landing) else none
  | none => none

/-- The run that is under way for context `k` in the race row, or in the array and the other units: it goes on first, for each serves its nodes one after the other
(07 R147). -/
def State.running (s : State) (k : Nat) (race : Bool) : Option (Plan × Bool) :=
  let c := s.ctx k
  match (s.core (coreOf k)).laneJob race with
  | some j => if j.k = k ∧ (c.node j.seq).isSome then some (.run j.seq j.tiles [j.seq], j.landing) else c.beginning race
  | none => c.beginning race

/-- A run for the slot's demand is under way. -/
def State.slotRuns (s : State) (k : Nat) : Bool := [false, true].any fun race => (s.running k race).any fun p => !p.2

/-- A demand as the race row sees it, or the array and the other units: what it runs elsewhere it waits for here. -/
def State.ofLane (s : State) (k : Nat) (race : Bool) (p : Plan) : Plan :=
  match p with
  | .run seq _ _ => if ((s.ctx k).node seq).any fun (n : Node) => n.isRace == race then p else .wait []
  | .retire _ => .wait []
  | .fail .. => .wait []
  | p => p

/-- What the slot's demand does next. -/
def State.slotPlan (s : State) (k : Nat) : Plan :=
  let c := s.ctx k
  firstPlan (s.plan k c.goalSkip (c.nodes.length + 1)) c.goals

/-- The next run of the demands of context `k`, of its slot or of landings (16 R333, R335), in the race row or in the array and the other units: the one under way, else of
two the one of the lower append number (07 R147). The flag says whether it is a landing's. -/
def State.nextRun (s : State) (k : Nat) (race : Bool) : Plan × Bool :=
  match s.running k race with
  | some p => p
  | none =>
    match s.ofLane k race (s.slotPlan k), s.ofLane k race (s.landPlan k) with
    | .none, q => (q, true)
    | .wait v, .none => (.wait v, false)
    | .wait v, .wait _ => (.wait v, false)
    | .wait _, q => (q, true)
    | .run x t v, .run y u w => if y < x then (.run y u w, true) else (.run x t v, false)
    | p, _ => (p, false)

/-- A node leaves the table. -/
def Plan.leaves : Plan → Bool
  | .retire _ => true
  | .fail .. => true
  | _ => false

/-- The next action of the demands of context `k`: a node that leaves the table, which takes no time, before any run. The flag says whether a landing demands it. -/
def State.nextAction (s : State) (k : Nat) : Plan × Bool :=
  let p := s.slotPlan k
  if p.leaves then (p, false) else
    let q := s.landPlan k
    if q.leaves || p == .none then (q, true) else (p, false)

/-! ### Append, retirement, removal (16 R324, R331, R332, R338) -/

/-- A node replaced. -/
def Ctx.setNode (c : Ctx) (n : Node) : Ctx := { c with nodes := c.nodes.map fun (m : Node) => if m.seq == n.seq then n else m }

def Ctx.dropNode (c : Ctx) (seq : Nat) : Ctx := { c with nodes := c.nodes.filter fun (m : Node) => m.seq != seq }

/-- A reservation of a result queue given back (14 R298). -/
def State.unreserve (s : State) (k : Nat) (n : Node) : State :=
  if n.op.toNat = opTDRAIN then
    s.modCore (coreOf k) fun co => { co with rqv := put co.rqv (n.slotBits 14 3) (lookD co.rqv (n.slotBits 14 3) 0 - (n.slotBits 24 4 + 1)) }
  else s

/-- A complete node leaves the table and its token is produced (16 R331). -/
def State.retire (s : State) (k : Nat) (n : Node) : State :=
  (s.modCtx k fun c => c.dropNode n.seq).produce k n.toks.kout.toNat n.koutBind false

/-- A bank as it was saved (R144). -/
def Core.restoreBank (co : Core) (bank : Nat) (save : Tab Vec) : Core :=
  { co with acc := [], rows := save.foldl (fun t r => put t (16 * bank + r.1) r.2) co.rows }

/-- What a run of a node that is half done has changed is undone: its bank, the planes of the streamed form, its accumulators (16 R327; 07 R144). -/
def Core.undo (co : Core) (n : Node) (j : Job) : Core :=
  let co1 := if n.isMma then co.restoreBank n.acc j.save else co
  { (if n.strm then { co1 with active := j.active, shadow := j.shadow } else co1) with job := none, passCal := none }

def State.undoRun (s : State) (k : Nat) (n : Node) : State :=
  let ours := fun (j : Job) => j.k = k ∧ j.seq = n.seq
  if n.isRace then s.modCore (coreOf k) fun co => { co with race := co.race.filter fun j => !decide (ours j) }
  else match (s.core (coreOf k)).job with
    | some j => if ours j then s.modCore (coreOf k) fun co => co.undo n j else s
    | none => if (s.ctx k).begun.any fun b => b.1 == n.seq then s.modCore (coreOf k) fun co => { co with passCal := none } else s

/-- A node removed unrun: its kout is produced with ERR, a TDRAIN gives up its reservation (16 R332, R338), and a run that has begun leaves nothing behind (R327). -/
def State.removeNode (s : State) (k : Nat) (n : Node) : State :=
  (((s.undoRun k n).unreserve k n).modCtx k fun c =>
    { c.dropNode n.seq with begun := c.begun.filter fun b => b.1 != n.seq, raceBegun := c.raceBegun.filter fun b => b.1 != n.seq }).produce k n.toks.kout.toNat n.koutBind true

/-- FailOnToken (16 R332): INERR is recorded. -/
def State.failOnToken (s : State) (k : Nat) (n : Node) : State :=
  (s.removeNode k n).attach k cINERR (atgtToken n.toks.kout.toNat)

end Sys2Proof.Machine
end

