-- ==== Sys2Proof/Machine/Kerf.lean ====
section
/-!
DEFINITION. How nodes run: operands and destinations of tile instructions (17_tile R346, R433; 16 R341), the Kerf's planes, passes, promotion and
drift check (07_kerf R134 to R144, R151; 17 R352 to R355), races (07 R145 to R147; 17 R356, R357), TEPI, TEW and TDRAIN (17 R358 to R360), and late
faults (16 R337 to R340).
-/
namespace Sys2Proof.Machine

/-! ### Elements of scratchpad tiles -/

/-- The floating format of a format code (17 R345). -/
def codeFmt (n : Nat) : Option Fmt :=
  match n with
  | 0 => some fp32
  | 1 => some bf16
  | 2 => some fp16
  | 6 => some e4m3
  | 7 => some e5m2
  | _ => none

/-- Bits of an integer format code. -/
def codeInt (n : Nat) : Nat := if n = 3 then 32 else if n = 4 then 16 else 8

/-- The exact value of an element that is not in a BX format. -/
def codeVal (fmt x : Nat) : FVal :=
  match codeFmt fmt with
  | some f => f.val x
  | none => FVal.ofInt (BitVec.ofNat (codeInt fmt) x).toInt

/-- Round into a format code that is not BX (06 R125). -/
def codeRound (fmt : Nat) (mode : RMode) (sat : Bool) (v : FVal) : Nat :=
  match codeFmt fmt with
  | some f => f.round mode sat v
  | none => roundInt (codeInt fmt) mode sat v

/-- A little-endian value at a scratchpad address of context `k`'s spaces 0x0, 0x1 and 0x3. -/
def State.padNat (s : State) (k a n : Nat) : Nat := s.mem.nat (scratchPhys false k a) n

/-- Bytes of the plane of one block. -/
def TD.blockBytes (d : TD) : Nat := if d.fmt = 8 then 16 else 8

/-- The block that holds element `i3` of a row (17 R346). -/
def State.padBlock (s : State) (k : Nat) (d : TD) (i0 i1 i2 i3 : Nat) : BxBlock :=
  let o := d.off i0 i1 i2 (i3 / 16 * 16)
  BxBlock.ofBits d.bty (s.padNat k (d.base + o) d.blockBytes) (s.padNat k (d.side + d.sideOff o) 2)

/-- The exact value of an element (17 R346). -/
def State.padElem (s : State) (k : Nat) (d : TD) (i0 i1 i2 i3 : Nat) : FVal :=
  if d.isBx then (s.padBlock k d i0 i1 i2 i3).val d.bty (i3 % 16)
  else codeVal d.fmt (s.padNat k (d.base + d.off i0 i1 i2 i3) d.esize)

/-- An index lies inside the extents. -/
def TD.inside (d : TD) (x : Nat × Nat × Nat × Nat) : Bool := x.1 < d.e0 && x.2.1 < d.e1 && x.2.2.1 < d.e2 && x.2.2.2 < d.e3

/-- An operand element at the image of an output index; outside its extents it reads as zero (17 R433, 16 R341). -/
def State.imageElem (s : State) (k : Nat) (d : TD) (i0 i1 i2 i3 : Nat) : FVal :=
  let x := d.imageIx i0 i1 i2 i3
  if d.inside x then s.padElem k d x.1 x.2.1 x.2.2.1 x.2.2.2 else .fin false 0 0

/-- The cells of elements `l3` to `h3` of one row, converted; blocks of 16 in the BX formats (17 R358, R359, R362). -/
def TD.rowCells (d : TD) (k : Nat) (mode : RMode) (sat : Bool) (i0 i1 i2 l3 h3 : Nat) (val : Nat → FVal) : List Host.Cell :=
  if d.isBx then
    ((List.range (h3 / 16 + 1 - l3 / 16)).map fun j =>
      let b := l3 / 16 + j
      let o := d.off i0 i1 i2 (16 * b)
      let blk := encodeBlock d.bty mode sat ((List.range 16).map fun i => fp32.round mode sat (val (16 * b + i)))
      cellsAt (scratchPhys false k (d.base + o)) (leBytes d.blockBytes (blk.plane d.bty))
        ++ cellsAt (scratchPhys false k (d.side + d.sideOff o)) (leBytes 2 blk.side)).flatten
  else
    ((List.range (h3 + 1 - l3)).map fun j =>
      cellsAt (scratchPhys false k (d.base + d.off i0 i1 i2 (l3 + j))) (leBytes d.esize (codeRound d.fmt mode sat (val (l3 + j))))).flatten

/-- The cells of one output tile (16 R341: only the elements inside the extents). -/
def TD.tileCells (d : TD) (k : Nat) (mode : RMode) (sat : Bool) (t : Nat) (val : Nat → Nat → Nat → Nat → FVal) : List Host.Cell :=
  let b := d.tileBox t
  ((List.range (b.h2 + 1 - b.l2)).map fun j => d.rowCells k mode sat b.l0 b.l1 (b.l2 + j) b.l3 b.h3 (val b.l0 b.l1 (b.l2 + j))).flatten

/-! ### When a node may run -/

/-- A store meets the bytes of some areas. -/
def StoreOp.meets (o : StoreOp) (as : List Area) : Bool := meetAny (o.span.map fun p => areaOf p.1 p.2) as

/-- The area of `len` bytes at a physical address of context `k`'s spaces 0x0, 0x1 and 0x3. -/
def areaAt (k a len : Nat) : Area :=
  areaOf ((if tagOf a = unitTag (coreOf k) then 0 else if tagOf a = clusterTag (clusterOf k) then 0x10000000 else 0x30000000) + offOf a) len

/-- A row of one of these banks is on its way (09 R195). -/
def Ctx.rowComing (c : Ctx) (bank : Nat → Bool) : Bool := c.flights.any fun (f : Flight) => match f.dest with | .row r => bank (r / 16) | _ => false

/-- An LDL of a bundle before `seq`, on these bytes, waits for its lock (13 R268). -/
def State.lockedLoad (s : State) (k seq : Nat) (as : List Area) : Bool :=
  s.lockReqs.any fun (l : LockReq) => l.k == k && l.ldl.any fun (x : LoadOp × Nat) => decide (x.2 < seq) && meetAny (x.1.span.map fun p => areaOf p.1 p.2) as

/-- What the context has stored on the bytes of some areas by bundles before `seq` has performed, its loads of them have read, and no row of their banks is on its way
(16 R326). -/
def State.drained (s : State) (k seq : Nat) (as : List Area) : Bool :=
  let c := s.ctx k
  !c.stq.any (fun (p : PendStore) => p.seq < seq && p.op.meets as)
    && !c.buf.any (fun (b : BufOp) => b.seq < seq && (match b.op with
      | .store o => o.kind != .none && o.meets as
      | .load o => o.kind != .none && meetAny (o.span.map fun p => areaOf p.1 p.2) as
      | .tdld _ a _ => meetAny [areaAt k a 32] as
      | _ => false))
    && !s.lockedLoad k seq as && !c.rowComing fun b => as.contains (.bank b)

/-- The same for every store of bundles before `seq`. -/
def State.drainedAll (s : State) (k seq : Nat) : Bool :=
  let c := s.ctx k
  !c.stq.any (fun (p : PendStore) => p.seq < seq)
    && !c.buf.any (fun (b : BufOp) => b.seq < seq && (match b.op with | .store o => o.kind != .none | _ => false))
    && !c.rowComing fun _ => true

/-- The append of a node waits in front of the T engine (17 R348; 03 R65). -/
def Ctx.unaccepted (c : Ctx) (seq : Nat) : Bool := c.buf.any fun (b : BufOp) => match b.op with | .append n _ => n == seq | _ => false

/-- The node that the demands of context `k` run next in the race row, or in the array and the other units, with its tiles and the nodes that lead to it, if it can run now:
a run that is under way goes on. -/
def State.runnable (s : State) (k : Nat) (race : Bool) : Option (Node × BitVec 64 × Bool × List Nat) :=
  match s.nextRun k race with
  | (.run seq t via, landing) =>
    match (s.ctx k).node seq with
    | some n =>
      if (s.running k race).isSome || (s.drained k n.appSeq (n.src t ++ n.dest t) && !(s.ctx k).unaccepted seq) then some (n, t, landing, via) else none
    | none => none
  | _ => none

/-! ### Completion and failure of a run (16 R330, R338, R340) -/

/-- A row of a bank. -/
def Core.row (co : Core) (bank r : Nat) : Vec := lookD co.rows (16 * bank + r) 0

/-- The run of a node is over: the race row, or the array, is free of it. -/
def Core.ended (co : Core) (k : Nat) (n : Node) : Core :=
  let others := fun (j : Job) => !(j.k == k && j.seq == n.seq)
  if n.isRace then { co with race := co.race.filter others } else { co with job := co.job.filter others, passCal := none }

/-- Tiles of a node are complete. -/
def State.ranTiles (s : State) (k : Nat) (n : Node) (t : BitVec 64) : State :=
  (s.modCtx k fun c => c.setNode { n with done := n.done ||| t, failed := false }).modCore (coreOf k) fun co => co.ended k n

/-- A node fails with a late code: it keeps its place, and the trap is taken at the demanding slot, or for a landing's demand at the
context's next slot (16 R338, R340). A demand that a held operation makes at its segment's commit traps with that operation's slot and resume point in FSTAT
and FADDR; the bundle about to issue is the one that ERET enters, and the operation is still held (log entry 12). -/
def State.nodeFails (s : State) (k : Nat) (n : Node) (code : BitVec 8) (landing : Bool) : State :=
  let co := fun (co : Core) => { co.ended k n with
    caldr := if code = cCALDRIFT then co.caldr + 1 else co.caldr
    trimf := if code = cTRIMRNG then co.trimf + 1 else co.trimf }
  let s1 := (s.modCtx k fun c => c.setNode { n with failed := true, fcode := code }).modCore (coreOf k) co
  let c := s1.ctx k
  let t := fun (rp : Word) => (⟨code, rp, n.appc, true⟩ : Trap)
  if landing then s1.putCtx k { c with landGoals := [], landAgain := n.seq :: c.landAgain, landFault := some (c.landFault.getD (t c.resumePoint)) }
  else if c.committing && c.goalHeld then
    let rp := match c.held with | b :: _ => b.rp | [] => c.resumePoint
    s1.commitFault k (t rp) rp
  else (s1.putCtx k { c with goals := [] }).raise k (t c.resumePoint) c.slotNow

/-! ### Planes (07 R134, R135; 17 R353 to R355) -/

/-- Columns of B from element `k0` on, `kplane` deep, as a plane; everything else is zero (17 R354). -/
def State.loadPlane (s : State) (k : Nat) (b : TD) (k0 kplane : Nat) : Plane :=
  let n := Nat.min kplane (b.e3 - k0)
  let cols := (List.range b.e2).filterMap fun c =>
    let x := b.imageIx 0 0 c 0
    if b.inside x then some (c, b.off 0 0 x.2.2.1 k0) else none
  { elems := cols.map fun c => (c.1, BitVec.ofNat 4096 (s.padNat k (b.base + c.2) (if b.fmt = 8 then n else n / 2)))
    sides := cols.map fun c => (c.1, BitVec.ofNat 1024 (s.padNat k (b.side + b.sideOff c.2) (n / 16 * 2))) }

/-- A block of a column of a plane, read in a format (17 R351). -/
def Plane.block (p : Plane) (t : BTy) (col b : Nat) : BxBlock :=
  let w := 16 * bxW t
  BxBlock.ofBits t (bits (lookD p.elems col 0).toNat (w * b) w) (bits (lookD p.sides col 0).toNat (16 * b) 16)

/-- A plane whose contents the spec leaves undefined (17 R353). -/
def State.freePlane (s : State) (j : Nat) : Plane :=
  let f := fun (i : Nat) => Config.free ((s.freeIx * 4096 + j) * 256 + i)
  { elems := (List.range 32).map fun c => (c, f (5 * c) ++ f (5 * c + 1) ++ f (5 * c + 2) ++ f (5 * c + 3))
    sides := (List.range 32).map fun c => (c, f (5 * c + 4)) }

/-! ### Passes (07 R136 to R144; 17 R351, R352) -/

/-- K elements of one pass (R351). -/
def kPass (a b : TD) : Nat := if a.fmt = 9 ∧ b.fmt = 9 then 1024 else 512

/-- K elements that one plane holds (R351). -/
def kPlane (b : TD) : Nat := if b.fmt = 9 then 1024 else 512

/-- Passes of a node. -/
def Node.passCount (n : Node) : Nat := (n.daT.e3 + kPass n.daT n.dbT - 1) / kPass n.daT n.dbT

/-- BlockInteger (R137). -/
def blockInteger (a b : BxBlock) : Int :=
  (List.range 16).foldl (fun i j =>
    let x := a.els.getD j (false, 0)
    let y := b.els.getD j (false, 0)
    let m : Int := (x.2 * y.2 * 2 ^ (bits a.u (j / 2) 1 + bits b.u (j / 2) 1) : Nat)
    if x.1 != y.1 then i - m else i + m) 0

/-- The contribution of a block (R137, R139): exact, also of elements of magnitude 2^128 or more, which R123 decodes to infinities: the model takes KerfPass (DESIGN
CHOICE, log entry 88). -/
def contribution (ta tb : BTy) (a b : BxBlock) : FVal :=
  if a.e = 255 ∨ b.e = 255 then .nan
  else
    let i := blockInteger a b
    .fin (i < 0) i.natAbs ((a.e : Int) + b.e - 254 - bxK ta - bxK tb)

/-- Block `b` of row `r` of A in pass `p`; beyond K or outside the extents it is zero (R341, R352). -/
def State.aBlock (s : State) (k : Nat) (n : Node) (p r b : Nat) : BxBlock :=
  let a := n.daT
  let e := kPass a n.dbT * p + 16 * b
  let x := a.imageIx 0 0 r e
  if e < a.e3 ∧ a.inside x then s.padBlock k a x.1 x.2.1 x.2.2.1 x.2.2.2 else ⟨0, 0, []⟩

/-- Block `b` of column `c` of the active plane in pass `p` (R136, R352). -/
def Core.bBlock (co : Core) (n : Node) (p c b : Nat) : BxBlock :=
  let kp := kPass n.daT n.dbT
  if kp * p + 16 * b < n.dbT.e3 then
    let h := if n.dbT.fmt = 9 ∧ n.daT.fmt = 8 then kp * p / 512 % 2 else 0
    co.active.block n.dbT.bty c (32 * h + b)
  else ⟨0, 0, []⟩

/-- KerfPass: the accumulators after a pass (R137). -/
def State.passAcc (s : State) (k : Nat) (n : Node) (p : Nat) (co : Core) : Tab (BitVec 26) :=
  let a := n.daT
  let nb := kPass a n.dbT / 16
  (List.range a.e2).foldl (fun acc r =>
    let ra := (List.range nb).map fun b => s.aBlock k n p r b
    (List.range n.dbT.e2).foldl (fun acc c =>
      let i := 32 * r + c
      let v := ((List.range nb).zip ra).foldl (fun v x => af26Add v (contribution a.bty n.dbT.bty x.2 (co.bBlock n p c x.1)))
        (lookD acc i 0).toNat
      put acc i (BitVec.ofNat 26 v)) acc) co.acc

/-- Elements (r, c) with r < m and c < n of a bank replaced (R137, R352). -/
def Core.mapBank (co : Core) (bank m n : Nat) (f : Nat → Nat → BitVec 32 → BitVec 32) : Core :=
  (List.range m).foldl (fun (co : Core) r =>
    let v := co.row bank r
    { co with rows := put co.rows (16 * bank + r) (ofLanes fun c => if c < n then f r c (lane v c) else lane v c) }) co

/-- Promotion (R141, 06 R118). -/
def Core.promoteAll (co : Core) (n : Node) : Core :=
  let co1 := co.mapBank n.acc n.daT.e2 n.dbT.e2 fun r c x => BitVec.ofNat 32 (promoteInto x.toNat (lookD co.acc (32 * r + c) 0).toNat)
  { co1 with acc := [] }

/-- The Kerf is calibrated: KCAL.STATE is 01 (07 R151). -/
def Core.calibrated (co : Core) : Bool := bits co.kcal.toNat 0 2 == 1

/-- It was when the pass under way began, or is now (07 R153). -/
def Core.passable (co : Core) : Bool := co.passCal.getD co.calibrated

/-- The rows of a bank. -/
def Core.saveBank (co : Core) (bank : Nat) : Tab Vec := (List.range 16).map fun r => (r, co.row bank r)

/-- One pass of an MMA or MMAZ node, with the loads and swaps of the streamed form, the check of KCAL.STATE, promotion and the drift check
(17 R352). `good`: its reference chains pass. -/
def State.passStep (s : State) (k : Nat) (n : Node) (t : BitVec 64) (landing good : Bool) : State :=
  let co0 := s.core (coreOf k)
  let job := match co0.job with
    | some j => if j.k = k ∧ j.seq = n.seq then j else ⟨k, n.seq, t, landing, 0, co0.saveBank n.acc, co0.active, co0.shadow, [], false⟩
    | none => ⟨k, n.seq, t, landing, 0, co0.saveBank n.acc, co0.active, co0.shadow, [], false⟩
  let p := job.pass
  let co1 := if p = 0 ∧ n.op.toNat = opMMAZ then co0.mapBank n.acc n.daT.e2 n.dbT.e2 fun _ _ _ => 0 else co0
  let k0 := p * kPass n.daT n.dbT
  let co2 := if n.strm ∧ k0 % kPlane n.dbT = 0 then { co1 with active := s.loadPlane k n.dbT k0 (kPlane n.dbT), shadow := co1.active } else co1
  let fails := fun (code : BitVec 8) =>
    let co3 := co2.restoreBank n.acc job.save
    let co4 := if n.strm then { co3 with active := s.freePlane 0, shadow := s.freePlane 1 } else co3
    (s.bumpFree.putCore (coreOf k) co4).nodeFails k n code landing
  if !co2.passable then fails cTRIMRNG
  else if !good then fails cCALDRIFT
  else
    let co3 := { co2 with acc := s.passAcc k n p co2 }
    let last := p + 1 = n.passCount
    let co4 := if last ∨ (p + 1) % n.passes = 0 then co3.promoteAll n else co3
    let s1 := s.putCore (coreOf k) { co4 with job := some { job with pass := p + 1 }, passCal := none }
    if last then s1.ranTiles k n t else s1

/-! ### Races (07 R145 to R147; 17 R356, R357) -/

/-- The race code of a BF16 key (R145). -/
def raceCode (x : Nat) : Nat := if bf16.isNaN x then 0xffff else if x.testBit 15 then 0xffff - x else x + 0x8000

/-- A lane placed by its resolved code, behind the lower lanes that tie with it (R146). -/
def insertLane (x : Nat × Nat) : List (Nat × Nat) → List (Nat × Nat)
  | [] => [x]
  | y :: r => if x.1 < y.1 then x :: y :: r else y :: insertLane x r

/-- The arrival order of keys: lanes, first to arrive first (R146, R147). -/
def arrivals (keys : List Nat) (inverted fast : Bool) : List Nat :=
  let code := fun (x : Nat) =>
    let c := if inverted then 0xffff - raceCode x else raceCode x
    if fast then c / 64 else c
  (((List.range keys.length).zip keys).foldl (fun l p => insertLane (code p.2, p.1) l) []).map fun x => x.2

/-- The results of one row: `n` positions (R356). -/
def raceRow (keys : List Nat) (inverted fast : Bool) (n : Nat) : List Nat :=
  let ls := arrivals keys inverted fast
  (List.range n).map fun i => match ls[i]? with | some l => keys.getD l 0 + l * 65536 | none => 0xffffffff

/-- The rows of a node's tiles, ascending (R357). -/
def Node.raceRows (n : Node) (t : BitVec 64) : List (Nat × Nat × Nat) :=
  ((tileList t).map fun i =>
    let b := n.ddT.tileBox i
    (List.range (b.h2 + 1 - b.l2)).map fun j => (b.l0, b.l1, b.l2 + j)).flatten

/-- The key of a lane of an operand row. -/
def State.raceKey (s : State) (k : Nat) (a : TD) (row : Nat × Nat × Nat) (i : Nat) : Nat :=
  let x := a.imageIx row.1 row.2.1 row.2.2 i
  if a.inside x then s.padNat k (a.base + a.off x.1 x.2.1 x.2.2.1 x.2.2.2) 2 else 0

/-- Race passes of a row (07 R147). -/
def Node.racePasses (n : Node) : Nat := if n.rfast then 1 else 2

/-- What the race row has of a node: its run, or a new one. -/
def Core.raceJob (co : Core) (k : Nat) (n : Node) (t : BitVec 64) (landing : Bool) : Job :=
  let fresh : Job := ⟨k, n.seq, t, landing, 0, [], co.active, co.shadow, [], false⟩
  match co.race with
  | some j => if j.k = k ∧ j.seq = n.seq ∧ j.tiles = t then j else fresh
  | none => fresh

/-- One race pass of a race node. Each checks KCAL.STATE before it begins (07 R151) and has its reference chain (07 R142); a row's result and drift decision come with its
last (07 R147), and the results of all rows are written together (R357). `good`: the reference chain passes. -/
def State.raceStep (s : State) (k : Nat) (n : Node) (t : BitVec 64) (landing good : Bool) : State :=
  let co0 := s.core (coreOf k)
  let job := co0.raceJob k n t landing
  let rows := n.raceRows t
  if !co0.calibrated then s.nodeFails k n cTRIMRNG landing
  else if job.pass % n.racePasses + 1 < n.racePasses then s.putCore (coreOf k) { co0 with race := some { job with pass := job.pass + 1, bad := !good } }
  else if !good || job.bad then s.nodeFails k n cCALDRIFT landing
  else
    match rows[job.pass / n.racePasses]? with
    | none => s.ranTiles k n t
    | some row =>
      let op := n.op.toNat
      let keys := (List.range n.daT.e3).map fun i => s.raceKey k n.daT row i
      let res := raceRow keys (op = opRMAX || op = opRTOPK) n.rfast n.ddT.e3
      let cells := ((List.range n.ddT.e3).map fun i =>
        cellsAt (scratchPhys false k (n.ddT.base + n.ddT.off row.1 row.2.1 row.2.2 i)) (leBytes 4 (res.getD i 0))).flatten
      let job1 := { job with pass := job.pass + 1, results := job.results ++ cells }
      if job1.pass = n.racePasses * rows.length then { s with mem := s.mem.writes job1.results }.ranTiles k n t
      else s.putCore (coreOf k) { co0 with race := some job1 }

/-! ### The other nodes -/

/-- Magnitudes compared. -/
def magLt (m : Nat) (e : Int) (n : Nat) (f : Int) : Bool :=
  let g := if e ≤ f then e else f
  m * 2 ^ (e - g).toNat < n * 2 ^ (f - g).toNat

/-- The order of R129 on exact values: -0 below +0. -/
def FVal.below : FVal → FVal → Bool
  | .nan, _ => false
  | _, .nan => false
  | .inf s, .inf t => s && !t
  | .inf s, .fin _ _ _ => s
  | .fin _ _ _, .inf t => !t
  | .fin s m e, .fin t n f => if s && !t then true else if !s && t then false else if s then magLt n f m e else magLt m e n f

/-- The result of TEW (17 R359). -/
def tewVal (op : Nat) (a b : FVal) : FVal :=
  let nan := a == .nan || b == .nan
  if op = 0 then a.add .rne b
  else if op = 1 then a.add .rne b.neg
  else if op = 2 then a.mul b
  else if op = 3 then (if nan then .nan else if b.below a then b else a)
  else if op = 4 then (if nan then .nan else if a.below b then b else a)
  else a

/-- TepiElement, as FP32 bits (17 R358). -/
def tepiVal (fn : Nat) (bias : Option FVal) (x0 : Nat) : Nat :=
  let x := match bias with | some b => fp32.round .rne false ((fp32.val x0).add .rne b) | none => x0
  if fn = 1 then (if fp32.isNaN x then fp32.nan else if fp32.sign x || fp32.mag x == 0 then 0 else x)
  else if fn = 2 then sig32 x
  else if fn = 3 then tanh32 x
  else x

/-- A WLOAD, WSWAP, TEPI, TEW or TDRAIN node runs over tiles (17 R354, R355, R358 to R360). -/
def State.runOther (s : State) (k : Nat) (n : Node) (t : BitVec 64) : State :=
  let op := n.op.toNat
  let co := s.core (coreOf k)
  let done := fun (s : State) => s.ranTiles k n t
  if op = opWLOAD then done (s.putCore (coreOf k) { co with shadow := s.loadPlane k n.dbT 0 (kPlane n.dbT) })
  else if op = opWSWAP then done (s.putCore (coreOf k) { co with active := co.shadow, shadow := co.active })
  else if op = opTEPI then
    let d := n.ddT
    let val := fun i0 i1 r c =>
      let bias := if n.slotBits 19 1 = 1 then some (s.imageElem k n.dbT i0 i1 r c) else none
      fp32.val (tepiVal (n.slotBits 20 2) bias (lane (co.row n.acc r) c).toNat)
    done { s with mem := s.mem.writes (d.tileCells k .rne (n.slotBits 22 1 = 1) 0 val) }
  else if op = opTEW then
    let d := n.ddT
    let val := fun i0 i1 i2 i3 =>
      tewVal n.acc (s.imageElem k n.daT i0 i1 i2 i3) (if n.acc = 5 then .fin false 0 0 else s.imageElem k n.dbT i0 i1 i2 i3)
    done { s with mem := s.mem.writes ((tileList t).map fun i => d.tileCells k .rne false i val).flatten }
  else if op = opTDRAIN then
    let q := n.slotBits 14 3
    let rows := (List.range (n.slotBits 24 4 + 1)).map fun i => co.row n.acc (n.slotBits 19 4 + i)
    let s1 := s.putCore (coreOf k) { co with
      rq := put co.rq q (lookD co.rq q [] ++ rows), rqv := put co.rqv q (lookD co.rqv q 0 - rows.length) }
    done s1
  else s

/-! ### The time of a run (17 R350; 07 R136, R140, R147) -/

/-- Sub-passes of a pass (07 R136). -/
def Node.subPasses (n : Node) : Nat := if n.daT.fmt = 9 ∧ n.dbT.fmt = 9 then 1 else if n.daT.fmt = 9 ∨ n.dbT.fmt = 9 then 2 else 4

/-- The passes or race passes of a node that have run. -/
def State.jobPass (s : State) (k : Nat) (n : Node) (t : BitVec 64) : Nat :=
  match (s.core (coreOf k)).laneJob n.isRace with
  | some j => if j.k = k ∧ j.seq = n.seq ∧ (n.isMma ∨ j.tiles = t) then j.pass else 0
  | none => 0

/-- The row that runs next is the last of its tile. -/
def Node.lastOfTile (n : Node) (t : BitVec 64) (row : Nat) : Bool :=
  ((tileList t).foldl (fun (a : Nat × Bool) i =>
    let b := n.ddT.tileBox i
    let e := a.1 + (b.h2 + 1 - b.l2)
    (e, a.2 || e == row + 1)) (0, false)).2

/-- Elements of a box. -/
def Box.size (b : Box) : Nat := (b.h0 + 1 - b.l0) * (b.h1 + 1 - b.l1) * (b.h2 + 1 - b.l2) * (b.h3 + 1 - b.l3)

/-- Cycles of a race pass: the second of a row in exact mode ends at the drift decision in cycle 26 (07 R147). -/
def Node.raceCycles (n : Node) (p : Nat) : Nat := if n.rfast || p % 2 == 0 then 14 else 12

/-- The race pass ends the last row of a tile, whose rows are then written (17 R350). -/
def Node.writesTile (n : Node) (t : BitVec 64) (p : Nat) : Bool := (p + 1) % n.racePasses == 0 && n.lastOfTile t (p / n.racePasses)

/-- KCAL.STATE was 01 as the pass of a node began, or would be now (07 R151, R153). -/
def State.mayPass (s : State) (k : Nat) (n : Node) : Bool := let co := s.core (coreOf k); if n.isRace then co.calibrated else co.passable

/-- Cycles of the next run of a node: one pass, one race pass, or the whole of another node. One that the check of KCAL.STATE fails ends at once. -/
def State.runCycles (s : State) (k : Nat) (n : Node) (t : BitVec 64) : Nat :=
  let op := n.op.toNat
  let p := s.jobPass k n t
  if (n.isMma || n.isRace) && !s.mayPass k n then 1
  else if n.isMma then (if p = 0 then 16 * n.subPasses + 3 + (if n.strm then 16 else 0) else 16 * n.subPasses)
  else if n.isRace then n.raceCycles p + (if n.writesTile t p then 2 else 0)
  else if op = opWLOAD then 16
  else if op = opTEPI then (if n.slotBits 20 2 < 2 then 20 else 44)
  else if op = opTEW then (((tileList t).map fun i => (n.ddT.tileBox i).size).sum + 63) / 64 + 6
  else if op = opTDRAIN then n.slotBits 24 4 + 1 + 2
  else 1

/-- The cycle from which the next run in the race row, or in the array and the other units, counts. -/
def Ctx.laneAt (c : Ctx) (race : Bool) : Nat := if race then c.raceAt else c.workAt

/-- It counts from `cycle` at the earliest. -/
def Ctx.laneFrom (c : Ctx) (race : Bool) (cycle : Nat) : Ctx :=
  if race then { c with raceAt := Nat.max c.raceAt cycle } else { c with workAt := Nat.max c.workAt cycle }

/-- A run is under way, or none has begun. -/
def Ctx.laneBegun (c : Ctx) (race : Bool) (b : Option (Nat × BitVec 64 × Bool)) : Ctx := if race then { c with raceBegun := b } else { c with begun := b }

/-- The next run of a demand has taken its time. -/
def State.runDue (s : State) (k : Nat) (n : Node) (t : BitVec 64) : Bool := (s.ctx k).laneAt n.isRace + s.runCycles k n t ≤ s.cyc k + 1

/-- The race row, or the array and the other units, as a cycle begins: a demand that can run nothing there yet counts from the cycle in which it can, and the nodes it waits
at are to run again; a run that can go on is under way from the cycle it counts from (16 R330). -/
def State.holdLane (k cycle : Nat) (s : State) (race : Bool) : State :=
  match (s.nextRun k race).1, s.runnable k race with
  | .wait via, _ => s.modCtx k fun c => (c.reach via).laneFrom race cycle
  | .run .., none => s.modCtx k fun c => c.laneFrom race cycle
  | .run .., some (n, t, landing, via) =>
    if (s.running k race).isNone && (s.ctx k).laneAt race ≤ cycle then s.modCtx k fun c => (c.reach via).laneBegun race (some (n.seq, t, landing)) else s
  | _, _ => s

/-- The demands of context `k` as a cycle begins. -/
def State.holdWork (s : State) (k cycle : Nat) : State :=
  let c := s.ctx k
  if c.goals.isEmpty && c.landGoals.isEmpty && (s.running k false).isNone && (s.running k true).isNone then s
  else [false, true].foldl (State.holdLane k cycle) (if c.asked.isEmpty then s else s.modCtx k fun c => { c with demandAt := Nat.max c.demandAt cycle })

/-! ### Firmware's writes to the calibration registers (07 R153) -/

/-- A firmware write to a calibration register (R153, 05 R108): 0 to 63 KTRIM, 64 KGAIN, 65 KCAL. -/
def Core.firmwareWrite (co : Core) (reg : Nat) (v : Word) : Core :=
  if reg < 64 then { co with ktrim := put co.ktrim reg (v.setWidth 7) }
  else if reg = 64 then { co with kgain := v.setWidth 16 }
  else { co with kcal := v &&& 0x0000ffffffffff03 }

/-- The pass or race pass of the core's tile that runs or comes next: its first cycle, the one of its drift decision, and whether another pass of its node follows
before that (07 R140, R147). -/
def State.passSpan (s : State) (core : Nat) (race : Bool) : Option (Nat × Nat × Bool) :=
  (s.core core).owner.bind fun k =>
    match s.runnable k race with
    | some (n, t, _) =>
      let p := s.jobPass k n t
      if !(n.isMma || n.isRace) || !s.mayPass k n then none
      else if n.isRace then some ((s.ctx k).raceAt, (s.ctx k).raceAt + n.raceCycles p - 1, false)
      else
        let d := (s.ctx k).workAt + s.runCycles k n t - 1
        some (d - (16 * n.subPasses + 2), d, decide (p + 1 < n.passCount))
    | none => none

/-- A pass of the core's array, or a race pass, is under way. -/
def State.laneInPass (s : State) (core : Nat) (race : Bool) : Bool :=
  (s.passSpan core race).any fun p => decide (p.1 ≤ s.cyc (4 * core) ∧ s.cyc (4 * core) ≤ p.2.1)

/-- A pass or a race pass of the core's tile is under way. -/
def State.inPass (s : State) (core : Nat) : Bool := s.laneInPass core false || s.laneInPass core true

/-- The next pass of the node begins in the next cycle, two cycles before the drift decision of the one before it (07 R140), and no race pass is under way: a boundary of
the tile. -/
def State.passFollows (s : State) (core : Nat) : Bool :=
  !s.laneInPass core true && (s.passSpan core false).any fun p => p.2.2 && s.cyc (4 * core) + 3 == p.2.1

/-- The writes that waited for SCRIBE or for a pass boundary take effect. -/
def Core.settleWrites (co : Core) : Core :=
  if co.scribe.isSome then co else { co.fwPend.foldl (fun (c : Core) w => c.firmwareWrite w.1 w.2) co with fwPend := [] }

/-- The writes that waited for a pass boundary take effect there, while the pass before it goes on with the calibration it began with (07 R153). -/
def Core.atBoundary (co : Core) : Core := if co.fwPend.isEmpty then co else { co.settleWrites with passCal := some co.passable }

/-- KERF_FIRMWARE_WRITE (R153): at once, unless SCRIBE or a pass runs. An image that was rejected writes nothing (20 R419). -/
def State.kerfFirmwareWrite (s : State) (core reg : Nat) (v : Word) : State :=
  let co := s.core core
  if !s.fwRuns then s
  else if co.scribe.isSome || s.inPass core then s.putCore core { co with fwPend := co.fwPend ++ [(reg, v)] } else s.putCore core (co.settleWrites.firmwareWrite reg v)

/-! ### The events -/

/-- A demand's run in the race row, or in the array and the other units: the nodes that its demand has reached are to run again (16 R330), it is counted, and it ends with
this cycle, from which what follows counts. -/
def State.worked (s : State) (k : Nat) (race landing : Bool) (via : List Nat) : State :=
  let next := s.cyc k + 1
  let idle := (s.running k (!race)).isNone
  s.modCtx k fun c =>
    let c1 := (((c.reach via).countRun landing via).laneBegun race none).laneFrom race next
    let c2 := if idle then c1.laneFrom (!race) next else c1
    if c.asked.isEmpty then c2 else { c2 with demandAt := next }

/-- KERF_PASS: the next pass that context `k`'s demands reach (07 R137, R144). -/
def State.kerfPass (s : State) (k : Nat) (good : Bool) : State :=
  match s.runnable k false with
  | some (n, t, landing, via) =>
    if n.isMma then (s.worked k false landing via).passStep k { n with failed := false } t landing good else s
  | none => s

/-- RACE_PASS: the next race pass that context `k`'s demands reach (07 R147, R144). -/
def State.racePass (s : State) (k : Nat) (good : Bool) : State :=
  match s.runnable k true with
  | some (n, t, landing, via) => (s.worked k true landing via).raceStep k { n with failed := false } t landing good
  | none => s

/-- NODE_RUN: the next demanded node of another kind (17 R350). -/
def State.nodeRun (s : State) (k : Nat) : State :=
  match s.runnable k false with
  | some (n, t, landing, via) => if n.isMma then s else (s.worked k false landing via).runOther k { n with failed := false } t
  | none => s

/-- NODE_RETIRE: the complete node, or the node that a kin's ERR fails, that comes next leaves the table (16 R331, R332). -/
def State.nodeRetire (s : State) (k : Nat) : State :=
  match s.nextAction k with
  | (.retire seq, _) => match (s.ctx k).node seq with | some n => s.retire k n | none => s
  | (.fail seq via, _) => match (s.ctx k).node seq with | some n => (s.modCtx k fun c => c.reach via).failOnToken k n | none => s
  | _ => s

end Sys2Proof.Machine
end

