-- ==== Sys2Proof/WellFormed.lean ====
section
/-!
DEFINITION. Which terms of `Instr` stand for something: the slot encodings that 03_bundles R52 to R61 and the entries accept,
and the events whose operands name parts that exist (01 R12, R13).
-/
namespace Sys2Proof

/-- A guard names predicate 0 to 47 (R52, R54). -/
def Guard.ok (g : Guard) : Bool := (g.setWidth 6).toNat < 48

/-- A predicate field is 0 to 47 (R54). -/
def predOk (p : BitVec 6) : Bool := p.toNat < 48

/-- A literal index with its pair bit: a pair starts at an even index (R56). -/
def litOk (pair : Bool) (i : BitVec 2) : Bool := !pair || !i.getLsbD 0

/-- A field that the opcode gives no rounding must be RNE without saturation (R57, R181). -/
def noRound (rm : RMode) (sat : Bool) : Bool := rm == .rne && !sat

/-- Rounding may be named, saturation not (R181, VRND and VSQRT). -/
def noSat (sat : Bool) : Bool := !sat

/-- Form A or F with RM and SAT used (R181). -/
def VBin.okRound (o : VBin) : Bool := o.g.ok

/-- Form A or F without rounding (R181). -/
def VBin.ok (o : VBin) : Bool := o.g.ok && noRound o.rm o.sat

/-- Form U with RM and SAT used (R181). -/
def VUn.okRound (o : VUn) : Bool := o.g.ok

/-- Form U with RM used (R181). -/
def VUn.okRm (o : VUn) : Bool := o.g.ok && noSat o.sat

/-- Form U without rounding (R181). -/
def VUn.ok (o : VUn) : Bool := o.g.ok && noRound o.rm o.sat

/-- Form C (R57, R188). -/
def VCm.ok (o : VCm) : Bool := o.g.ok && predOk o.pd && predOk o.pe

/-- A scalar data register: t[9:6] zero (R256). -/
def tScalar (t : BitVec 10) : Bool := t.toNat < 64

/-- A predicate data register (R256). -/
def tPred (t : BitVec 10) : Bool := t.toNat < 48

/-- A result queue (R256). -/
def tQueue (t : BitVec 10) : Bool := t.toNat < 8

/-- FP8 formats are destinations only, and the two formats differ (R75). -/
def cvtOk (src dst : CFmt) : Bool := src != .e4m3 && src != .e5m2 && src != dst

/-- System register numbers that R105 and R368 list. -/
def sysListed (n : BitVec 12) : Bool :=
  [0x000, 0x001, 0x002, 0x003, 0x004, 0x005, 0x006, 0x007, 0x008, 0x010, 0x011, 0x018, 0x019, 0x01a, 0x01c, 0x01d, 0x020,
   0x100, 0x101, 0x108, 0x109, 0x10a, 0x10b, 0x10c, 0x10d, 0x130, 0x131, 0x132, 0x133, 0x138, 0x139, 0x13a,
   0x140, 0x141, 0x142, 0x143, 0x144, 0x150, 0x151, 0x152, 0x153, 0x160, 0x161, 0x162, 0x163, 0x164, 0x170, 0x171].contains n.toNat
    || (0x030 ≤ n.toNat && n.toNat ≤ 0x037) || (0x040 ≤ n.toNat && n.toNat ≤ 0x07f) || (0x120 ≤ n.toNat && n.toNat ≤ 0x128)

/-- The registers whose MTSR has a row of its own (opcode table rows 68 to 72). -/
def sysOwnRow (n : BitVec 12) : Bool := [0x000, 0x018, 0x01c, 0x01d, 0x10b].contains n.toNat

/-- A context number names a context of a compute die (01 R13, 02 R37). -/
def ctxOk (k : Nat) : Bool := Config.computeSockets.contains (k / 4 / 96 / 2) && k / 4 / 96 < 32

/-- A core number names a core of a compute die (01 R13). -/
def coreOk (c : Nat) : Bool := ctxOk (4 * c)

/-- A cluster number names a cluster of a compute die (01 R13). -/
def clusterOk (c : BitVec 5) : Bool := Config.computeSockets.contains (c.toNat / 2)

/-- A Sill link is one of the 24 of R417. -/
def linkOk (l : BitVec 5) : Bool := l.toNat < 24

/-- The instruction is one the spec gives: its slot encoding is legal (R54), or its event names parts that exist. -/
def Instr.wf : Instr → Bool
  | .nop => true
  | .add g _ _ _ | .sub g _ _ _ | .and g _ _ _ | .or g _ _ _ | .xor g _ _ _ | .andn g _ _ _ | .shl g _ _ _ | .shr g _ _ _
  | .sra g _ _ _ | .mul g _ _ _ | .mulh g _ _ _ | .mulhu g _ _ _ | .div g _ _ _ | .divu g _ _ _ | .rem g _ _ _
  | .remu g _ _ _ | .min g _ _ _ | .max g _ _ _ | .minu g _ _ _ | .maxu g _ _ _ => g.ok
  | .addImm g _ _ _ | .subImm g _ _ _ | .andImm g _ _ _ | .orImm g _ _ _ | .xorImm g _ _ _ | .andnImm g _ _ _
  | .mulImm g _ _ _ | .mulhImm g _ _ _ | .mulhuImm g _ _ _ | .divImm g _ _ _ | .divuImm g _ _ _ | .remImm g _ _ _
  | .remuImm g _ _ _ | .minImm g _ _ _ | .maxImm g _ _ _ | .minuImm g _ _ _ | .maxuImm g _ _ _ => g.ok
  | .shlImm g _ _ _ | .shrImm g _ _ _ | .sraImm g _ _ _ => g.ok
  | .clz g _ _ | .ctz g _ _ | .popc g _ _ | .mov g _ _ => g.ok
  | .sext g _ _ n | .zext g _ _ n => g.ok && 1 ≤ n.toNat && n.toNat ≤ 64
  | .lea g _ _ _ _ _ => g.ok
  | .lit g _ pair i => g.ok && litOk pair i
  | .cmp g _ pd pe _ _ => g.ok && predOk pd && predOk pe
  | .cmpLit g _ pd pe _ pair i => g.ok && predOk pd && predOk pe && litOk pair i
  | .pand g pd pa pb | .por g pd pa pb | .pxor g pd pa pb | .pandn g pd pa pb => g.ok && predOk pd && predOk pa && predOk pb
  | .pfroms g pd _ => g.ok && predOk pd
  | .ptos g _ pa | .pcnt g _ pa | .pfirst g _ pa => g.ok && predOk pa
  | .br g _ | .bri g _ | .call g _ | .calli g _ _ | .ret g _ | .loop g _ _ _ | .loopx g _ => g.ok
  | .mfsr g _ n => g.ok && sysListed n
  | .mtsr g _ n => g.ok && sysListed n && !sysOwnRow n
  | .pswWrite g _ | .promoteWrite g _ | .droopthWrite g _ | .droopstWrite g _ | .barvalWrite g _ => g.ok
  | .trap g _ => g.ok
  | .dhop g _ _ _ => g.ok
  | .vadd _ o | .vsub _ o | .vmul _ o | .vfma _ o | .vfms _ o | .vfnma _ o => o.okRound
  | .vmin _ o | .vmax _ o | .vcpys _ o | .vclamp _ o => o.ok
  | .vabs _ o | .vneg _ o => o.ok
  | .vrnd _ o => o.okRm
  | .vsqrt o => o.okRm
  | .vrcp o | .vrsq o | .vexp2 o | .vlog2 o | .vsig o | .vtanh o => o.ok
  | .viadd _ o | .visub _ o | .vimul _ o | .vimulh _ o | .vimad _ o | .vimin _ o | .vimax _ o | .vshl _ o | .vshr _ o
  | .vsra _ o => o.ok
  | .viabs _ o => o.ok
  | .vand o | .vor o | .vxor o | .vsel o | .vperm o => o.ok
  | .vcmp _ _ o | .vicmp _ _ o => o.ok
  | .vcvt src dst o => o.okRound && cvtOk src dst
  | .vpkbx _ o => o.okRound
  | .vupbx _ o => o.ok
  | .vredAdd t o => if t = .i32 then o.ok else o.okRm
  | .vredMin _ o | .vredMax _ o => o.ok
  | .vbcast o _ => o.ok
  | .vslide o _ => o.ok
  | .vmov o => o.ok
  | .vmovs g _ _ _ => g.ok
  | .vext g _ _ _ => g.ok
  | .vlit g _ _ => g.ok
  | .vrdacc g _ _ _ | .vwracc g _ _ _ => g.ok
  | .vpop g _ _ => g.ok
  | .mma g _ _ _ _ _ | .mmaz g _ _ _ _ _ => g.ok
  | .rmin g _ _ _ | .rmax g _ _ _ | .rsort g _ _ _ => g.ok
  | .rtopk g _ _ _ _ => g.ok
  | .wload g _ _ => g.ok
  | .wswap g _ => g.ok
  | .tepi g _ bias _ _ tdb _ _ => g.ok && (bias || tdb == 0)
  | .tew g _ _ tdb op _ => g.ok && op.toNat ≤ 5 && (op != 5 || tdb == 0)
  | .tdrain g _ row n1 _ _ => g.ok && row.toNat + n1.toNat + 1 ≤ 16
  | .force g tdd mode acc => g.ok && mode != 3 && (mode == 0 || tdd == 0) && (mode == 1 || acc == 0)
  | .tstore g _ tda bank _ _ acc _ => g.ok && (if bank then tda == 0 else acc == 0)
  | .tdrop g all kin0 => g.ok && (!all || kin0 == 0)
  | .tdld g _ _ _ => g.ok
  | .acz g _ => g.ok
  | .scribe g => g.ok
  | .ldB m | .ldBu m | .ldH m | .ldHu m | .ldW m | .ldWu m | .ldD m | .stB m | .stH m | .stW m | .stD m => m.g.ok && tScalar m.t
  | .vld m | .vldb m | .vst m => m.g.ok
  | .vgath m | .vscat m => m.g.ok
  | .ldlW m | .ldlD m | .stuW m | .stuD m => m.g.ok && tScalar m.t && predOk m.pd
  | .ldacqW m | .ldacqD m | .strelW m | .strelD m | .aaddW m | .aaddD m | .aminW m | .aminD m | .amaxW m | .amaxD m
  | .axchW m | .axchD m => m.g.ok && tScalar m.t
  | .acasW m | .acasD m => m.g.ok && tScalar m.t && !m.t.getLsbD 0 && 2 ≤ m.t.toNat && m.t.toNat ≤ 62
  | .pld m | .pst m => m.g.ok && tPred m.t
  | .stq m => m.g.ok && tQueue m.t
  | .cpy c | .cpyil c | .cgath c => c.g.ok && c.flags.toNat < 2
  | .tmv c | .ccoll c | .cpre c => c.g.ok && c.flags == 0
  | .cflush c => c.g.ok && c.flags.toNat < 2 && (!c.flags.getLsbD 0 || c.a == 0)
  | .cpq c => c.g.ok && c.flags.toNat < 16
  | .wait g _ _ _ _ | .waitk g _ | .waitdc g _ _ | .drain g _ | .bara g _ | .barw g _ => g.ok
  | .bart g _ p => g.ok && predOk p
  | .snap g _ | .gview g _ _ | .spawn g _ _ _ | .grow g _ _ | .suspend g | .exit g | .yield g => g.ok
  | .qacq q | .qcommit q | .qpeek q | .qrel q => q.g.ok && predOk q.p
  | .eret g | .dcset g _ _ | .timer g _ _ _ | .brkpt g => g.ok
  | .coldReset _ reserveGiB => reserveGiB.toNat ≤ 64
  | .warmReset _ => true
  | .launchGrid _ _ _ lrec => lrec.toNat % 128 == 0 && lrec.toNat + 128 ≤ 33554432
  | .dropSnapshot _ _ => true
  | .writeCompletion => true
  | .dispatchIndex _ rec => rec.toNat % 64 == 0
  | .dispatchGang _ recs => recs.length == 96 && recs.all fun r => r.toNat % 64 == 0
  | .bind k | .resume k => ctxOk k
  | .dispatcherAccept k rec => ctxOk k && rec.toNat % 64 == 0
  | .contextUnblock k | .rendezvous k | .prefetchBlock k | .fetchRedirect k => ctxOk k
  | .engineAccept k eng => ctxOk k && eng != 0 && eng != 7
  | .resultLands k | .loadRetire k | .storePerform k => ctxOk k
  | .lockGrant _ | .lockTimeout _ => true
  | .ldlGrantTimeout k | .stepTrap k | .ueccConsumed k | .sigmis k => ctxOk k
  | .preemptRequest k frame => ctxOk k && frame.toNat % 4096 == 0
  | .preemptSave k | .preemptBoundExpiry k => ctxOk k
  | .agingStep _ => true
  | .copyStart _ | .copyPiece _ _ _ | .collectiveStep _ _ _ | .copyComplete _ | .landingRelease _ => true
  | .landingLateFault k | .kerfPass k _ | .racePass k _ | .nodeRun k | .nodeRetire k => ctxOk k
  | .scribeComplete core codes _ _ => coreOk core && codes.length == 64
  | .kerfFirmwareWrite core reg _ => coreOk core && reg.toNat ≤ 65
  | .timerExpiry cl _ | .droopAlarm cl _ | .stretchEnd cl | .halfIssueEnd cl => clusterOk cl
  | .powerGrant _ => true
  | .cut | .cutDone _ | .open_ => true
  | .heldWriteRelease _ => true
  | .scarfDrain die => Config.memorySockets.contains die.toNat
  | .genfull _ | .overflowRefill _ => true
  | .spillfull _ slots => slots.toNat ≤ 16777216
  | .pageMigration _ _ off frame place => off.toNat % 65536 == 0 && frame.toNat % 65536 == 0 && place != 3
  | .hostWrite _ space _ _ => space != 3
  | .creditReturn _ _ _ | .creditAudit _ _ _ | .selectiveRepeat _ _ => true
  | .linkRetrain link _ | .linkDown link => linkOk link
  | .hostPortReset _ | .hostLinkUp _ | .attestationReport _ | .mailboxIgnored _ => true
  | .ageoscRefresh _ _ _ => true
  | .packageTimebaseTick | .arithmeticClockCycle _ => true
  | .pageAllocation _ _ off big frame place _ _ t1 t2 =>
      place != 3 && t1.toNat % 262144 == 0 && t2.toNat % 4096 == 0
        && (if big then off.toNat % 33554432 == 0 && frame.toNat % 33554432 == 0 else off.toNat % 65536 == 0 && frame.toNat % 65536 == 0)
  | .cxlPortLinkDown die _ => Config.ioSockets.contains die.toNat

/-- A slot instruction, as against an event. -/
def Instr.isSlot : Instr → Bool
  | .coldReset _ _ | .warmReset _ | .launchGrid _ _ _ _ | .dropSnapshot _ _ | .writeCompletion | .dispatchIndex _ _ | .dispatchGang _ _
  | .bind _ | .resume _ | .dispatcherAccept _ _ | .contextUnblock _ | .rendezvous _ | .prefetchBlock _ | .fetchRedirect _
  | .engineAccept _ _ | .resultLands _ | .loadRetire _ | .storePerform _ | .lockGrant _ | .lockTimeout _ | .ldlGrantTimeout _
  | .stepTrap _ | .ueccConsumed _ | .sigmis _ | .preemptRequest _ _ | .preemptSave _ | .preemptBoundExpiry _ | .agingStep _
  | .copyStart _ | .copyPiece _ _ _ | .collectiveStep _ _ _ | .copyComplete _ | .landingRelease _ | .landingLateFault _
  | .kerfPass _ _ | .racePass _ _ | .nodeRun _ | .nodeRetire _ | .scribeComplete _ _ _ _ | .kerfFirmwareWrite _ _ _
  | .timerExpiry _ _ | .droopAlarm _ _ | .stretchEnd _ | .halfIssueEnd _ | .powerGrant _ | .cut | .cutDone _ | .open_
  | .heldWriteRelease _ | .scarfDrain _ | .genfull _ | .overflowRefill _ | .spillfull _ _ | .pageMigration _ _ _ _ _
  | .hostWrite _ _ _ _ | .creditReturn _ _ _ | .creditAudit _ _ _ | .selectiveRepeat _ _ | .linkRetrain _ _ | .linkDown _
  | .hostPortReset _ | .hostLinkUp _ | .attestationReport _ | .mailboxIgnored _ | .ageoscRefresh _ _ _ | .packageTimebaseTick
  | .arithmeticClockCycle _ | .pageAllocation _ _ _ _ _ _ _ _ _ _ | .cxlPortLinkDown _ _ => false
  | _ => true

end Sys2Proof
end

