-- ==== Sys2Proof/Decode.lean ====
section
/-!
DEFINITION. The decoder of the eight slots, total on every value of a slot, and the encoder of the same tables
(03_bundles R50 to R80; 13_memops R256, R262, R268; 17_tile R348, R349). A slot encoding is rejected by name: the reasons are
the rows of R54.
-/
namespace Sys2Proof

/-- The slots by their encodings; VA and VB share one (R57). -/
inductive SlotKind where
  | s | v | t | l | st | c | y
deriving DecidableEq, Repr

/-- Why a slot encoding is illegal (R54): each raises ILL at its slot. -/
inductive DecodeError where
  /-- opcode zero with another bit of the slot non-zero -/
  | opcodeZero
  /-- an opcode, variant, condition, format or scope code that no map lists -/
  | unassigned
  /-- a register, predicate, literal, immediate or hold field with a value its form does not allow -/
  | field
  /-- a reserved or unused field that is not zero -/
  | reserved
deriving DecidableEq, Repr

/-- Fields packed from bit 0 upward, each a width and a value. -/
def pack : List (Nat × Nat) → Nat
  | [] => 0
  | (w, v) :: r => v % 2 ^ w + 2 ^ w * pack r

/-- The fields of the given widths, from bit 0 upward. -/
def unpack : List Nat → Nat → List Nat
  | [], _ => []
  | w :: ws, n => n % 2 ^ w :: unpack ws (n / 2 ^ w)

/-- A Boolean as a field of one bit. -/
def bit (b : Bool) : Nat := if b then 1 else 0

/-- Condition codes of CMP (R72). -/
def Cond.code : Cond → Nat
  | .eq => 0
  | .ne => 1
  | .lt => 2
  | .ge => 3
  | .le => 4
  | .gt => 5
  | .ltu => 6
  | .geu => 7
  | .leu => 8
  | .gtu => 9
  | .tst => 10
  | .ntst => 11

/-- Condition codes of CMP (R72). -/
def Cond.ofCode : Nat → Option Cond
  | 0 => some .eq
  | 1 => some .ne
  | 2 => some .lt
  | 3 => some .ge
  | 4 => some .le
  | 5 => some .gt
  | 6 => some .ltu
  | 7 => some .geu
  | 8 => some .leu
  | 9 => some .gtu
  | 10 => some .tst
  | 11 => some .ntst
  | _ => none

/-- Condition codes of VCMP (R74). -/
def FCond.code : FCond → Nat
  | .eq => 0
  | .ne => 1
  | .lt => 2
  | .le => 3
  | .gt => 4
  | .ge => 5
  | .un => 6
  | .or => 7

/-- Condition codes of VCMP (R74). -/
def FCond.ofCode : Nat → Option FCond
  | 0 => some .eq
  | 1 => some .ne
  | 2 => some .lt
  | 3 => some .le
  | 4 => some .gt
  | 5 => some .ge
  | 6 => some .un
  | 7 => some .or
  | _ => none

/-- Condition codes of VICMP (R74). -/
def ICond.code : ICond → Nat
  | .eq => 0
  | .ne => 1
  | .lt => 2
  | .le => 3
  | .gt => 4
  | .ge => 5
  | .ltu => 6
  | .geu => 7

/-- Condition codes of VICMP (R74). -/
def ICond.ofCode : Nat → Option ICond
  | 0 => some .eq
  | 1 => some .ne
  | 2 => some .lt
  | 3 => some .le
  | 4 => some .gt
  | 5 => some .ge
  | 6 => some .ltu
  | 7 => some .geu
  | _ => none

/-- Floating type codes (R73). -/
def FTy.code : FTy → Nat
  | .f32 => 0
  | .bf16 => 1
  | .f16 => 2

/-- Floating type codes (R73). -/
def FTy.ofCode : Nat → Option FTy
  | 0 => some .f32
  | 1 => some .bf16
  | 2 => some .f16
  | _ => none

/-- Integer type codes (R73). -/
def ITy.code : ITy → Nat
  | .i32 => 3
  | .i16 => 4
  | .i8 => 5

/-- Integer type codes (R73). -/
def ITy.ofCode : Nat → Option ITy
  | 3 => some .i32
  | 4 => some .i16
  | 5 => some .i8
  | _ => none

/-- Variants of the reductions (R73). -/
def RTy.code : RTy → Nat
  | .f32 => 0
  | .bf16 => 1
  | .f16 => 2
  | .i32 => 3

/-- Variants of the reductions (R73). -/
def RTy.ofCode : Nat → Option RTy
  | 0 => some .f32
  | 1 => some .bf16
  | 2 => some .f16
  | 3 => some .i32
  | _ => none

/-- Variants of VPKBX and VUPBX (R73). -/
def BTy.code : BTy → Nat
  | .bx8 => 0
  | .bx4 => 1

/-- Variants of VPKBX and VUPBX (R73). -/
def BTy.ofCode : Nat → Option BTy
  | 0 => some .bx8
  | 1 => some .bx4
  | _ => none

/-- Conversion formats (R75). -/
def CFmt.code : CFmt → Nat
  | .f32 => 0
  | .bf16 => 1
  | .f16 => 2
  | .i32 => 3
  | .i16 => 4
  | .i8 => 5
  | .e4m3 => 6
  | .e5m2 => 7

/-- Conversion formats (R75). -/
def CFmt.ofCode : Nat → Option CFmt
  | 0 => some .f32
  | 1 => some .bf16
  | 2 => some .f16
  | 3 => some .i32
  | 4 => some .i16
  | 5 => some .i8
  | 6 => some .e4m3
  | 7 => some .e5m2
  | _ => none

/-- Scope codes (R59). -/
def Scope.code : Scope → Nat
  | .u => 0
  | .c => 1
  | .d => 2
  | .p => 3
  | .s => 4

/-- Scope codes (R59). -/
def Scope.ofCode : Nat → Option Scope
  | 0 => some .u
  | 1 => some .c
  | 2 => some .d
  | 3 => some .p
  | 4 => some .s
  | _ => none

/-- Hold codes (R57). -/
def Hold.code : Hold → Nat
  | .read => 0
  | .latch => 1
  | .held => 2

/-- Hold codes (R57). -/
def Hold.ofCode : Nat → Option Hold
  | 0 => some .read
  | 1 => some .latch
  | 2 => some .held
  | _ => none

/-- Rounding modes (R57). -/
def RMode.code : RMode → Nat
  | .rne => 0
  | .rtz => 1
  | .rdn => 2
  | .rup => 3

/-- Rounding modes (R57). -/
def RMode.ofCode : Nat → Option RMode
  | 0 => some .rne
  | 1 => some .rtz
  | 2 => some .rdn
  | 3 => some .rup
  | _ => none

/-! ### Encoder -/

/-- S form R (R56). -/
def encR (op : Nat) (g : Guard) (d a b : BitVec 6) : Nat :=
  pack [(7, g.toNat), (7, op), (6, d.toNat), (6, a.toNat), (6, b.toNat)]

/-- S form I (R56). -/
def encI (op : Nat) (g : Guard) (d a : BitVec 6) (imm : BitVec 18) : Nat :=
  pack [(7, g.toNat), (7, op), (6, d.toNat), (6, a.toNat), (18, imm.toNat)]

/-- S form I of a shift, whose immediate is 0 to 63 (R157). -/
def encSh (op : Nat) (g : Guard) (d a n : BitVec 6) : Nat :=
  pack [(7, g.toNat), (7, op), (6, d.toNat), (6, a.toNat), (6, n.toNat)]

/-- S forms U, J (R56). -/
def encU (op : Nat) (g : Guard) (d a : BitVec 6) : Nat :=
  pack [(7, g.toNat), (7, op), (6, d.toNat), (6, a.toNat)]

/-- S form E (R56). -/
def encE (op : Nat) (g : Guard) (d a : BitVec 6) (n : BitVec 7) : Nat :=
  pack [(7, g.toNat), (7, op), (6, d.toNat), (6, a.toNat), (6, 0), (7, n.toNat)]

/-- S form M (R56). -/
def encM (op : Nat) (g : Guard) (d a : BitVec 6) (n : BitVec 12) : Nat :=
  pack [(7, g.toNat), (7, op), (6, d.toNat), (6, a.toNat), (6, 0), (12, n.toNat)]

/-- The hold code and the register field of a source (R57). -/
def VSrc.enc (s : VSrc) : Nat × Nat := (s.hold.code, s.n.toNat)

/-- The vector layout (R57): guard, variant, family, vd, va, vb, HA, HB, RM, SAT, LB. -/
def encV (g : Guard) (var fam vd va vb ha hb rm sat lb : Nat) : Nat :=
  pack [(7, g.toNat), (3, var), (6, fam), (10, vd), (10, va), (10, vb), (2, ha), (2, hb), (2, rm), (1, sat), (1, lb)]

/-- Vector forms A and F (R57). -/
def encBin (var fam : Nat) (o : VBin) : Nat :=
  match o.b with
  | .reg b => encV o.g var fam o.vd.toNat o.a.n.toNat b.n.toNat o.a.hold.code b.hold.code o.rm.code (bit o.sat) 0
  | .lit i => encV o.g var fam o.vd.toNat o.a.n.toNat i.toNat o.a.hold.code 0 o.rm.code (bit o.sat) 1

/-- Vector form U, and forms V and N with the field `vb` (R57). -/
def encUn (var fam vb : Nat) (o : VUn) : Nat :=
  encV o.g var fam o.vd.toNat o.a.n.toNat vb o.a.hold.code 0 o.rm.code (bit o.sat) 0

/-- Vector form C (R57): pe[5:4] lies in the RM field. -/
def encCm (var fam : Nat) (o : VCm) : Nat :=
  let vd := pack [(6, o.pd.toNat), (4, o.pe.toNat)]
  match o.b with
  | .reg b => encV o.g var fam vd o.a.n.toNat b.n.toNat o.a.hold.code b.hold.code (o.pe.toNat / 16) 0 0
  | .lit i => encV o.g var fam vd o.a.n.toNat i.toNat o.a.hold.code 0 (o.pe.toNat / 16) 0 1

/-- The T slot's layout (R58): guard, opcode, tdd, tda, tdb, acc, kout, kin0 to kin2. -/
def encT (g : Guard) (op tdd tda tdb acc : Nat) (k : Toks) : Nat :=
  pack [(7, g.toNat), (7, op), (5, tdd), (5, tda), (5, tdb), (3, acc), (4, k.kout.toNat), (4, k.kin0.toNat),
    (4, k.kin1.toNat), (4, k.kin2.toNat)]

/-- No tokens named. -/
def Toks.zero : Toks := ⟨0, 0, 0, 0⟩

/-- Plain form of the L and ST slots (R59). -/
def encP (op : Nat) (m : MemP) : Nat :=
  pack [(7, m.g.toNat), (6, op), (10, m.t.toNat), (6, m.base.toNat), (19, m.off.toNat)]

/-- Scoped form of the L and ST slots (R59). -/
def encS (op : Nat) (m : MemS) : Nat :=
  pack [(7, m.g.toNat), (6, op), (10, m.t.toNat), (6, m.base.toNat), (3, m.scope.code), (16, m.off.toNat)]

/-- Lock form (R268). -/
def encL (op : Nat) (m : MemL) : Nat :=
  pack [(7, m.g.toNat), (6, op), (10, m.t.toNat), (6, m.base.toNat), (13, m.off.toNat), (6, m.pd.toNat)]

/-- Gather form (R262). -/
def encG (op : Nat) (m : MemG) : Nat :=
  pack [(7, m.g.toNat), (6, op), (10, m.t.toNat), (6, m.base.toNat), (10, m.vi.toNat), (3, m.scale.toNat)]

/-- The C slot's layout (R60). -/
def encC (op : Nat) (c : CopyF) : Nat :=
  pack [(7, c.g.toNat), (5, op), (6, c.a.toNat), (4, c.toks.kout.toNat), (4, c.toks.kin0.toNat), (4, c.toks.kin1.toNat),
    (4, c.toks.kin2.toNat), (6, c.flags.toNat)]

/-- Y forms X and Q (R61). -/
def encX (op : Nat) (g : Guard) (x y z : BitVec 6) : Nat :=
  pack [(7, g.toNat), (7, op), (6, x.toNat), (6, y.toNat), (6, z.toNat)]

/-- Y form Q (R291). -/
def encQ (op : Nat) (q : RingF) : Nat := encX op q.g q.p q.r q.x

/-- The slot a slot instruction belongs to; NOP and the events have none of their own. -/
def Instr.slotKind : Instr → Option SlotKind
  | .add _ _ _ _ => some .s
  | .sub _ _ _ _ => some .s
  | .and _ _ _ _ => some .s
  | .or _ _ _ _ => some .s
  | .xor _ _ _ _ => some .s
  | .andn _ _ _ _ => some .s
  | .shl _ _ _ _ => some .s
  | .shr _ _ _ _ => some .s
  | .sra _ _ _ _ => some .s
  | .mul _ _ _ _ => some .s
  | .mulh _ _ _ _ => some .s
  | .mulhu _ _ _ _ => some .s
  | .div _ _ _ _ => some .s
  | .divu _ _ _ _ => some .s
  | .rem _ _ _ _ => some .s
  | .remu _ _ _ _ => some .s
  | .min _ _ _ _ => some .s
  | .max _ _ _ _ => some .s
  | .minu _ _ _ _ => some .s
  | .maxu _ _ _ _ => some .s
  | .addImm _ _ _ _ => some .s
  | .subImm _ _ _ _ => some .s
  | .andImm _ _ _ _ => some .s
  | .orImm _ _ _ _ => some .s
  | .xorImm _ _ _ _ => some .s
  | .andnImm _ _ _ _ => some .s
  | .shlImm _ _ _ _ => some .s
  | .shrImm _ _ _ _ => some .s
  | .sraImm _ _ _ _ => some .s
  | .mulImm _ _ _ _ => some .s
  | .mulhImm _ _ _ _ => some .s
  | .mulhuImm _ _ _ _ => some .s
  | .divImm _ _ _ _ => some .s
  | .divuImm _ _ _ _ => some .s
  | .remImm _ _ _ _ => some .s
  | .remuImm _ _ _ _ => some .s
  | .minImm _ _ _ _ => some .s
  | .maxImm _ _ _ _ => some .s
  | .minuImm _ _ _ _ => some .s
  | .maxuImm _ _ _ _ => some .s
  | .clz _ _ _ => some .s
  | .ctz _ _ _ => some .s
  | .popc _ _ _ => some .s
  | .mov _ _ _ => some .s
  | .sext _ _ _ _ => some .s
  | .zext _ _ _ _ => some .s
  | .lea _ _ _ _ _ _ => some .s
  | .lit _ _ _ _ => some .s
  | .cmp _ _ _ _ _ _ => some .s
  | .cmpLit _ _ _ _ _ _ _ => some .s
  | .pand _ _ _ _ => some .s
  | .por _ _ _ _ => some .s
  | .pxor _ _ _ _ => some .s
  | .pandn _ _ _ _ => some .s
  | .pfroms _ _ _ => some .s
  | .ptos _ _ _ => some .s
  | .pcnt _ _ _ => some .s
  | .pfirst _ _ _ => some .s
  | .br _ _ => some .s
  | .call _ _ => some .s
  | .bri _ _ => some .s
  | .ret _ _ => some .s
  | .calli _ _ _ => some .s
  | .loop _ _ _ _ => some .s
  | .loopx _ _ => some .s
  | .mfsr _ _ _ => some .s
  | .trap _ _ => some .s
  | .dhop _ _ _ _ => some .s
  | .mtsr _ _ _ => some .s
  | .pswWrite _ _ => some .s
  | .promoteWrite _ _ => some .s
  | .droopthWrite _ _ => some .s
  | .droopstWrite _ _ => some .s
  | .barvalWrite _ _ => some .s
  | .vadd _ _ => some .v
  | .vsub _ _ => some .v
  | .vmul _ _ => some .v
  | .vfma _ _ => some .v
  | .vfms _ _ => some .v
  | .vfnma _ _ => some .v
  | .vmin _ _ => some .v
  | .vmax _ _ => some .v
  | .vabs _ _ => some .v
  | .vneg _ _ => some .v
  | .vcpys _ _ => some .v
  | .vrcp _ => some .v
  | .vrsq _ => some .v
  | .vsqrt _ => some .v
  | .vexp2 _ => some .v
  | .vlog2 _ => some .v
  | .vsig _ => some .v
  | .vtanh _ => some .v
  | .vrnd _ _ => some .v
  | .vclamp _ _ => some .v
  | .viadd _ _ => some .v
  | .visub _ _ => some .v
  | .vimul _ _ => some .v
  | .vimulh _ _ => some .v
  | .vimad _ _ => some .v
  | .vimin _ _ => some .v
  | .vimax _ _ => some .v
  | .vshl _ _ => some .v
  | .vshr _ _ => some .v
  | .vsra _ _ => some .v
  | .viabs _ _ => some .v
  | .vand _ => some .v
  | .vor _ => some .v
  | .vxor _ => some .v
  | .vsel _ => some .v
  | .vperm _ => some .v
  | .vcmp _ _ _ => some .v
  | .vicmp _ _ _ => some .v
  | .vcvt _ _ _ => some .v
  | .vpkbx _ _ => some .v
  | .vupbx _ _ => some .v
  | .vredAdd _ _ => some .v
  | .vredMin _ _ => some .v
  | .vredMax _ _ => some .v
  | .vbcast _ _ => some .v
  | .vslide _ _ => some .v
  | .vmovs _ _ _ _ => some .v
  | .vext _ _ _ _ => some .v
  | .vmov _ => some .v
  | .vlit _ _ _ => some .v
  | .vrdacc _ _ _ _ => some .v
  | .vwracc _ _ _ _ => some .v
  | .vpop _ _ _ => some .v
  | .mma _ _ _ _ _ _ => some .t
  | .mmaz _ _ _ _ _ _ => some .t
  | .rmin _ _ _ _ => some .t
  | .rmax _ _ _ _ => some .t
  | .rsort _ _ _ _ => some .t
  | .rtopk _ _ _ _ _ => some .t
  | .wload _ _ _ => some .t
  | .wswap _ _ => some .t
  | .tepi _ _ _ _ _ _ _ _ => some .t
  | .tew _ _ _ _ _ _ => some .t
  | .tdrain _ _ _ _ _ _ => some .t
  | .force _ _ _ _ => some .t
  | .tstore _ _ _ _ _ _ _ _ => some .t
  | .tdrop _ _ _ => some .t
  | .tdld _ _ _ _ => some .t
  | .acz _ _ => some .t
  | .scribe _ => some .t
  | .ldB _ => some .l
  | .ldBu _ => some .l
  | .ldH _ => some .l
  | .ldHu _ => some .l
  | .ldW _ => some .l
  | .ldWu _ => some .l
  | .ldD _ => some .l
  | .vld _ => some .l
  | .vldb _ => some .l
  | .pld _ => some .l
  | .vgath _ => some .l
  | .ldlW _ => some .l
  | .ldlD _ => some .l
  | .ldacqW _ => some .l
  | .ldacqD _ => some .l
  | .stB _ => some .st
  | .stH _ => some .st
  | .stW _ => some .st
  | .stD _ => some .st
  | .vst _ => some .st
  | .stq _ => some .st
  | .pst _ => some .st
  | .vscat _ => some .st
  | .stuW _ => some .st
  | .stuD _ => some .st
  | .strelW _ => some .st
  | .strelD _ => some .st
  | .aaddW _ => some .st
  | .aaddD _ => some .st
  | .aminW _ => some .st
  | .aminD _ => some .st
  | .amaxW _ => some .st
  | .amaxD _ => some .st
  | .axchW _ => some .st
  | .axchD _ => some .st
  | .acasW _ => some .st
  | .acasD _ => some .st
  | .cpy _ => some .c
  | .cpyil _ => some .c
  | .cgath _ => some .c
  | .tmv _ => some .c
  | .ccoll _ => some .c
  | .cflush _ => some .c
  | .cpq _ => some .c
  | .cpre _ => some .c
  | .wait _ _ _ _ _ => some .y
  | .waitk _ _ => some .y
  | .waitdc _ _ _ => some .y
  | .drain _ _ => some .y
  | .bara _ _ => some .y
  | .barw _ _ => some .y
  | .bart _ _ _ => some .y
  | .snap _ _ => some .y
  | .gview _ _ _ => some .y
  | .spawn _ _ _ _ => some .y
  | .grow _ _ _ => some .y
  | .timer _ _ _ _ => some .y
  | .suspend _ => some .y
  | .exit _ => some .y
  | .yield _ => some .y
  | .eret _ => some .y
  | .brkpt _ => some .y
  | .qacq _ => some .y
  | .qcommit _ => some .y
  | .qpeek _ => some .y
  | .qrel _ => some .y
  | .dcset _ _ _ => some .y
  | _ => none

/-- The encoding of a slot instruction, from bit 0 of its slot; 0 for NOP and for the events. -/
def encode : Instr → Nat
  | .add g d a b => encR 1 g d a b
  | .sub g d a b => encR 2 g d a b
  | .and g d a b => encR 3 g d a b
  | .or g d a b => encR 4 g d a b
  | .xor g d a b => encR 5 g d a b
  | .andn g d a b => encR 6 g d a b
  | .shl g d a b => encR 7 g d a b
  | .shr g d a b => encR 8 g d a b
  | .sra g d a b => encR 9 g d a b
  | .mul g d a b => encR 10 g d a b
  | .mulh g d a b => encR 11 g d a b
  | .mulhu g d a b => encR 12 g d a b
  | .div g d a b => encR 13 g d a b
  | .divu g d a b => encR 14 g d a b
  | .rem g d a b => encR 15 g d a b
  | .remu g d a b => encR 16 g d a b
  | .min g d a b => encR 17 g d a b
  | .max g d a b => encR 18 g d a b
  | .minu g d a b => encR 19 g d a b
  | .maxu g d a b => encR 20 g d a b
  | .addImm g d a imm => encI 33 g d a imm
  | .subImm g d a imm => encI 34 g d a imm
  | .andImm g d a imm => encI 35 g d a imm
  | .orImm g d a imm => encI 36 g d a imm
  | .xorImm g d a imm => encI 37 g d a imm
  | .andnImm g d a imm => encI 38 g d a imm
  | .shlImm g d a n => encSh 39 g d a n
  | .shrImm g d a n => encSh 40 g d a n
  | .sraImm g d a n => encSh 41 g d a n
  | .mulImm g d a imm => encI 42 g d a imm
  | .mulhImm g d a imm => encI 43 g d a imm
  | .mulhuImm g d a imm => encI 44 g d a imm
  | .divImm g d a imm => encI 45 g d a imm
  | .divuImm g d a imm => encI 46 g d a imm
  | .remImm g d a imm => encI 47 g d a imm
  | .remuImm g d a imm => encI 48 g d a imm
  | .minImm g d a imm => encI 49 g d a imm
  | .maxImm g d a imm => encI 50 g d a imm
  | .minuImm g d a imm => encI 51 g d a imm
  | .maxuImm g d a imm => encI 52 g d a imm
  | .clz g d a => encU 21 g d a
  | .ctz g d a => encU 22 g d a
  | .popc g d a => encU 23 g d a
  | .mov g d a => encU 26 g d a
  | .sext g d a n => encE 24 g d a n
  | .zext g d a n => encE 25 g d a n
  | .lea g d a b scale disp => pack [(7, g.toNat), (7, 27), (6, d.toNat), (6, a.toNat), (6, b.toNat), (3, scale.toNat), (9, disp.toNat)]
  | .lit g d pair i => pack [(7, g.toNat), (7, 30), (6, d.toNat), (6, 0), (2, i.toNat), (1, bit pair)]
  | .cmp g cc pd pe a b => pack [(7, g.toNat), (7, 28), (6, pd.toNat), (6, a.toNat), (6, b.toNat), (6, pe.toNat), (4, cc.code)]
  | .cmpLit g cc pd pe a pair i => pack [(7, g.toNat), (7, 29), (6, pd.toNat), (6, a.toNat), (2, i.toNat), (1, bit pair), (3, 0), (6, pe.toNat), (4, cc.code)]
  | .pand g pd pa pb => encR 64 g pd pa pb
  | .por g pd pa pb => encR 65 g pd pa pb
  | .pxor g pd pa pb => encR 66 g pd pa pb
  | .pandn g pd pa pb => encR 67 g pd pa pb
  | .pfroms g pd a => encU 68 g pd a
  | .ptos g d pa => encU 69 g d pa
  | .pcnt g d pa => encU 70 g d pa
  | .pfirst g d pa => encU 71 g d pa
  | .br g off => pack [(7, g.toNat), (7, 80), (30, off.toNat)]
  | .call g off => pack [(7, g.toNat), (7, 82), (30, off.toNat)]
  | .bri g a => encU 81 g 0 a
  | .ret g a => encU 84 g 0 a
  | .calli g d a => encU 83 g d a
  | .loop g lvl a span => pack [(7, g.toNat), (7, 85), (2, lvl.toNat), (4, 0), (6, a.toNat), (18, span.toNat)]
  | .loopx g lvl => pack [(7, g.toNat), (7, 86), (2, lvl.toNat)]
  | .mfsr g d n => encM 88 g d 0 n
  | .trap g code => encM 90 g 0 0 code
  | .dhop g d a b => encR 91 g d a b
  | .mtsr g a n => encM 89 g 0 a n
  | .pswWrite g a => encM 89 g 0 a 0
  | .promoteWrite g a => encM 89 g 0 a 24
  | .droopthWrite g a => encM 89 g 0 a 28
  | .droopstWrite g a => encM 89 g 0 a 29
  | .barvalWrite g a => encM 89 g 0 a 267
  | .vadd t o => encBin t.code 1 o
  | .vsub t o => encBin t.code 2 o
  | .vmul t o => encBin t.code 3 o
  | .vfma t o => encBin t.code 4 o
  | .vfms t o => encBin t.code 5 o
  | .vfnma t o => encBin t.code 6 o
  | .vmin t o => encBin t.code 7 o
  | .vmax t o => encBin t.code 8 o
  | .vabs t o => encUn t.code 9 0 o
  | .vneg t o => encUn t.code 10 0 o
  | .vcpys t o => encBin t.code 11 o
  | .vrcp o => encUn 0 12 0 o
  | .vrsq o => encUn 0 13 0 o
  | .vsqrt o => encUn 0 14 0 o
  | .vexp2 o => encUn 0 15 0 o
  | .vlog2 o => encUn 0 16 0 o
  | .vsig o => encUn 0 17 0 o
  | .vtanh o => encUn 0 18 0 o
  | .vrnd t o => encUn t.code 19 0 o
  | .vclamp t o => encBin t.code 20 o
  | .viadd t o => encBin t.code 21 o
  | .visub t o => encBin t.code 22 o
  | .vimul t o => encBin t.code 23 o
  | .vimulh t o => encBin t.code 24 o
  | .vimad t o => encBin t.code 25 o
  | .vimin t o => encBin t.code 26 o
  | .vimax t o => encBin t.code 27 o
  | .vshl t o => encBin t.code 32 o
  | .vshr t o => encBin t.code 33 o
  | .vsra t o => encBin t.code 34 o
  | .viabs t o => encUn t.code 28 0 o
  | .vand o => encBin 7 29 o
  | .vor o => encBin 7 30 o
  | .vxor o => encBin 7 31 o
  | .vsel o => encBin 7 41 o
  | .vperm o => encBin 7 48 o
  | .vcmp t cc o => encCm cc.code (match t with | .f32 => 35 | .bf16 => 36 | .f16 => 37) o
  | .vicmp t cc o => encCm cc.code (match t with | .i32 => 38 | .i16 => 39 | .i8 => 40) o
  | .vcvt src dst o => encUn 7 42 (pack [(4, src.code), (4, dst.code)]) o
  | .vpkbx t o => encUn t.code 43 0 o
  | .vupbx t o => encUn t.code 44 0 o
  | .vredAdd t o => encUn t.code 45 0 o
  | .vredMin t o => encUn t.code 46 0 o
  | .vredMax t o => encUn t.code 47 0 o
  | .vbcast o lane => encUn 7 49 lane.toNat o
  | .vslide o n => encUn 7 50 n.toNat o
  | .vmovs g vd a lane => encV g 7 51 vd.toNat a.toNat lane.toNat 0 0 0 0 0
  | .vext g d a lane => encV g 7 52 d.toNat a.n.toNat lane.toNat a.hold.code 0 0 0 0
  | .vmov o => encUn 7 53 0 o
  | .vlit g vd i => encV g 7 54 vd.toNat 0 i.toNat 0 0 0 0 1
  | .vrdacc g vd bank row => encV g 0 55 vd.toNat (pack [(3, bank.toNat), (4, row.toNat)]) 0 0 0 0 0 0
  | .vwracc g bank row a => encV g 0 56 (pack [(3, bank.toNat), (4, row.toNat)]) a.n.toNat 0 a.hold.code 0 0 0 0
  | .vpop g vd q => encV g 0 57 vd.toNat q.toNat 0 0 0 0 0 0
  | .mma g strm tda tdb acc k => encT g 1 (bit strm) tda.toNat tdb.toNat acc.toNat k
  | .mmaz g strm tda tdb acc k => encT g 2 (bit strm) tda.toNat tdb.toNat acc.toNat k
  | .rmin g tdd tda k => encT g 3 tdd.toNat tda.toNat 0 0 k
  | .rmax g tdd tda k => encT g 4 tdd.toNat tda.toNat 0 0 k
  | .rsort g tdd tda k => encT g 5 tdd.toNat tda.toNat 0 0 k
  | .rtopk g tdd tda k1 k => encT g 6 tdd.toNat tda.toNat k1.toNat 0 k
  | .wload g tdb k => encT g 8 0 0 tdb.toNat 0 k
  | .wswap g k => encT g 9 0 0 0 0 k
  | .tepi g tdd bias fn sat tdb acc k => encT g 12 tdd.toNat (pack [(1, bit bias), (2, fn.toNat), (1, bit sat)]) tdb.toNat acc.toNat k
  | .tew g tdd tda tdb op k => encT g 13 tdd.toNat tda.toNat tdb.toNat op.toNat k
  | .tdrain g q row n1 acc k => encT g 14 q.toNat row.toNat n1.toNat acc.toNat k
  | .force g tdd mode acc => encT g 16 tdd.toNat 0 mode.toNat acc.toNat Toks.zero
  | .tstore g tdd tda bank rm sat acc k => encT g 17 tdd.toNat tda.toNat (pack [(1, bit bank), (2, rm.code), (1, bit sat)]) acc.toNat k
  | .tdrop g all kin0 => encT g 18 0 0 (bit all) 0 ⟨kin0, 0, 0, 0⟩
  | .tdld g tdd base off => pack [(7, g.toNat), (7, 20), (5, tdd.toNat), (6, base.toNat), (7, off.toNat)]
  | .acz g acc => encT g 21 0 0 0 acc.toNat Toks.zero
  | .scribe g => encT g 24 0 0 0 0 Toks.zero
  | .ldB m => encP 1 m
  | .ldBu m => encP 2 m
  | .ldH m => encP 3 m
  | .ldHu m => encP 4 m
  | .ldW m => encP 5 m
  | .ldWu m => encP 6 m
  | .ldD m => encP 7 m
  | .vld m => encP 8 m
  | .vldb m => encP 9 m
  | .pld m => encP 20 m
  | .vgath m => encG 10 m
  | .ldlW m => encL 12 m
  | .ldlD m => encL 13 m
  | .ldacqW m => encS 16 m
  | .ldacqD m => encS 17 m
  | .stB m => encP 1 m
  | .stH m => encP 2 m
  | .stW m => encP 3 m
  | .stD m => encP 4 m
  | .vst m => encP 8 m
  | .stq m => encP 36 m
  | .pst m => encP 40 m
  | .vscat m => encG 10 m
  | .stuW m => encL 12 m
  | .stuD m => encL 13 m
  | .strelW m => encS 16 m
  | .strelD m => encS 17 m
  | .aaddW m => encS 24 m
  | .aaddD m => encS 25 m
  | .aminW m => encS 26 m
  | .aminD m => encS 27 m
  | .amaxW m => encS 28 m
  | .amaxD m => encS 29 m
  | .axchW m => encS 30 m
  | .axchD m => encS 31 m
  | .acasW m => encS 32 m
  | .acasD m => encS 33 m
  | .cpy c => encC 1 c
  | .cpyil c => encC 2 c
  | .cgath c => encC 3 c
  | .tmv c => encC 4 c
  | .ccoll c => encC 5 c
  | .cflush c => encC 6 c
  | .cpq c => encC 7 c
  | .cpre c => encC 8 c
  | .wait g wl ws wc wt => pack [(7, g.toNat), (7, 1), (4, wl.toNat), (4, ws.toNat), (4, wc.toNat), (4, wt.toNat)]
  | .waitk g k => pack [(7, g.toNat), (7, 2), (4, k.toNat)]
  | .waitdc g n d => pack [(7, g.toNat), (7, 3), (9, n.toNat), (6, d.toNat)]
  | .drain g scope => pack [(7, g.toNat), (7, 4), (3, scope.code)]
  | .bara g b => pack [(7, g.toNat), (7, 8), (5, b.toNat)]
  | .barw g b => pack [(7, g.toNat), (7, 9), (5, b.toNat)]
  | .bart g b p => pack [(7, g.toNat), (7, 10), (5, b.toNat), (6, p.toNat)]
  | .snap g d => encX 16 g d 0 0
  | .gview g d a => encX 17 g d a 0
  | .spawn g d a b => encX 20 g d a b
  | .grow g d a => encX 21 g d a 0
  | .timer g d a b => encX 42 g d a b
  | .suspend g => encX 22 g 0 0 0
  | .exit g => encX 23 g 0 0 0
  | .yield g => encX 24 g 0 0 0
  | .eret g => encX 40 g 0 0 0
  | .brkpt g => encX 43 g 0 0 0
  | .qacq q => encQ 32 q
  | .qcommit q => encQ 33 q
  | .qpeek q => encQ 34 q
  | .qrel q => encQ 35 q
  | .dcset g n a => pack [(7, g.toNat), (7, 41), (9, n.toNat), (6, a.toNat)]
  | _ => 0

/-! ### Decoder -/

/-- A guard field. -/
def g7 (n : Nat) : Guard := BitVec.ofNat 7 n

/-- A register or predicate field of six bits. -/
def r6 (n : Nat) : BitVec 6 := BitVec.ofNat 6 n

/-- A tile descriptor or barrier field of five bits. -/
def r5 (n : Nat) : BitVec 5 := BitVec.ofNat 5 n

/-- What the S-slot value stands for by its opcode, before its fields are judged (R56, R71). -/
def candS (n : Nat) : Option Instr :=
  match n / 2 ^ 7 % 2 ^ 7 with
  | 1 => match unpack [7, 7, 6, 6, 6] n with
    | [g, _, d, a, b] => some (.add (g7 g) (r6 d) (r6 a) (r6 b))
    | _ => none
  | 2 => match unpack [7, 7, 6, 6, 6] n with
    | [g, _, d, a, b] => some (.sub (g7 g) (r6 d) (r6 a) (r6 b))
    | _ => none
  | 3 => match unpack [7, 7, 6, 6, 6] n with
    | [g, _, d, a, b] => some (.and (g7 g) (r6 d) (r6 a) (r6 b))
    | _ => none
  | 4 => match unpack [7, 7, 6, 6, 6] n with
    | [g, _, d, a, b] => some (.or (g7 g) (r6 d) (r6 a) (r6 b))
    | _ => none
  | 5 => match unpack [7, 7, 6, 6, 6] n with
    | [g, _, d, a, b] => some (.xor (g7 g) (r6 d) (r6 a) (r6 b))
    | _ => none
  | 6 => match unpack [7, 7, 6, 6, 6] n with
    | [g, _, d, a, b] => some (.andn (g7 g) (r6 d) (r6 a) (r6 b))
    | _ => none
  | 7 => match unpack [7, 7, 6, 6, 6] n with
    | [g, _, d, a, b] => some (.shl (g7 g) (r6 d) (r6 a) (r6 b))
    | _ => none
  | 8 => match unpack [7, 7, 6, 6, 6] n with
    | [g, _, d, a, b] => some (.shr (g7 g) (r6 d) (r6 a) (r6 b))
    | _ => none
  | 9 => match unpack [7, 7, 6, 6, 6] n with
    | [g, _, d, a, b] => some (.sra (g7 g) (r6 d) (r6 a) (r6 b))
    | _ => none
  | 10 => match unpack [7, 7, 6, 6, 6] n with
    | [g, _, d, a, b] => some (.mul (g7 g) (r6 d) (r6 a) (r6 b))
    | _ => none
  | 11 => match unpack [7, 7, 6, 6, 6] n with
    | [g, _, d, a, b] => some (.mulh (g7 g) (r6 d) (r6 a) (r6 b))
    | _ => none
  | 12 => match unpack [7, 7, 6, 6, 6] n with
    | [g, _, d, a, b] => some (.mulhu (g7 g) (r6 d) (r6 a) (r6 b))
    | _ => none
  | 13 => match unpack [7, 7, 6, 6, 6] n with
    | [g, _, d, a, b] => some (.div (g7 g) (r6 d) (r6 a) (r6 b))
    | _ => none
  | 14 => match unpack [7, 7, 6, 6, 6] n with
    | [g, _, d, a, b] => some (.divu (g7 g) (r6 d) (r6 a) (r6 b))
    | _ => none
  | 15 => match unpack [7, 7, 6, 6, 6] n with
    | [g, _, d, a, b] => some (.rem (g7 g) (r6 d) (r6 a) (r6 b))
    | _ => none
  | 16 => match unpack [7, 7, 6, 6, 6] n with
    | [g, _, d, a, b] => some (.remu (g7 g) (r6 d) (r6 a) (r6 b))
    | _ => none
  | 17 => match unpack [7, 7, 6, 6, 6] n with
    | [g, _, d, a, b] => some (.min (g7 g) (r6 d) (r6 a) (r6 b))
    | _ => none
  | 18 => match unpack [7, 7, 6, 6, 6] n with
    | [g, _, d, a, b] => some (.max (g7 g) (r6 d) (r6 a) (r6 b))
    | _ => none
  | 19 => match unpack [7, 7, 6, 6, 6] n with
    | [g, _, d, a, b] => some (.minu (g7 g) (r6 d) (r6 a) (r6 b))
    | _ => none
  | 20 => match unpack [7, 7, 6, 6, 6] n with
    | [g, _, d, a, b] => some (.maxu (g7 g) (r6 d) (r6 a) (r6 b))
    | _ => none
  | 21 => match unpack [7, 7, 6, 6, 6] n with
    | [g, _, d, a, _] => some (.clz (g7 g) (r6 d) (r6 a))
    | _ => none
  | 22 => match unpack [7, 7, 6, 6, 6] n with
    | [g, _, d, a, _] => some (.ctz (g7 g) (r6 d) (r6 a))
    | _ => none
  | 23 => match unpack [7, 7, 6, 6, 6] n with
    | [g, _, d, a, _] => some (.popc (g7 g) (r6 d) (r6 a))
    | _ => none
  | 24 => match unpack [7, 7, 6, 6, 6, 7] n with
    | [g, _, d, a, _, n] => some (.sext (g7 g) (r6 d) (r6 a) (BitVec.ofNat 7 n))
    | _ => none
  | 25 => match unpack [7, 7, 6, 6, 6, 7] n with
    | [g, _, d, a, _, n] => some (.zext (g7 g) (r6 d) (r6 a) (BitVec.ofNat 7 n))
    | _ => none
  | 26 => match unpack [7, 7, 6, 6, 6] n with
    | [g, _, d, a, _] => some (.mov (g7 g) (r6 d) (r6 a))
    | _ => none
  | 27 => match unpack [7, 7, 6, 6, 6, 3, 9] n with
    | [g, _, d, a, b, sc, dp] => some (.lea (g7 g) (r6 d) (r6 a) (r6 b) (BitVec.ofNat 3 sc) (BitVec.ofNat 9 dp))
    | _ => none
  | 28 => match unpack [7, 7, 6, 6, 6, 6, 4] n with
    | [g, _, d, a, b, pe, cc] => (Cond.ofCode cc).map fun c => .cmp (g7 g) c (r6 d) (r6 pe) (r6 a) (r6 b)
    | _ => none
  | 29 => match unpack [7, 7, 6, 6, 2, 1, 3, 6, 4] n with
    | [g, _, d, a, li, pr, _, pe, cc] => (Cond.ofCode cc).map fun c => .cmpLit (g7 g) c (r6 d) (r6 pe) (r6 a) (pr == 1) (BitVec.ofNat 2 li)
    | _ => none
  | 30 => match unpack [7, 7, 6, 6, 2, 1] n with
    | [g, _, d, _, li, pr] => some (.lit (g7 g) (r6 d) (pr == 1) (BitVec.ofNat 2 li))
    | _ => none
  | 33 => match unpack [7, 7, 6, 6, 18] n with
    | [g, _, d, a, b] => some (.addImm (g7 g) (r6 d) (r6 a) (BitVec.ofNat 18 b))
    | _ => none
  | 34 => match unpack [7, 7, 6, 6, 18] n with
    | [g, _, d, a, b] => some (.subImm (g7 g) (r6 d) (r6 a) (BitVec.ofNat 18 b))
    | _ => none
  | 35 => match unpack [7, 7, 6, 6, 18] n with
    | [g, _, d, a, b] => some (.andImm (g7 g) (r6 d) (r6 a) (BitVec.ofNat 18 b))
    | _ => none
  | 36 => match unpack [7, 7, 6, 6, 18] n with
    | [g, _, d, a, b] => some (.orImm (g7 g) (r6 d) (r6 a) (BitVec.ofNat 18 b))
    | _ => none
  | 37 => match unpack [7, 7, 6, 6, 18] n with
    | [g, _, d, a, b] => some (.xorImm (g7 g) (r6 d) (r6 a) (BitVec.ofNat 18 b))
    | _ => none
  | 38 => match unpack [7, 7, 6, 6, 18] n with
    | [g, _, d, a, b] => some (.andnImm (g7 g) (r6 d) (r6 a) (BitVec.ofNat 18 b))
    | _ => none
  | 39 => match unpack [7, 7, 6, 6, 6] n with
    | [g, _, d, a, b] => some (.shlImm (g7 g) (r6 d) (r6 a) (r6 b))
    | _ => none
  | 40 => match unpack [7, 7, 6, 6, 6] n with
    | [g, _, d, a, b] => some (.shrImm (g7 g) (r6 d) (r6 a) (r6 b))
    | _ => none
  | 41 => match unpack [7, 7, 6, 6, 6] n with
    | [g, _, d, a, b] => some (.sraImm (g7 g) (r6 d) (r6 a) (r6 b))
    | _ => none
  | 42 => match unpack [7, 7, 6, 6, 18] n with
    | [g, _, d, a, b] => some (.mulImm (g7 g) (r6 d) (r6 a) (BitVec.ofNat 18 b))
    | _ => none
  | 43 => match unpack [7, 7, 6, 6, 18] n with
    | [g, _, d, a, b] => some (.mulhImm (g7 g) (r6 d) (r6 a) (BitVec.ofNat 18 b))
    | _ => none
  | 44 => match unpack [7, 7, 6, 6, 18] n with
    | [g, _, d, a, b] => some (.mulhuImm (g7 g) (r6 d) (r6 a) (BitVec.ofNat 18 b))
    | _ => none
  | 45 => match unpack [7, 7, 6, 6, 18] n with
    | [g, _, d, a, b] => some (.divImm (g7 g) (r6 d) (r6 a) (BitVec.ofNat 18 b))
    | _ => none
  | 46 => match unpack [7, 7, 6, 6, 18] n with
    | [g, _, d, a, b] => some (.divuImm (g7 g) (r6 d) (r6 a) (BitVec.ofNat 18 b))
    | _ => none
  | 47 => match unpack [7, 7, 6, 6, 18] n with
    | [g, _, d, a, b] => some (.remImm (g7 g) (r6 d) (r6 a) (BitVec.ofNat 18 b))
    | _ => none
  | 48 => match unpack [7, 7, 6, 6, 18] n with
    | [g, _, d, a, b] => some (.remuImm (g7 g) (r6 d) (r6 a) (BitVec.ofNat 18 b))
    | _ => none
  | 49 => match unpack [7, 7, 6, 6, 18] n with
    | [g, _, d, a, b] => some (.minImm (g7 g) (r6 d) (r6 a) (BitVec.ofNat 18 b))
    | _ => none
  | 50 => match unpack [7, 7, 6, 6, 18] n with
    | [g, _, d, a, b] => some (.maxImm (g7 g) (r6 d) (r6 a) (BitVec.ofNat 18 b))
    | _ => none
  | 51 => match unpack [7, 7, 6, 6, 18] n with
    | [g, _, d, a, b] => some (.minuImm (g7 g) (r6 d) (r6 a) (BitVec.ofNat 18 b))
    | _ => none
  | 52 => match unpack [7, 7, 6, 6, 18] n with
    | [g, _, d, a, b] => some (.maxuImm (g7 g) (r6 d) (r6 a) (BitVec.ofNat 18 b))
    | _ => none
  | 64 => match unpack [7, 7, 6, 6, 6] n with
    | [g, _, d, a, b] => some (.pand (g7 g) (r6 d) (r6 a) (r6 b))
    | _ => none
  | 65 => match unpack [7, 7, 6, 6, 6] n with
    | [g, _, d, a, b] => some (.por (g7 g) (r6 d) (r6 a) (r6 b))
    | _ => none
  | 66 => match unpack [7, 7, 6, 6, 6] n with
    | [g, _, d, a, b] => some (.pxor (g7 g) (r6 d) (r6 a) (r6 b))
    | _ => none
  | 67 => match unpack [7, 7, 6, 6, 6] n with
    | [g, _, d, a, b] => some (.pandn (g7 g) (r6 d) (r6 a) (r6 b))
    | _ => none
  | 68 => match unpack [7, 7, 6, 6, 6] n with
    | [g, _, d, a, _] => some (.pfroms (g7 g) (r6 d) (r6 a))
    | _ => none
  | 69 => match unpack [7, 7, 6, 6, 6] n with
    | [g, _, d, a, _] => some (.ptos (g7 g) (r6 d) (r6 a))
    | _ => none
  | 70 => match unpack [7, 7, 6, 6, 6] n with
    | [g, _, d, a, _] => some (.pcnt (g7 g) (r6 d) (r6 a))
    | _ => none
  | 71 => match unpack [7, 7, 6, 6, 6] n with
    | [g, _, d, a, _] => some (.pfirst (g7 g) (r6 d) (r6 a))
    | _ => none
  | 80 => match unpack [7, 7, 30] n with
    | [g, _, off] => some (.br (g7 g) (BitVec.ofNat 30 off))
    | _ => none
  | 81 => match unpack [7, 7, 6, 6, 6] n with
    | [g, _, _, a, _] => some (.bri (g7 g) (r6 a))
    | _ => none
  | 82 => match unpack [7, 7, 30] n with
    | [g, _, off] => some (.call (g7 g) (BitVec.ofNat 30 off))
    | _ => none
  | 83 => match unpack [7, 7, 6, 6, 6] n with
    | [g, _, d, a, _] => some (.calli (g7 g) (r6 d) (r6 a))
    | _ => none
  | 84 => match unpack [7, 7, 6, 6, 6] n with
    | [g, _, _, a, _] => some (.ret (g7 g) (r6 a))
    | _ => none
  | 85 => match unpack [7, 7, 2, 4, 6, 18] n with
    | [g, _, lv, _, a, sp] => some (.loop (g7 g) (BitVec.ofNat 2 lv) (r6 a) (BitVec.ofNat 18 sp))
    | _ => none
  | 86 => match unpack [7, 7, 2, 4, 6, 18] n with
    | [g, _, lv, _, _, _] => some (.loopx (g7 g) (BitVec.ofNat 2 lv))
    | _ => none
  | 88 => match unpack [7, 7, 6, 6, 6, 12] n with
    | [g, _, d, _, _, n] => some (.mfsr (g7 g) (r6 d) (BitVec.ofNat 12 n))
    | _ => none
  | 89 => match unpack [7, 7, 6, 6, 6, 12] n with
    | [g, _, _, a, _, n] => some (match n with
      | 0x000 => .pswWrite (g7 g) (r6 a)
      | 0x018 => .promoteWrite (g7 g) (r6 a)
      | 0x01c => .droopthWrite (g7 g) (r6 a)
      | 0x01d => .droopstWrite (g7 g) (r6 a)
      | 0x10b => .barvalWrite (g7 g) (r6 a)
      | _ => .mtsr (g7 g) (r6 a) (BitVec.ofNat 12 n))
    | _ => none
  | 90 => match unpack [7, 7, 6, 6, 6, 12] n with
    | [g, _, _, _, _, n] => some (.trap (g7 g) (BitVec.ofNat 12 n))
    | _ => none
  | 91 => match unpack [7, 7, 6, 6, 6] n with
    | [g, _, d, a, b] => some (.dhop (g7 g) (r6 d) (r6 a) (r6 b))
    | _ => none
  | _ => none

/-- A vector source from its hold code and register field (R57). -/
def vsrc (h n : Nat) : Option VSrc := (Hold.ofCode h).map fun c => ⟨c, BitVec.ofNat 10 n⟩

/-- Operand b from LB, its hold code and its field (R57). -/
def vsrcB (lb h n : Nat) : Option VSrcB := if lb = 1 then some (.lit (BitVec.ofNat 2 n)) else (vsrc h n).map .reg

/-- Forms A and F from their fields (R57). -/
def vbin (g vd va vb ha hb rm sat lb : Nat) : Option VBin :=
  match RMode.ofCode rm, vsrc ha va, vsrcB lb hb vb with
  | some r, some a, some b => some ⟨g7 g, r, sat == 1, BitVec.ofNat 10 vd, a, b⟩
  | _, _, _ => none

/-- Form U from its fields (R57). -/
def vun (g vd va ha rm sat : Nat) : Option VUn :=
  match RMode.ofCode rm, vsrc ha va with
  | some r, some a => some ⟨g7 g, r, sat == 1, BitVec.ofNat 10 vd, a⟩
  | _, _ => none

/-- Form C from its fields (R57). -/
def vcm (g vd va vb ha hb rm lb : Nat) : Option VCm :=
  match vsrc ha va, vsrcB lb hb vb with
  | some a, some b => some ⟨g7 g, r6 vd, r6 (vd / 64 % 16 + 16 * rm), a, b⟩
  | _, _ => none

/-- What the vector slot value stands for by its family, before its fields are judged (R57, R73). -/
def candV (n : Nat) : Option Instr :=
  match unpack [7, 3, 6, 10, 10, 10, 2, 2, 2, 1, 1] n with
  | [g, var, fam, vd, va, vb, ha, hb, rm, sat, lb] =>
    let bin := vbin g vd va vb ha hb rm sat lb
    match vun g vd va ha rm sat with
    | none => none
    | some un =>
    match fam with
    | 1 => (FTy.ofCode var).bind fun t => bin.map (.vadd t)
    | 2 => (FTy.ofCode var).bind fun t => bin.map (.vsub t)
    | 3 => (FTy.ofCode var).bind fun t => bin.map (.vmul t)
    | 4 => (FTy.ofCode var).bind fun t => bin.map (.vfma t)
    | 5 => (FTy.ofCode var).bind fun t => bin.map (.vfms t)
    | 6 => (FTy.ofCode var).bind fun t => bin.map (.vfnma t)
    | 7 => (FTy.ofCode var).bind fun t => bin.map (.vmin t)
    | 8 => (FTy.ofCode var).bind fun t => bin.map (.vmax t)
    | 9 => (FTy.ofCode var).map fun t => .vabs t un
    | 10 => (FTy.ofCode var).map fun t => .vneg t un
    | 11 => (FTy.ofCode var).bind fun t => bin.map (.vcpys t)
    | 12 => if var = 0 then some (.vrcp un) else none
    | 13 => if var = 0 then some (.vrsq un) else none
    | 14 => if var = 0 then some (.vsqrt un) else none
    | 15 => if var = 0 then some (.vexp2 un) else none
    | 16 => if var = 0 then some (.vlog2 un) else none
    | 17 => if var = 0 then some (.vsig un) else none
    | 18 => if var = 0 then some (.vtanh un) else none
    | 19 => (FTy.ofCode var).map fun t => .vrnd t un
    | 20 => (FTy.ofCode var).bind fun t => bin.map (.vclamp t)
    | 21 => (ITy.ofCode var).bind fun t => bin.map (.viadd t)
    | 22 => (ITy.ofCode var).bind fun t => bin.map (.visub t)
    | 23 => (ITy.ofCode var).bind fun t => bin.map (.vimul t)
    | 24 => (ITy.ofCode var).bind fun t => bin.map (.vimulh t)
    | 25 => (ITy.ofCode var).bind fun t => bin.map (.vimad t)
    | 26 => (ITy.ofCode var).bind fun t => bin.map (.vimin t)
    | 27 => (ITy.ofCode var).bind fun t => bin.map (.vimax t)
    | 28 => (ITy.ofCode var).map fun t => .viabs t un
    | 29 => if var = 7 then bin.map .vand else none
    | 30 => if var = 7 then bin.map .vor else none
    | 31 => if var = 7 then bin.map .vxor else none
    | 32 => (ITy.ofCode var).bind fun t => bin.map (.vshl t)
    | 33 => (ITy.ofCode var).bind fun t => bin.map (.vshr t)
    | 34 => (ITy.ofCode var).bind fun t => bin.map (.vsra t)
    | 35 => (FCond.ofCode var).bind fun c => (vcm g vd va vb ha hb rm lb).map (.vcmp .f32 c)
    | 36 => (FCond.ofCode var).bind fun c => (vcm g vd va vb ha hb rm lb).map (.vcmp .bf16 c)
    | 37 => (FCond.ofCode var).bind fun c => (vcm g vd va vb ha hb rm lb).map (.vcmp .f16 c)
    | 38 => (ICond.ofCode var).bind fun c => (vcm g vd va vb ha hb rm lb).map (.vicmp .i32 c)
    | 39 => (ICond.ofCode var).bind fun c => (vcm g vd va vb ha hb rm lb).map (.vicmp .i16 c)
    | 40 => (ICond.ofCode var).bind fun c => (vcm g vd va vb ha hb rm lb).map (.vicmp .i8 c)
    | 41 => if var = 7 then bin.map .vsel else none
    | 42 => if var = 7 then (CFmt.ofCode (vb % 16)).bind fun s => (CFmt.ofCode (vb / 16 % 16)).map fun d => .vcvt s d un else none
    | 43 => (BTy.ofCode var).map fun t => .vpkbx t un
    | 44 => (BTy.ofCode var).map fun t => .vupbx t un
    | 45 => (RTy.ofCode var).map fun t => .vredAdd t un
    | 46 => (RTy.ofCode var).map fun t => .vredMin t un
    | 47 => (RTy.ofCode var).map fun t => .vredMax t un
    | 48 => if var = 7 then bin.map .vperm else none
    | 49 => if var = 7 then some (.vbcast un (BitVec.ofNat 5 vb)) else none
    | 50 => if var = 7 then some (.vslide un (BitVec.ofNat 6 vb)) else none
    | 51 => if var = 7 then some (.vmovs (g7 g) (BitVec.ofNat 10 vd) (r6 va) (BitVec.ofNat 5 vb)) else none
    | 52 => if var = 7 then some (.vext (g7 g) (r6 vd) un.a (BitVec.ofNat 5 vb)) else none
    | 53 => if var = 7 then some (.vmov un) else none
    | 54 => if var = 7 then some (.vlit (g7 g) (BitVec.ofNat 10 vd) (BitVec.ofNat 2 vb)) else none
    | 55 => if var = 0 then some (.vrdacc (g7 g) (BitVec.ofNat 10 vd) (BitVec.ofNat 3 va) (BitVec.ofNat 4 (va / 8))) else none
    | 56 => if var = 0 then some (.vwracc (g7 g) (BitVec.ofNat 3 vd) (BitVec.ofNat 4 (vd / 8)) un.a) else none
    | 57 => if var = 0 then some (.vpop (g7 g) (BitVec.ofNat 10 vd) (BitVec.ofNat 3 va)) else none
    | _ => none
  | _ => none

/-- What the T slot value stands for by its opcode, before its fields are judged (R58, R76, R349). -/
def candT (n : Nat) : Option Instr :=
  match unpack [7, 7, 5, 5, 5, 3, 4, 4, 4, 4] n with
  | [g, op, d, a, b, acc, kout, kin0, kin1, kin2] =>
    let k : Toks := ⟨BitVec.ofNat 4 kin0, BitVec.ofNat 4 kin1, BitVec.ofNat 4 kin2, BitVec.ofNat 4 kout⟩
    match op with
    | 1 => some (.mma (g7 g) (d % 2 == 1) (r5 a) (r5 b) (BitVec.ofNat 3 acc) k)
    | 2 => some (.mmaz (g7 g) (d % 2 == 1) (r5 a) (r5 b) (BitVec.ofNat 3 acc) k)
    | 3 => some (.rmin (g7 g) (r5 d) (r5 a) k)
    | 4 => some (.rmax (g7 g) (r5 d) (r5 a) k)
    | 5 => some (.rsort (g7 g) (r5 d) (r5 a) k)
    | 6 => some (.rtopk (g7 g) (r5 d) (r5 a) (r5 b) k)
    | 8 => some (.wload (g7 g) (r5 b) k)
    | 9 => some (.wswap (g7 g) k)
    | 12 => some (.tepi (g7 g) (r5 d) (a % 2 == 1) (BitVec.ofNat 2 (a / 2)) (a / 8 % 2 == 1) (r5 b) (BitVec.ofNat 3 acc) k)
    | 13 => some (.tew (g7 g) (r5 d) (r5 a) (r5 b) (BitVec.ofNat 3 acc) k)
    | 14 => some (.tdrain (g7 g) (BitVec.ofNat 3 d) (BitVec.ofNat 4 a) (BitVec.ofNat 4 b) (BitVec.ofNat 3 acc) k)
    | 16 => some (.force (g7 g) (r5 d) (BitVec.ofNat 2 b) (BitVec.ofNat 3 acc))
    | 17 => (RMode.ofCode (b / 2 % 4)).map fun rm => .tstore (g7 g) (r5 d) (r5 a) (b % 2 == 1) rm (b / 8 % 2 == 1) (BitVec.ofNat 3 acc) k
    | 18 => some (.tdrop (g7 g) (b % 2 == 1) k.kin0)
    | 20 => match unpack [7, 7, 5, 6, 7] n with
      | [_, _, _, base, off] => some (.tdld (g7 g) (r5 d) (r6 base) (BitVec.ofNat 7 off))
      | _ => none
    | 21 => some (.acz (g7 g) (BitVec.ofNat 3 acc))
    | 24 => some (.scribe (g7 g))
    | _ => none
  | _ => none

/-- The plain form's operands (R59). -/
def memP (n : Nat) : Option MemP :=
  match unpack [7, 6, 10, 6, 19] n with
  | [g, _, t, b, o] => some ⟨g7 g, BitVec.ofNat 10 t, r6 b, BitVec.ofNat 19 o⟩
  | _ => none

/-- The scoped form's operands (R59). -/
def memS (n : Nat) : Option MemS :=
  match unpack [7, 6, 10, 6, 3, 16] n with
  | [g, _, t, b, s, o] => (Scope.ofCode s).map fun sc => ⟨g7 g, BitVec.ofNat 10 t, r6 b, sc, BitVec.ofNat 16 o⟩
  | _ => none

/-- The lock form's operands (R268). -/
def memL (n : Nat) : Option MemL :=
  match unpack [7, 6, 10, 6, 13, 6] n with
  | [g, _, t, b, o, p] => some ⟨g7 g, BitVec.ofNat 10 t, r6 b, BitVec.ofNat 13 o, r6 p⟩
  | _ => none

/-- The gather form's operands (R262). -/
def memG (n : Nat) : Option MemG :=
  match unpack [7, 6, 10, 6, 10, 3] n with
  | [g, _, t, b, v, s] => some ⟨g7 g, BitVec.ofNat 10 t, r6 b, BitVec.ofNat 10 v, BitVec.ofNat 3 s⟩
  | _ => none

/-- What the L slot value stands for by its opcode, before its fields are judged (R59, R77). -/
def candL (n : Nat) : Option Instr :=
  match n / 2 ^ 7 % 2 ^ 6 with
  | 1 => (memP n).map .ldB
  | 2 => (memP n).map .ldBu
  | 3 => (memP n).map .ldH
  | 4 => (memP n).map .ldHu
  | 5 => (memP n).map .ldW
  | 6 => (memP n).map .ldWu
  | 7 => (memP n).map .ldD
  | 8 => (memP n).map .vld
  | 9 => (memP n).map .vldb
  | 10 => (memG n).map .vgath
  | 12 => (memL n).map .ldlW
  | 13 => (memL n).map .ldlD
  | 16 => (memS n).map .ldacqW
  | 17 => (memS n).map .ldacqD
  | 20 => (memP n).map .pld
  | _ => none

/-- What the ST slot value stands for by its opcode, before its fields are judged (R59, R78). -/
def candST (n : Nat) : Option Instr :=
  match n / 2 ^ 7 % 2 ^ 6 with
  | 1 => (memP n).map .stB
  | 2 => (memP n).map .stH
  | 3 => (memP n).map .stW
  | 4 => (memP n).map .stD
  | 8 => (memP n).map .vst
  | 10 => (memG n).map .vscat
  | 12 => (memL n).map .stuW
  | 13 => (memL n).map .stuD
  | 16 => (memS n).map .strelW
  | 17 => (memS n).map .strelD
  | 24 => (memS n).map .aaddW
  | 25 => (memS n).map .aaddD
  | 26 => (memS n).map .aminW
  | 27 => (memS n).map .aminD
  | 28 => (memS n).map .amaxW
  | 29 => (memS n).map .amaxD
  | 30 => (memS n).map .axchW
  | 31 => (memS n).map .axchD
  | 32 => (memS n).map .acasW
  | 33 => (memS n).map .acasD
  | 36 => (memP n).map .stq
  | 40 => (memP n).map .pst
  | _ => none

/-- What the C slot value stands for by its opcode, before its fields are judged (R60, R79). -/
def candC (n : Nat) : Option Instr :=
  match unpack [7, 5, 6, 4, 4, 4, 4, 6] n with
  | [g, op, a, ko, k0, k1, k2, fl] =>
    let c : CopyF := ⟨g7 g, r6 a, ⟨BitVec.ofNat 4 k0, BitVec.ofNat 4 k1, BitVec.ofNat 4 k2, BitVec.ofNat 4 ko⟩, BitVec.ofNat 6 fl⟩
    match op with
    | 1 => some (.cpy c)
    | 2 => some (.cpyil c)
    | 3 => some (.cgath c)
    | 4 => some (.tmv c)
    | 5 => some (.ccoll c)
    | 6 => some (.cflush c)
    | 7 => some (.cpq c)
    | 8 => some (.cpre c)
    | _ => none
  | _ => none

/-- What the Y slot value stands for by its opcode, before its fields are judged (R61, R80). -/
def candY (n : Nat) : Option Instr :=
  match n / 2 ^ 7 % 2 ^ 7 with
  | 1 => match unpack [7, 7, 4, 4, 4, 4] n with
    | [g, _, x, y, z, u] => some (.wait (g7 g) (BitVec.ofNat 4 x) (BitVec.ofNat 4 y) (BitVec.ofNat 4 z) (BitVec.ofNat 4 u))
    | _ => none
  | 2 => match unpack [7, 7, 4, 4, 4, 4] n with
    | [g, _, x, _, _, _] => some (.waitk (g7 g) (BitVec.ofNat 4 x))
    | _ => none
  | 3 => match unpack [7, 7, 9, 6] n with
    | [g, _, x, y] => some (.waitdc (g7 g) (BitVec.ofNat 9 x) (r6 y))
    | _ => none
  | 4 => match unpack [7, 7, 3] n with
    | [g, _, s] => (Scope.ofCode s).map fun sc => .drain (g7 g) sc
    | _ => none
  | 8 => match unpack [7, 7, 5, 6] n with
    | [g, _, x, _] => some (.bara (g7 g) (r5 x))
    | _ => none
  | 9 => match unpack [7, 7, 5, 6] n with
    | [g, _, x, _] => some (.barw (g7 g) (r5 x))
    | _ => none
  | 10 => match unpack [7, 7, 5, 6] n with
    | [g, _, x, y] => some (.bart (g7 g) (r5 x) (r6 y))
    | _ => none
  | 16 => match unpack [7, 7, 6, 6, 6] n with
    | [g, _, x, _, _] => some (.snap (g7 g) (r6 x))
    | _ => none
  | 17 => match unpack [7, 7, 6, 6, 6] n with
    | [g, _, x, y, _] => some (.gview (g7 g) (r6 x) (r6 y))
    | _ => none
  | 20 => match unpack [7, 7, 6, 6, 6] n with
    | [g, _, x, y, z] => some (.spawn (g7 g) (r6 x) (r6 y) (r6 z))
    | _ => none
  | 21 => match unpack [7, 7, 6, 6, 6] n with
    | [g, _, x, y, _] => some (.grow (g7 g) (r6 x) (r6 y))
    | _ => none
  | 22 => match unpack [7, 7, 6, 6, 6] n with
    | [g, _, _, _, _] => some (.suspend (g7 g))
    | _ => none
  | 23 => match unpack [7, 7, 6, 6, 6] n with
    | [g, _, _, _, _] => some (.exit (g7 g))
    | _ => none
  | 24 => match unpack [7, 7, 6, 6, 6] n with
    | [g, _, _, _, _] => some (.yield (g7 g))
    | _ => none
  | 32 => match unpack [7, 7, 6, 6, 6] n with
    | [g, _, x, y, z] => some (.qacq ⟨g7 g, r6 x, r6 y, r6 z⟩)
    | _ => none
  | 33 => match unpack [7, 7, 6, 6, 6] n with
    | [g, _, x, y, z] => some (.qcommit ⟨g7 g, r6 x, r6 y, r6 z⟩)
    | _ => none
  | 34 => match unpack [7, 7, 6, 6, 6] n with
    | [g, _, x, y, z] => some (.qpeek ⟨g7 g, r6 x, r6 y, r6 z⟩)
    | _ => none
  | 35 => match unpack [7, 7, 6, 6, 6] n with
    | [g, _, x, y, z] => some (.qrel ⟨g7 g, r6 x, r6 y, r6 z⟩)
    | _ => none
  | 40 => match unpack [7, 7, 6, 6, 6] n with
    | [g, _, _, _, _] => some (.eret (g7 g))
    | _ => none
  | 41 => match unpack [7, 7, 9, 6] n with
    | [g, _, x, y] => some (.dcset (g7 g) (BitVec.ofNat 9 x) (r6 y))
    | _ => none
  | 42 => match unpack [7, 7, 6, 6, 6] n with
    | [g, _, x, y, z] => some (.timer (g7 g) (r6 x) (r6 y) (r6 z))
    | _ => none
  | 43 => match unpack [7, 7, 6, 6, 6] n with
    | [g, _, _, _, _] => some (.brkpt (g7 g))
    | _ => none
  | _ => none

/-- What a slot's value stands for by its opcode. -/
def candidate (k : SlotKind) (n : Nat) : Option Instr :=
  match k with
  | .s => candS n
  | .v => candV n
  | .t => candT n
  | .l => candL n
  | .st => candST n
  | .c => candC n
  | .y => candY n

/-- The opcode field of a slot's value (R56 to R61). -/
def opcodeOf (k : SlotKind) (n : Nat) : Nat :=
  match k with
  | .s | .t | .y => n / 2 ^ 7 % 2 ^ 7
  | .v => n / 2 ^ 7 % 2 ^ 9
  | .l | .st => n / 2 ^ 7 % 2 ^ 6
  | .c => n / 2 ^ 7 % 2 ^ 5

/-- The decoder of one slot (R54): all zero is NOP; an opcode must be listed, its fields legal, and every bit that its form does
not use zero, which is what comparing with the encoding of the instruction found says. -/
def decode (k : SlotKind) (n : Nat) : Except DecodeError Instr :=
  if n = 0 then .ok .nop
  else if opcodeOf k n = 0 then .error .opcodeZero
  else match candidate k n with
    | none => .error .unassigned
    | some i => if i.wf = false then .error .field else if encode i = n then .ok i else .error .reserved

/-- The slot whose words spec/opcode_table.json gives `nbits` bits: 32 the Y slot, 40 the C slot, 44 the S slot, 48 the T slot,
56 a vector slot (R50). -/
def slotOfBits (nbits : Nat) : SlotKind :=
  if nbits ≤ 32 then .y else if nbits ≤ 40 then .c else if nbits ≤ 44 then .s else if nbits ≤ 48 then .t else .v

/-- The instruction the decoder reads from a slot whose bits are `w`, numbered from bit 0 of the slot (R50). -/
def decodeTableWord (nbits w : Nat) : Option Instr :=
  match decode (slotOfBits nbits) w with
  | .ok i => some i
  | .error _ => none

end Sys2Proof
end

