-- ==== Sys2Proof/Machine/Fetch.lean ====
section
/-!
DEFINITION. Fetch blocks and packed bundles as code memory holds them, their expansion into the loop buffer, and the issue of a bundle
(02_execution R42 to R46, 03_bundles R50, R51, R63, R69, R70; 19_events R393).
-/
namespace Sys2Proof.Machine

/-- A space that code may be fetched from (02 R42). -/
def codeSpace (a : Nat) : Bool := spaceOf a == 1 || spaceOf a == 3

/-- The `n` bytes at an address are ones that code may be fetched from (02 R42). -/
def codeOk (mapped : Bool) (a : BitVec 32) (n : Nat) : Bool := a.toNat % 4 == 0 && codeSpace a.toNat && inRange mapped a.toNat n

/-- Stored bytes of each slot of a packed bundle (03 R70). -/
def slotBytes : List Nat := [6, 7, 7, 6, 6, 6, 5, 4]

/-- Bits of each slot of an expanded bundle (03 R50). -/
def slotBits : List Nat := [44, 56, 56, 48, 48, 48, 40, 32]

def pfxNlit (p : Nat) : Nat := bits p 20 3
def pfxPres (p : Nat) (i : Nat) : Bool := p.testBit (12 + i)

/-- Bytes of the slots a prefix announces. -/
def presBytes (p : Nat) : List Nat → Nat → Nat
  | [], _ => 0
  | w :: r, i => (if pfxPres p i then w else 0) + presBytes p r (i + 1)

/-- Length of a packed bundle, sized from PRES and NLIT as stored (03 R70). -/
def packedLen (p : Nat) : Nat := (4 + presBytes p slotBytes 0 + 4 * pfxNlit p + 3) / 4 * 4

/-- The slots of a packed bundle from byte address `a` on, as stored; an absent one is zero (03 R70). -/
def storedSlots (m : Memory) (p : Nat) : List Nat → Nat → Nat → List Nat
  | [], _, _ => []
  | w :: r, i, a => if pfxPres p i then m.nat a w :: storedSlots m p r (i + 1) (a + w) else 0 :: storedSlots m p r (i + 1) a

/-- The packed bundle at physical address `a`, expanded (03 R70). Literals that are not stored read as zero; beyond four they are
discarded. -/
def expandBundle (m : Memory) (a : Nat) (addr : BitVec 32) (back bidx : Nat) : XBundle :=
  let p := m.nat a 4
  let ws := storedSlots m p slotBytes 0 (a + 4)
  let nl := Nat.min (pfxNlit p) 4
  { addr := addr, back := back, bidx := bidx, pfx := BitVec.ofNat 32 p
    words := ws.zipWith (fun w n => BitVec.ofNat 56 (w % 2 ^ n)) slotBits
    lits := BitVec.ofNat 128 (m.nat (a + 4 + presBytes p slotBytes 0) (4 * nl))
    pad := BitVec.ofNat 4 (ws.headD 0 / 2 ^ 44) }

/-- `n` packed bundles in a row, and the 4-byte units they take (03 R69, R70). -/
def expandBundles (m : Memory) : (n : Nat) → (a : Nat) → (addr : BitVec 32) → (back bidx : Nat) → List XBundle × Nat
  | 0, _, _, _, _ => ([], 0)
  | n + 1, a, addr, back, bidx =>
    let u := packedLen (m.nat a 4) / 4
    let r := expandBundles m n (a + 4 * u) (addr + BitVec.ofNat 32 (4 * u)) (back + u) (bidx + 1)
    (expandBundle m a addr back bidx :: r.1, u + r.2)

/-- The block whose header is at `head`, expanded (02 R44, 03 R69). A defect is kept: it faults if a bundle of the block is to issue. -/
def expandBlock (m : Memory) (mapped : Bool) (k : Nat) (head : BitVec 32) : Block :=
  let bad := fun code => { head := head, next := 0, endt := false, bundles := [], defect := some (code, head.setWidth 64), first := 0, ready := 0 : Block }
  if !codeOk mapped head 16 then bad cADDR
  else
    let a := scratchPhys mapped k head.toNat
    let h := m.nat a 16
    let count := bits h 48 8
    let blen := bits h 64 16
    let next := bits h 0 48
    if bits h 57 7 ≠ 0 ∨ bits h 80 48 ≠ 0 ∨ count = 0 ∨ 64 < count ∨ blen = 0 ∨ 1088 < blen then bad cILL
    else
      let bs := expandBundles m count (a + 16) (head + 16) 4 0
      if bs.2 ≠ blen then bad cILL
      else if next ≠ 0 ∧ (bits next 32 16 ≠ 0 ∨ !codeSpace next) then bad cADDR
      else
        { head := head, next := if next = 0 then head + 16 + BitVec.ofNat 32 (4 * blen) else BitVec.ofNat 32 next
          endt := h.testBit 56, bundles := bs.1, defect := none, first := 0, ready := 0 }

/-- The block that holds the bundle of a resume point. Where no packed bundle of the block begins at its address, the engine decodes what
lies there (02 R43). -/
def expandAt (m : Memory) (mapped : Bool) (k : Nat) (pc : Word) : Block :=
  if !codeOk mapped (rpAddr pc) 4 then
    { head := rpAddr pc, next := 0, endt := false, bundles := [], defect := some (cADDR, (rpAddr pc).setWidth 64), first := 0, ready := 0 }
  else
    let b := expandBlock m mapped k (rpAddr pc - BitVec.ofNat 32 (4 * rpBack pc))
    if b.defect.isSome ∨ b.bundles.any (fun (x : XBundle) => decide (x.addr = rpAddr pc)) then b
    else
      let n := b.bundles.length - rpBidx pc
      { b with bundles := (expandBundles m (if n = 0 then 1 else n) (scratchPhys mapped k (rpAddr pc).toNat) (rpAddr pc)
          (rpBack pc) (rpBidx pc)).1 }

/-- Cycles from a fetch redirect to the first issue (02 R45). -/
def fetchCycles (a : BitVec 32) : Nat := if spaceOf a.toNat = 3 then 30 else 14

/-- A block delivered into the half that does not hold the bundle in progress, which becomes the half in use (02 R44, R45). -/
def Ctx.fill (c : Ctx) (b : Block) (at_ : Option Nat) : Ctx :=
  { c with halves := if c.curHalf then (some b, c.halves.2) else (c.halves.1, some b), curHalf := !c.curHalf, halfAt := at_ }

/-- A place of the loop buffer: the half in use, the other half. -/
inductive Site where
  | here | other
deriving DecidableEq, Repr

/-- The block of a place. -/
def Ctx.site (c : Ctx) : Site → Option Block
  | .here => c.half c.curHalf
  | .other => c.half (!c.curHalf)

/-- Where the next bundle is: in a resident block, or not yet delivered. -/
inductive Located where
  | absent
  | defect (ready : Nat) (code : BitVec 8) (faddr epc : Word)
  | at_ (site : Site) (b : Block) (x : XBundle)

/-- The next bundle is not yet delivered. -/
def Located.isAbsent : Located → Bool
  | .absent => true
  | _ => false

/-- Where a defective block raises its fault: at its first bundle (03 R69); where the bundle or the header lies where no code may be fetched, at the bundle that the
fetch was to supply, the target (02 R42). -/
def Ctx.defectAt (c : Ctx) (b : Block) : Word :=
  if codeOk c.mapped (rpAddr c.pc) 4 && codeOk c.mapped b.head 16 then mkRp (b.head + 16) 0 4 0 else c.pc

/-- A place holds the bundle of the resume point, or the defective block it would come from. -/
def Ctx.locateIn (c : Ctx) (site : Site) : Option Located :=
  match c.site site with
  | none => none
  | some b =>
    match b.defect with
    | some d => if b.head = rpAddr c.pc - BitVec.ofNat 32 (4 * rpBack c.pc) ∨ b.head = rpAddr c.pc then some (.defect b.ready d.1 d.2 (c.defectAt b)) else none
    | none => (b.bundles.find? fun (x : XBundle) => decide (x.addr = rpAddr c.pc)).map (.at_ site b)

/-- The next bundle of a context (02 R44). -/
def Ctx.locate (c : Ctx) : Located :=
  if c.refetch then .absent
  else ([Site.here, Site.other].findSome? c.locateIn).getD .absent

/-- The cycle in which a bundle of a block is expanded: two a cycle from the first on (02 R44, R45). When the bundles before the target of a redirect are expanded the spec
does not say: the model's choice is two a cycle as well, backwards from the target (DESIGN CHOICE, log entry 111). -/
def Block.readyAt (b : Block) (x : XBundle) : Nat := b.ready + (if x.bidx ≤ b.first then b.first - x.bidx else x.bidx - b.first) / 2

/-- Issue from a place: the other half becomes the half in use when execution passes into it (02 R44). -/
def Ctx.enter (c : Ctx) (site : Site) (cycle : Nat) : Ctx :=
  match site with
  | .here => { c with halfAt := some (c.halfAt.getD cycle) }
  | .other => { c with curHalf := !c.curHalf, halfAt := some cycle }

/-- The resume point after bundle `x` of block `b`, and whether passing there ends the task body (02 R33, R44; 03 R69). -/
def Block.after (b : Block) (x : XBundle) : Word × Bool :=
  match b.bundles.find? fun (y : XBundle) => decide (y.bidx = x.bidx + 1) with
  | some y => (mkRp y.addr 0 y.back y.bidx, false)
  | none => (mkRp (b.next + 16) 0 4 0, b.endt)

/-- What a segment that opens here keeps for a rewind (19 R393, R394). -/
def State.openSeg (s : State) (k : Nat) : Seg :=
  let c := s.ctx k
  { point := rpAt c.pc 0, bundles := 0, stores := 0, rewound := false, performed := false, toks := c.toks, lcnt := c.lcnt, lbody := c.lbody, loopRp := c.loopRp,
    popped := [], counts := (c.ldc, c.stc, c.cpc, c.tlc) }

/-- Instructions that act outside the held operations of a segment: their bundle is the last of its segment (04 R94, 19 R393). -/
def endsSegment : Instr → Bool
  | .ldlW _ | .ldlD _ | .qacq _ | .qcommit _ | .qpeek _ | .qrel _ | .snap .. | .gview .. | .spawn .. | .grow .. | .dcset .. | .timer ..
  | .suspend .. | .yield .. | .exit .. => true
  | _ => false

/-- The bundle holds such an instruction. -/
def XBundle.endsSeg (x : XBundle) : Bool :=
  (match decode .l (x.words.getD 4 0).toNat with | .ok i => endsSegment i | .error _ => false) ||
    (match decode .y (x.words.getD 7 0).toNat with | .ok i => endsSegment i | .error _ => false)

/-- A bundle issues (03 R63): it enters the context as the bundle in progress; a bundle with SEG, or one that opens a segment as if it carried SEG, opens a
schedule segment and clears the latches (03 R57, 04 R94, 19 R393). -/
def State.issue (s : State) (k : Nat) (site : Site) (b : Block) (x : XBundle) : State :=
  let c := (s.ctx k).enter site (s.cyc k)
  let after := b.after x
  let asSeg := (x.segBit && rpSlot c.pc == 0) || c.reopen
  let opens := asSeg && !c.reenters
  let c1 := if asSeg then c.clearLatches else c
  let seg := if opens then some (s.openSeg k) else c.seg
  let s1 := s.putCtx k { c1 with
    quick := false, boundary := c.inHandler && c.boundary, reopen := false, bundleSeq := c.bundleSeq + 1
    endRp := if c.inHandler then c.endRp else none
    seg := seg.map fun (g : Seg) => { g with bundles := g.bundles + 1 }
    run := some { xb := x, slot := rpSlot c.pc, seq := c.bundleSeq + 1, sys0 := c.sys, promote0 := (s.core (coreOf k)).promote.toNat,
                  xfer := none, fall := after.1, fallEnd := after.2, olds := [], noBack := false, brk := false,
                  segEnd := seg.isSome && x.endsSeg, issued := s.cyc k, ldl := none, toks0 := c.toks } }
  let count := fun (co : Core) => { co with bundles := co.bundles + 1, issuedAt := some (s.cyc k) }
  let s2 := s1.modCore (coreOf k) count
  if c.prot then s2.modCore (coreOf k + 1) count else s2

/-- The engine of a slot, coded as in R43, decodes one form. -/
def kindOfSlot (n : Nat) : SlotKind :=
  match n with
  | 0 => .s
  | 1 => .v
  | 2 => .v
  | 3 => .t
  | 4 => .l
  | 5 => .st
  | 6 => .c
  | _ => .y

/-- The encoding of slot `n` of a bundle. -/
def XBundle.word (x : XBundle) (n : Nat) : Nat := (x.words.getD n 0).toNat

/-- The instruction of slot `n` of a bundle. -/
def XBundle.instr (x : XBundle) (n : Nat) : Except DecodeError Instr := decode (kindOfSlot n) (x.word n)

/-- The header, prefix or padding defect that faults at slot S before any slot commits (03 R51, R70; 19 R386). -/
def XBundle.defect (x : XBundle) : Option Trap :=
  let p := x.pfx.toNat
  if bits p 23 9 ≠ 0 ∨ 4 < pfxNlit p ∨ bits p 8 4 ≠ 0 ∨ p.testBit 3 then some (precise cILL p)
  else if x.pad ≠ 0 then some (precise cILL (x.word 0 + x.pad.toNat * 2 ^ 44)) else none

/-- ADDR for a packed bundle that runs past the end of its memory (02 R42, 08 R166). -/
def XBundle.pastEnd (x : XBundle) (mapped : Bool) : Option Trap :=
  if codeOk mapped x.addr (packedLen x.pfx.toNat) then none else some (precise cADDR x.addr.toNat)

end Sys2Proof.Machine
end

