-- ==== Sys2Proof/Machine/SysRegs.lean ====
section
/-!
DEFINITION. The system registers and the counter windows: what an MFSR returns and what an MTSR writes (05_registers R105 to R111,
18_counters R368, 08_scalar R175, R176).
-/
namespace Sys2Proof.Machine

/-- The access kinds (05 R105). -/
inductive Access where
  | r | w | h
deriving DecidableEq, Repr

/-- The access kind of a listed register (05 R105, 18 R368). -/
def accessOf (n : Nat) : Access :=
  if n = 0x000 ∨ n = 0x018 ∨ n = 0x01d ∨ (0x030 ≤ n ∧ n ≤ 0x037) ∨ n = 0x108 ∨ n = 0x10a ∨ n = 0x10b then .w
  else if (0x001 ≤ n ∧ n ≤ 0x006) ∨ n = 0x01c then .h
  else .r

/-- A 64-bit word from fields: lowest bit and value. -/
def fields (l : List (Nat × Nat)) : Word := BitVec.ofNat 64 (l.foldl (fun a f => a + f.2 * 2 ^ f.1) 0)

/-- OPCNT (18 R368). -/
def Ctx.opcnt (c : Ctx) : Word := fields [(0, c.ldc), (8, c.stc), (16, c.cpc), (24, c.tlc)]

/-- The state field of a token in TOKST (18 R368). -/
def TokState.code : TokState → Nat
  | .none => 0
  | .pending => 1
  | .produced => 2

/-- TOKST (18 R368). -/
def Ctx.tokst (c : Ctx) : Word :=
  fields ((List.range 16).map fun n => (4 * n, TokState.code (c.tok n).st + 4 * ofBool (c.tok n).err))

/-- BARVAL of a word (18 R368). -/
def Barrier.view (b : Barrier) : Word :=
  fields [(0, b.target.toNat), (16, b.count.toNat), (28, ofBool b.phase), (29, ofBool b.err), (30, ofBool b.perr)]

/-- DCVAL of a counter (18 R368). -/
def DepCtr.view (d : DepCtr) : Word := fields [(0, d.count.toNat), (16, ofBool d.err), (17, ofBool !d.links.isEmpty)]

/-- TIMERS (18 R368). -/
def Cluster.timersView (cl : Cluster) : Word := fields (cl.timers.map fun t => (t.1 % 64, 1))

/-- STR and HALF of DROOPST (05 R109, 20 R415). -/
def Cluster.str (cl : Cluster) : Bool := match cl.droop with | .stretch _ => true | _ => false
def Cluster.halved (cl : Cluster) : Bool := match cl.droop with | .half _ => true | _ => false

/-- A listed system register as an MFSR of context `k` reads it (05 R105 to R112, 18 R368). TIME is one count for the package: two dies read the same value at one
instant, where 01 R21 allows a difference of 2 (DESIGN CHOICE, log entry 85). -/
def State.sysRead (s : State) (k : Nat) (n : Nat) : Word :=
  let c := s.ctx k
  let co := s.core (coreOf k)
  let cl := s.cluster (clusterOf k)
  let die := s.die (socketOf k)
  if n = 0x000 then c.sys.psw.setWidth 64
  else if n = 0x001 then c.sys.epc
  else if n = 0x002 then c.sys.etgt
  else if n = 0x003 then c.sys.evec
  else if n = 0x004 then c.sys.fstat
  else if n = 0x005 then c.sys.faddr
  else if n = 0x006 then c.sys.fnode
  else if n = 0x007 then (s.ctxid k).setWidth 64
  else if n = 0x008 then c.sys.gvsel.setWidth 64
  else if n = 0x010 then BitVec.ofNat 64 cl.cycle
  else if n = 0x011 then BitVec.ofNat 64 s.time
  else if n = 0x018 then co.promote.setWidth 64
  else if n = 0x019 then co.kgain.setWidth 64
  else if n = 0x01a then co.kcal
  else if n = 0x01c then (match cl.oldFor 0x01c k with | some e => e.droopth | none => cl.droopth).setWidth 64
  else if n = 0x01d then
    fields [(0, ofBool cl.str), (1, ofBool cl.halved), (2, ofBool (match cl.oldFor 0x01d k with | some e => e.sticky | none => cl.sticky))]
  else if n = 0x020 then s.gencur.setWidth 64
  else if 0x030 ≤ n ∧ n ≤ 0x033 then (lookD c.lcnt (n - 0x030) 0).setWidth 64
  else if 0x034 ≤ n ∧ n ≤ 0x037 then lookD c.lbody (n - 0x034) 0
  else if 0x040 ≤ n ∧ n ≤ 0x07f then (lookD co.ktrim (n - 0x040) 64).setWidth 64
  else if n = 0x100 then c.opcnt
  else if n = 0x101 then c.tokst
  else if n = 0x108 then c.sys.dcsel
  else if n = 0x109 then (lookD cl.dcs (bits c.sys.dcsel.toNat 0 9) DepCtr.reset).view
  else if n = 0x10a then c.sys.barsel
  else if n = 0x10b then
    let b := bits c.sys.barsel.toNat 0 5
    (lookD (match cl.oldFor (0x1000 + b) k with | some e => e.bars | none => cl.bars) b Barrier.reset).view
  else if n = 0x10c then c.barst
  else if n = 0x10d then cl.timersView
  else if 0x120 ≤ n ∧ n ≤ 0x128 then lookD cl.traffic (n - 0x120) 0
  else if n = 0x130 then co.bundles
  else if n = 0x131 then co.switches
  else if n = 0x132 then co.slackst
  else if n = 0x133 then co.latest
  else if n = 0x138 then cl.droopev
  else if n = 0x139 then cl.strcyc
  else if n = 0x13a then cl.halfcyc
  else if n = 0x140 then c.impld
  else if n = 0x141 then c.ovff
  else if n = 0x142 then c.latef
  else if n = 0x143 then co.caldr
  else if n = 0x144 then co.trimf
  else if n = 0x150 then s.presv
  else if n = 0x151 then s.drnb
  else if n = 0x152 then s.genstall
  else if n = 0x153 then s.genfulls
  else if n = 0x160 then die.audits
  else if n = 0x161 then die.leaks
  else if n = 0x162 then die.leakfl
  else if n = 0x163 then die.repeats
  else if n = 0x164 then die.feccor
  else if n = 0x170 then die.ageosc
  else if n = 0x171 then die.eol
  else 0

/-- Bits of a resume point register that can be written: [63:52] are reserved (00 R6, 02 R43). -/
def rpMask : Word := 0x000fffffffffffff

/-- Bits of LBODYn that can be written (05 R111). -/
def lbMask : Word := 0x8003ffffffffffff

/-- An MTSR of a register that has no row of its own (05 R105 to R111, 18 R368). R registers never come here. A fault attached in the same cycle
keeps its value in FSTAT (05 R112). -/
def State.sysWrite (s : State) (k : Nat) (n : Nat) (v : Word) : State :=
  s.modCtx k fun c =>
    if n = 0x001 then { c with sys := { c.sys with epc := v &&& rpMask } }
    else if n = 0x002 then { c with sys := { c.sys with etgt := v &&& rpMask } }
    else if n = 0x003 then { c with sys := { c.sys with evec := v &&& rpMask } }
    else if n = 0x004 then (if c.attachAt = some (s.cyc k) then c else { c with sys := { c.sys with fstat := v &&& fstatMask } })
    else if n = 0x005 then { c with sys := { c.sys with faddr := v } }
    else if n = 0x006 then { c with sys := { c.sys with fnode := v &&& rpMask } }
    else if 0x030 ≤ n ∧ n ≤ 0x033 then { c with lcnt := put c.lcnt (n - 0x030) (v.setWidth 32) }
    else if 0x034 ≤ n ∧ n ≤ 0x037 then { c with lbody := put c.lbody (n - 0x034) (v &&& lbMask) }
    else if n = 0x108 then { c with sys := { c.sys with dcsel := v &&& 0x1ff } }
    else if n = 0x10a then { c with sys := { c.sys with barsel := v &&& 0x1f } }
    else c

/-- PRIV of an MTSR, raised whatever the guard (03 R53, 05 R105). -/
def State.mtsrPriv (s : State) (k n : Nat) : Bool :=
  match accessOf n with
  | .r => true
  | .h => !(s.ctx k).inHandler
  | .w => n == 0x018 && !(s.ctx k).kown

/-- A field clamped to a range (05 R108, R109). -/
def clamp (lo hi v : Nat) : Nat := if v < lo then lo else if hi < v then hi else v

/-- DROOPTH written (05 R109), in the order of cores (05 R112). -/
def Cluster.setDroopth (cl : Cluster) (k : Nat) (v : Word) : Cluster :=
  { cl.record 0x01c k with droopth := if cl.outranked 0x01c k then cl.droopth else BitVec.ofNat 7 (clamp 10 100 (bits v.toNat 0 7)) }

/-- STICKY cleared by a 1 in bit 2 (05 R109), unless an alarm has set it in this cycle (05 R112). -/
def Cluster.clearSticky (cl : Cluster) (k : Nat) (v : Word) : Cluster :=
  if v.getLsbD 2 && !cl.alarms.contains cl.cycle then { cl.record 0x01d k with sticky := false } else cl

end Sys2Proof.Machine
end

