-- ==== Sys2Proof/Machine/Scalar.lean ====
section
/-!
DEFINITION. The S slot: scalar arithmetic, compares, predicates, transfers, loops and system registers (08_scalar R155 to R178).
-/
namespace Sys2Proof.Machine

/-- What a meaning answers. -/
abbrev Res := Host.Outcome State Fault Refusal

/-- A slot whose bits are all zero commits without effect (03 R54). -/
def execNop (s : State) : Res := .next (s.slot fun _ => .done s)

/-! ### Arithmetic and logic (R157) -/

/-- Signed quotient, truncated; by zero all ones (06 R124). -/
def divS (x y : Word) : Word := if y = 0 then BitVec.allOnes 64 else x.sdiv y

/-- Unsigned quotient; by zero all ones (06 R124). -/
def divU (x y : Word) : Word := if y = 0 then BitVec.allOnes 64 else x / y

/-- A scalar result under the guard (R155). -/
def scalarRes (g : Guard) (d : BitVec 6) (f : Nat → Word) (s : State) : Res :=
  .next (s.guarded g fun k => .done (s.putS k d (f k)))

/-- A predicate result under the guard, all 32 bits alike unless `f` says otherwise (R155, R163). -/
def predRes (g : Guard) (pd : BitVec 6) (f : Nat → BitVec 32) (s : State) : Res :=
  .next (s.guarded g fun k => .done (s.putP k pd (f k)))

/-- A binary operation in form R. -/
def binaryR (g : Guard) (d a b : BitVec 6) (f : Word → Word → Word) (s : State) : Res :=
  scalarRes g d (fun k => f (s.readS k a) (s.readS k b)) s

/-- A binary operation in form I. -/
def binaryI (g : Guard) (d a : BitVec 6) (y : Word) (f : Word → Word → Word) (s : State) : Res :=
  scalarRes g d (fun k => f (s.readS k a) y) s

/-- ADD (R157). -/
def execAdd (g : Guard) (d a b : BitVec 6) (s : State) : Res :=
  binaryR g d a b (fun x y => x + y) s

/-- ADD in form I (R156, R157). -/
def execAddImm (g : Guard) (d a : BitVec 6) (imm : BitVec 18) (s : State) : Res :=
  binaryI g d a (imm.signExtend 64) (fun x y => x + y) s

/-- SUB (R157). -/
def execSub (g : Guard) (d a b : BitVec 6) (s : State) : Res :=
  binaryR g d a b (fun x y => x - y) s

/-- SUB in form I (R156, R157). -/
def execSubImm (g : Guard) (d a : BitVec 6) (imm : BitVec 18) (s : State) : Res :=
  binaryI g d a (imm.signExtend 64) (fun x y => x - y) s

/-- AND (R157). -/
def execAnd (g : Guard) (d a b : BitVec 6) (s : State) : Res :=
  binaryR g d a b (fun x y => x &&& y) s

/-- AND in form I (R156, R157). -/
def execAndImm (g : Guard) (d a : BitVec 6) (imm : BitVec 18) (s : State) : Res :=
  binaryI g d a (imm.signExtend 64) (fun x y => x &&& y) s

/-- OR (R157). -/
def execOr (g : Guard) (d a b : BitVec 6) (s : State) : Res :=
  binaryR g d a b (fun x y => x ||| y) s

/-- OR in form I (R156, R157). -/
def execOrImm (g : Guard) (d a : BitVec 6) (imm : BitVec 18) (s : State) : Res :=
  binaryI g d a (imm.signExtend 64) (fun x y => x ||| y) s

/-- XOR (R157). -/
def execXor (g : Guard) (d a b : BitVec 6) (s : State) : Res :=
  binaryR g d a b (fun x y => x ^^^ y) s

/-- XOR in form I (R156, R157). -/
def execXorImm (g : Guard) (d a : BitVec 6) (imm : BitVec 18) (s : State) : Res :=
  binaryI g d a (imm.signExtend 64) (fun x y => x ^^^ y) s

/-- ANDN (R157). -/
def execAndn (g : Guard) (d a b : BitVec 6) (s : State) : Res :=
  binaryR g d a b (fun x y => x &&& ~~~y) s

/-- ANDN in form I (R156, R157). -/
def execAndnImm (g : Guard) (d a : BitVec 6) (imm : BitVec 18) (s : State) : Res :=
  binaryI g d a (imm.signExtend 64) (fun x y => x &&& ~~~y) s

/-- SHL (R157). -/
def execShl (g : Guard) (d a b : BitVec 6) (s : State) : Res :=
  binaryR g d a b (fun x y => x <<< (y.toNat % 64)) s

/-- SHL in form I (R157). -/
def execShlImm (g : Guard) (d a n : BitVec 6) (s : State) : Res :=
  binaryI g d a (n.setWidth 64) (fun x y => x <<< (y.toNat % 64)) s

/-- SHR (R157). -/
def execShr (g : Guard) (d a b : BitVec 6) (s : State) : Res :=
  binaryR g d a b (fun x y => x >>> (y.toNat % 64)) s

/-- SHR in form I (R157). -/
def execShrImm (g : Guard) (d a n : BitVec 6) (s : State) : Res :=
  binaryI g d a (n.setWidth 64) (fun x y => x >>> (y.toNat % 64)) s

/-- SRA (R157). -/
def execSra (g : Guard) (d a b : BitVec 6) (s : State) : Res :=
  binaryR g d a b (fun x y => x.sshiftRight (y.toNat % 64)) s

/-- SRA in form I (R157). -/
def execSraImm (g : Guard) (d a n : BitVec 6) (s : State) : Res :=
  binaryI g d a (n.setWidth 64) (fun x y => x.sshiftRight (y.toNat % 64)) s

/-- MUL (R157). -/
def execMul (g : Guard) (d a b : BitVec 6) (s : State) : Res :=
  binaryR g d a b (fun x y => x * y) s

/-- MUL in form I (R156, R157). -/
def execMulImm (g : Guard) (d a : BitVec 6) (imm : BitVec 18) (s : State) : Res :=
  binaryI g d a (imm.signExtend 64) (fun x y => x * y) s

/-- MULH (R157). -/
def execMulh (g : Guard) (d a b : BitVec 6) (s : State) : Res :=
  binaryR g d a b (fun x y => ((x.signExtend 128) * (y.signExtend 128)).extractLsb' 64 64) s

/-- MULH in form I (R156, R157). -/
def execMulhImm (g : Guard) (d a : BitVec 6) (imm : BitVec 18) (s : State) : Res :=
  binaryI g d a (imm.signExtend 64) (fun x y => ((x.signExtend 128) * (y.signExtend 128)).extractLsb' 64 64) s

/-- MULHU (R157). -/
def execMulhu (g : Guard) (d a b : BitVec 6) (s : State) : Res :=
  binaryR g d a b (fun x y => ((x.setWidth 128) * (y.setWidth 128)).extractLsb' 64 64) s

/-- MULHU in form I (R156, R157). -/
def execMulhuImm (g : Guard) (d a : BitVec 6) (imm : BitVec 18) (s : State) : Res :=
  binaryI g d a (imm.signExtend 64) (fun x y => ((x.setWidth 128) * (y.setWidth 128)).extractLsb' 64 64) s

/-- DIV (R157). -/
def execDiv (g : Guard) (d a b : BitVec 6) (s : State) : Res :=
  binaryR g d a b (fun x y => divS x y) s

/-- DIV in form I (R156, R157). -/
def execDivImm (g : Guard) (d a : BitVec 6) (imm : BitVec 18) (s : State) : Res :=
  binaryI g d a (imm.signExtend 64) (fun x y => divS x y) s

/-- DIVU (R157). -/
def execDivu (g : Guard) (d a b : BitVec 6) (s : State) : Res :=
  binaryR g d a b (fun x y => divU x y) s

/-- DIVU in form I (R156, R157). -/
def execDivuImm (g : Guard) (d a : BitVec 6) (imm : BitVec 18) (s : State) : Res :=
  binaryI g d a (imm.signExtend 64) (fun x y => divU x y) s

/-- REM (R157). -/
def execRem (g : Guard) (d a b : BitVec 6) (s : State) : Res :=
  binaryR g d a b (fun x y => x.srem y) s

/-- REM in form I (R156, R157). -/
def execRemImm (g : Guard) (d a : BitVec 6) (imm : BitVec 18) (s : State) : Res :=
  binaryI g d a (imm.signExtend 64) (fun x y => x.srem y) s

/-- REMU (R157). -/
def execRemu (g : Guard) (d a b : BitVec 6) (s : State) : Res :=
  binaryR g d a b (fun x y => x % y) s

/-- REMU in form I (R156, R157). -/
def execRemuImm (g : Guard) (d a : BitVec 6) (imm : BitVec 18) (s : State) : Res :=
  binaryI g d a (imm.signExtend 64) (fun x y => x % y) s

/-- MIN (R157). -/
def execMin (g : Guard) (d a b : BitVec 6) (s : State) : Res :=
  binaryR g d a b (fun x y => if y.slt x then y else x) s

/-- MIN in form I (R156, R157). -/
def execMinImm (g : Guard) (d a : BitVec 6) (imm : BitVec 18) (s : State) : Res :=
  binaryI g d a (imm.signExtend 64) (fun x y => if y.slt x then y else x) s

/-- MAX (R157). -/
def execMax (g : Guard) (d a b : BitVec 6) (s : State) : Res :=
  binaryR g d a b (fun x y => if x.slt y then y else x) s

/-- MAX in form I (R156, R157). -/
def execMaxImm (g : Guard) (d a : BitVec 6) (imm : BitVec 18) (s : State) : Res :=
  binaryI g d a (imm.signExtend 64) (fun x y => if x.slt y then y else x) s

/-- MINU (R157). -/
def execMinu (g : Guard) (d a b : BitVec 6) (s : State) : Res :=
  binaryR g d a b (fun x y => if y.ult x then y else x) s

/-- MINU in form I (R156, R157). -/
def execMinuImm (g : Guard) (d a : BitVec 6) (imm : BitVec 18) (s : State) : Res :=
  binaryI g d a (imm.signExtend 64) (fun x y => if y.ult x then y else x) s

/-- MAXU (R157). -/
def execMaxu (g : Guard) (d a b : BitVec 6) (s : State) : Res :=
  binaryR g d a b (fun x y => if x.ult y then y else x) s

/-- MAXU in form I (R156, R157). -/
def execMaxuImm (g : Guard) (d a : BitVec 6) (imm : BitVec 18) (s : State) : Res :=
  binaryI g d a (imm.signExtend 64) (fun x y => if x.ult y then y else x) s

/-! ### Unary operations, extensions, addresses, literals (R158 to R161) -/

/-- The number of leading zero bits. -/
def clz64 (x : Word) : Nat := if x = 0 then 64 else 63 - Nat.log2 x.toNat

/-- The number of bits of `w` below the lowest one bit; `w` if there is none. -/
def ctzOf (w : Nat) (x : Nat) : Nat := ((List.range w).find? fun i => x.testBit i).getD w

/-- CLZ (R158). -/
def execClz (g : Guard) (d a : BitVec 6) (s : State) : Res := scalarRes g d (fun k => BitVec.ofNat 64 (clz64 (s.readS k a))) s

/-- CTZ (R158). -/
def execCtz (g : Guard) (d a : BitVec 6) (s : State) : Res :=
  scalarRes g d (fun k => BitVec.ofNat 64 (ctzOf 64 (s.readS k a).toNat)) s

/-- POPC (R158). -/
def execPopc (g : Guard) (d a : BitVec 6) (s : State) : Res :=
  scalarRes g d (fun k => BitVec.ofNat 64 (countOnes 64 (s.readS k a).toNat)) s

/-- MOV (R158). -/
def execMov (g : Guard) (d a : BitVec 6) (s : State) : Res := scalarRes g d (fun k => s.readS k a) s

/-- SEXT (R159). -/
def execSext (g : Guard) (d a : BitVec 6) (n : BitVec 7) (s : State) : Res :=
  scalarRes g d (fun k => ((s.readS k a).setWidth n.toNat).signExtend 64) s

/-- ZEXT (R159). -/
def execZext (g : Guard) (d a : BitVec 6) (n : BitVec 7) (s : State) : Res :=
  scalarRes g d (fun k => ((s.readS k a).setWidth n.toNat).setWidth 64) s

/-- LEA (R160). -/
def execLea (g : Guard) (d a b : BitVec 6) (scale : BitVec 3) (disp : BitVec 9) (s : State) : Res :=
  scalarRes g d (fun k => s.readS k a + (s.readS k b <<< scale.toNat) + disp.signExtend 64) s

/-- LIT (R161). -/
def execLit (g : Guard) (d : BitVec 6) (pair : Bool) (i : BitVec 2) (s : State) : Res := scalarRes g d (fun k => s.litWord k pair i) s

/-! ### Compares and predicates (R162, R163) -/

/-- A compare writes the condition into pd and then its complement into pe (R162). -/
def compareRes (g : Guard) (pd pe : BitVec 6) (f : Nat → Bool) (s : State) : Res :=
  .next (s.guarded g fun k => .done ((s.putP k pd (rep32 (f k))).putP k pe (rep32 (!f k))))

/-- CMP.cc, form C (R162). -/
def execCmp (g : Guard) (cc : Cond) (pd pe a b : BitVec 6) (s : State) : Res :=
  compareRes g pd pe (fun k => condHolds cc (s.readS k a) (s.readS k b)) s

/-- CMP.cc, form CK (R162). -/
def execCmpLit (g : Guard) (cc : Cond) (pd pe a : BitVec 6) (pair : Bool) (i : BitVec 2) (s : State) : Res :=
  compareRes g pd pe (fun k => condHolds cc (s.readS k a) (s.litWord k pair i)) s

/-- A predicate combination of bit 0 of two predicates (R163). -/
def predRes2 (g : Guard) (pd pa pb : BitVec 6) (f : Bool → Bool → Bool) (s : State) : Res :=
  predRes g pd (fun k => rep32 (f ((s.readP k pa).getLsbD 0) ((s.readP k pb).getLsbD 0))) s

/-- PAND (R163). -/
def execPand (g : Guard) (pd pa pb : BitVec 6) (s : State) : Res := predRes2 g pd pa pb (fun x y => x && y) s

/-- POR (R163). -/
def execPor (g : Guard) (pd pa pb : BitVec 6) (s : State) : Res := predRes2 g pd pa pb (fun x y => x || y) s

/-- PXOR (R163). -/
def execPxor (g : Guard) (pd pa pb : BitVec 6) (s : State) : Res := predRes2 g pd pa pb (fun x y => x != y) s

/-- PANDN (R163). -/
def execPandn (g : Guard) (pd pa pb : BitVec 6) (s : State) : Res := predRes2 g pd pa pb (fun x y => x && !y) s

/-- PFROMS (R163). -/
def execPfroms (g : Guard) (pd a : BitVec 6) (s : State) : Res := predRes g pd (fun k => rep32 (s.readS k a != 0)) s

/-- PTOS (R163). -/
def execPtos (g : Guard) (d pa : BitVec 6) (s : State) : Res := scalarRes g d (fun k => (s.readP k pa).setWidth 64) s

/-- PCNT (R163). -/
def execPcnt (g : Guard) (d pa : BitVec 6) (s : State) : Res :=
  scalarRes g d (fun k => BitVec.ofNat 64 (countOnes 32 (s.readP k pa).toNat)) s

/-- PFIRST (R163). -/
def execPfirst (g : Guard) (d pa : BitVec 6) (s : State) : Res :=
  scalarRes g d (fun k => BitVec.ofNat 64 (ctzOf 32 (s.readP k pa).toNat)) s

/-! ### Transfers (R164 to R168) -/

/-- The address of the bundle in progress. -/
def Ctx.bundleAddr (c : Ctx) : BitVec 32 := match c.run with | some r => r.xb.addr | none => 0

/-- The fall-through resume point of the bundle in progress (R165). -/
def Ctx.fallThrough (c : Ctx) : Word := match c.run with | some r => r.fall | none => 0

/-- A transfer that takes effect at the end of the bundle; its bundle runs no back-edge test (R164, R172; 03 R67). -/
def State.transfer (s : State) (k : Nat) (target : Word) : State :=
  s.modCtx k fun c => { c with run := c.run.map fun r => { r with xfer := some target, noBack := true } }

/-- The target of BR and CALL (R164). -/
def Ctx.branchTarget (c : Ctx) (off : BitVec 30) : Word := c.resolve (c.bundleAddr + (off.signExtend 32 <<< 2))

/-- An indirect target: SLOTRES and bits [63:52] are ignored (R166). -/
def indirect (w : Word) : Word := rpAt (w &&& rpMask) 0

/-- BR (R164). -/
def execBr (g : Guard) (off : BitVec 30) (s : State) : Res :=
  .next (s.guarded g fun k => .done (s.transfer k ((s.ctx k).branchTarget off)))

/-- The link onto the return stack of eight entries, which loses its oldest (R167). -/
def State.pushLink (s : State) (k : Nat) (w : Word) : State := s.modCtx k fun c => { c with retStack := (w :: c.retStack).take 8 }

/-- The return stack popped: a RET to what it held is redirected sooner (R167). -/
def State.popLink (s : State) (k : Nat) (target : Word) : State :=
  s.modCtx k fun c => { c with retStack := c.retStack.tail, quick := c.retStack.head? == some target }

/-- BRI (R164, R166). -/
def execBri (g : Guard) (a : BitVec 6) (s : State) : Res :=
  .next (s.guarded g fun k => .done (s.transfer k (indirect (s.readS k a))))

/-- CALL: the link goes to s63 (R164, R165). -/
def execCall (g : Guard) (off : BitVec 30) (s : State) : Res :=
  .next (s.guarded g fun k => .done (((s.putS k 63 (s.ctx k).fallThrough).pushLink k (s.ctx k).fallThrough).transfer k ((s.ctx k).branchTarget off)))

/-- CALLI: the target is read before the link is written (R165). -/
def execCalli (g : Guard) (d a : BitVec 6) (s : State) : Res :=
  .next (s.guarded g fun k => .done (((s.putS k d (s.ctx k).fallThrough).pushLink k (s.ctx k).fallThrough).transfer k (indirect (s.readS k a))))

/-- RET (R164, R166). The return stack changes timing only (R167). -/
def execRet (g : Guard) (a : BitVec 6) (s : State) : Res :=
  .next (s.guarded g fun k =>
    let t := indirect (s.readS k a)
    .done ((s.popLink k t).transfer k t))

/-! ### Loops (R170 to R173) -/

/-- The fall-through resume point of the bundle at `e`, sought from the block at `head` on along its successors. -/
def State.afterFrom (s : State) (k : Nat) (e : BitVec 32) : Nat → BitVec 32 → Option Word
  | 0, _ => none
  | n + 1, head =>
    let b := expandBlock s.mem (s.ctx k).mapped k head
    match b.bundles.find? fun (x : XBundle) => decide (x.addr = e) with
    | some x => some (b.after x).1
    | none => if b.defect.isSome then none else s.afterFrom k e n b.next

/-- The fall-through resume point of the bundle at `e` (R170, R173): in a resident block, in a block that follows the one of the body's start, whose resume point `start`
is, or in one that follows the current block; in the last resort the engine takes the bytes after it as a block's first bundle (02 R43). A span of 1 MiB holds fewer
than 65,536 blocks. -/
def State.afterBundle (s : State) (k : Nat) (start : Word) (e : BitVec 32) : Word :=
  let c := s.ctx k
  match c.resident e with
  | some bx => (bx.1.after bx.2).1
  | none =>
    match s.afterFrom k e 65536 (rpAddr start - BitVec.ofNat 32 (4 * rpBack start)) with
    | some w => w
    | none =>
      match (match c.half c.curHalf with | some b => s.afterFrom k e 65536 b.next | none => none) with
      | some w => w
      | none => mkRp (e + BitVec.ofNat 32 (packedLen (s.mem.nat (scratchPhys c.mapped k e.toNat) 4))) 0 4 0

/-- The resume point of the body of a level: the one its LOOP has found, or, where its register has another start by now, a block's first bundle (02 R43). -/
def Ctx.bodyRp (c : Ctx) (lvl : Nat) : Word :=
  let a := lbAddr (lookD c.lbody lvl 0)
  let rp := lookD c.loopRp lvl 0
  if rpAddr rp = a then rp else mkRp a 0 4 0

/-- LOOP (R170). No back-edge test runs in its bundle (R172). -/
def execLoop (g : Guard) (lvl : BitVec 2) (a : BitVec 6) (span : BitVec 18) (s : State) : Res :=
  .next (s.guarded g fun k =>
    let c := s.ctx k
    let start := rpAddr c.fallThrough
    let count := (s.readS k a).setWidth 32
    if count = 0 then .done (s.transfer k (s.afterBundle k c.fallThrough (start + BitVec.ofNat 32 (4 * span.toNat))))
    else .done (s.modCtx k fun c => { c with
      lcnt := put c.lcnt lvl.toNat count
      lbody := put c.lbody lvl.toNat (mkLb start span.toNat true)
      loopRp := put c.loopRp lvl.toNat c.fallThrough
      run := c.run.map fun r => { r with noBack := true } }))

/-- LOOPX: ends the level and every higher active level, and leaves the body (R173). -/
def execLoopx (g : Guard) (lvl : BitVec 2) (s : State) : Res :=
  .next (s.guarded g fun k =>
    let b := lookD (s.ctx k).lbody lvl.toNat 0
    if lbAct b then
      let s1 := s.modCtx k fun c => { c with lbody := c.lbody.map fun e => if lvl.toNat ≤ e.1 then (e.1, setBits e.2 63 1 0) else e }
      .done (s1.transfer k (s.afterBundle k ((s.ctx k).bodyRp lvl.toNat) (lbEnd b)))
    else .done s)

/-! ### System registers (R175, R176) -/

/-- MFSR (R175). -/
def execMfsr (g : Guard) (d : BitVec 6) (n : BitVec 12) (s : State) : Res := scalarRes g d (fun k => s.sysRead k n.toNat) s

/-- An MTSR: PRIV whatever the guard, else the write under the guard (R175, 03 R53). -/
def mtsrRes (g : Guard) (a : BitVec 6) (n : BitVec 12) (enc : Nat) (f : Nat → Word → State) (s : State) : Res :=
  .next (s.slot fun k =>
    if s.mtsrPriv k n.toNat then .fault (precise cPRIV enc)
    else if s.guard k g then .done (f k (s.readS k a)) else .done s)

/-- MTSR to a register without a row of its own (R175). -/
def execMtsr (g : Guard) (a : BitVec 6) (n : BitVec 12) (s : State) : Res :=
  mtsrRes g a n (encode (.mtsr g a n)) (fun k v => s.sysWrite k n.toNat v) s

/-- MTSR to PSW (05 R106). -/
def execPswWrite (g : Guard) (a : BitVec 6) (s : State) : Res :=
  mtsrRes g a 0x000 (encode (.pswWrite g a)) (fun k v => s.modCtx k fun c => { c with sys := { c.sys with psw := pswMtsr c.sys.psw v } }) s

/-- MTSR to PROMOTE: clamped to 1 to 64; PRIV without the Kerf (05 R105, R108). -/
def execPromoteWrite (g : Guard) (a : BitVec 6) (s : State) : Res :=
  mtsrRes g a 0x018 (encode (.promoteWrite g a))
    (fun k v => s.modCore (coreOf k) fun c => { c with promote := BitVec.ofNat 7 (clamp 1 64 (bits v.toNat 0 7)) }) s

/-- MTSR to DROOPTH: clamped to 10 to 100; handler mode only (05 R105, R109). -/
def execDroopthWrite (g : Guard) (a : BitVec 6) (s : State) : Res :=
  mtsrRes g a 0x01c (encode (.droopthWrite g a)) (fun k v => s.modCluster (clusterOf k) fun cl => cl.setDroopth k v) s

/-- MTSR to DROOPST: a 1 in bit 2 clears STICKY (05 R109). -/
def execDroopstWrite (g : Guard) (a : BitVec 6) (s : State) : Res :=
  mtsrRes g a 0x01d (encode (.droopstWrite g a)) (fun k v => s.modCluster (clusterOf k) fun cl => cl.clearSticky k v) s

/-- MTSR to BARVAL: the word that BARSEL names, after the arrivals of the cycle in which the slot commits (08 R176, 18 R380). -/
def execBarvalWrite (g : Guard) (a : BitVec 6) (s : State) : Res :=
  mtsrRes g a 0x10b (encode (.barvalWrite g a)) (fun k v =>
    s.modCluster (clusterOf k) fun cl => cl.barWrite k (bits (s.ctx k).sys.barsel.toNat 0 5) v) s

/-! ### TRAP and DHOP (R177, R178) -/

/-- TRAP: the slot commits, then the trap is taken with SLOTRES 1 (R177). -/
def execTrap (g : Guard) (code : BitVec 12) (s : State) : Res :=
  let k := s.cur
  .next (if s.guard k g then (s.finishSlot k).raise k (precise cTRAP code.toNat) 1 else s.finishSlot k)

/-- The hop distance of two virtual dies through the region's die binding table (R178, 15 R313). -/
def State.dhop (s : State) (k : Nat) (x y : Word) : Word :=
  if 15 < x.toNat ∨ 15 < y.toNat then BitVec.allOnes 64
  else match (s.rcb k).dbt[x.toNat]?, (s.rcb k).dbt[y.toNat]? with
    | some p, some q => if p.kind = .absent ∨ q.kind = .absent then BitVec.allOnes 64 else BitVec.ofNat 64 (hops p.socket q.socket)
    | _, _ => BitVec.allOnes 64

/-- DHOP (R178). -/
def execDhop (g : Guard) (d a b : BitVec 6) (s : State) : Res := scalarRes g d (fun k => s.dhop k (s.readS k a) (s.readS k b)) s

end Sys2Proof.Machine
end

