-- ==== Sys2Proof/Machine/Vector.lean ====
section
/-!
DEFINITION. The VA and VB slots (09_vector R179 to R199).
-/
namespace Sys2Proof.Machine

/-! ### Elements (R117, R179) -/

/-- Element `j` of width `w` of a lane. -/
def elem (w : Nat) (x : BitVec 32) (j : Nat) : Nat := bits x.toNat (w * j) w

/-- A lane from its elements of width `w`. -/
def packElems (w : Nat) (f : Nat → Nat) : BitVec 32 :=
  BitVec.ofNat 32 ((List.range (32 / w)).foldl (fun a j => a + f j % 2 ^ w * 2 ^ (w * j)) 0)

/-- An elementwise operation on three sources. -/
def mapElems (w : Nat) (f : Nat → Nat → Nat → Nat) (a b c : Vec) : Vec :=
  ofLanes fun i => packElems w fun j => f (elem w (lane a i) j) (elem w (lane b i) j) (elem w (lane c i) j)

def fmtOf : FTy → Fmt
  | .f32 => fp32
  | .bf16 => bf16
  | .f16 => fp16

def fWidth (t : FTy) : Nat := (fmtOf t).width

def iWidth : ITy → Nat
  | .i32 => 32
  | .i16 => 16
  | .i8 => 8

/-- An element as a signed integer. -/
def sgn (w x : Nat) : Int := (BitVec.ofNat w x).toInt

/-- An integer modulo `2^w`. -/
def wrapInt (w : Nat) (i : Int) : Nat := (i % 2 ^ w).toNat

/-! ### VectorSlot (R180) -/

/-- A vector slot: the window check, the latches, and with some lane of the guard set the results of `f`, after latency `lat`. -/
def vectorSlot (g : Guard) (regs : List Nat) (latch : State → Nat → State) (lat interval : Nat) (mask : BitVec 32 → BitVec 32)
    (f : Nat → BitVec 32 → List (Dest × Vec)) (s : State) : Res :=
  .next (s.slot fun k =>
    match (s.ctx k).window regs with
    | some t => .fault t
    | none =>
      let m := s.mask k g
      if m = 0 then .done (latch s k)
      else s.withRoom k (s.ctx k).slotNow (.done ((latch s k).vresults k (f k m) (mask m) lat interval)))

/-- Forms A and F under the guard. -/
def vecBin (o : VBin) (lat : Nat) (f : Vec → Vec → Vec → Vec) (s : State) : Res :=
  vectorSlot o.g (o.vd.toNat :: VSrc.regs o.a ++ VSrcB.regs o.b) (fun s k => (s.hold k o.a 0).holdB k o.b) lat 1 id
    (fun k _ => [(.vreg o.vd.toNat, f (s.vsrc k o.a 0) (s.vsrcB k o.b) (s.readV k o.vd.toNat))]) s

/-- Form U under the guard. -/
def vecUn (o : VUn) (lat interval : Nat) (f : Vec → Vec) (s : State) : Res :=
  vectorSlot o.g (o.vd.toNat :: VSrc.regs o.a) (fun s k => s.hold k o.a 0) lat interval id
    (fun k _ => [(.vreg o.vd.toNat, f (s.vsrc k o.a 0))]) s

/-- A floating-point operation of form A or F. -/
def floatBin (t : FTy) (o : VBin) (lat : Nat) (f : Fmt → Nat → Nat → Nat → Nat) (s : State) : Res :=
  vecBin o lat (mapElems (fWidth t) (f (fmtOf t))) s

/-- An integer operation of form A or F. -/
def intBin (t : ITy) (o : VBin) (lat : Nat) (f : Nat → Nat → Nat → Nat → Nat) (s : State) : Res :=
  vecBin o lat (mapElems (iWidth t) (f (iWidth t))) s

/-- A unary operation on each element. -/
def elemUn (w : Nat) (o : VUn) (lat interval : Nat) (f : Nat → Nat) (s : State) : Res :=
  vecUn o lat interval (fun a => mapElems w (fun x _ _ => f x) a a a) s

/-- A compare: pd takes the condition and pe its complement in the lanes of the guard, 0 elsewhere (R188). -/
def vecCmp (o : VCm) (w : Nat) (f : Nat → Nat → Bool) (s : State) : Res :=
  vectorSlot o.g (VSrc.regs o.a ++ VSrcB.regs o.b) (fun s k => (s.hold k o.a 0).holdB k o.b) 2 1 (fun _ => BitVec.allOnes 32)
    (fun k m =>
      let a := s.vsrc k o.a 0
      let b := s.vsrcB k o.b
      let c : BitVec 32 := (List.range 32).foldl (fun r i =>
        if (List.range (32 / w)).all (fun j => f (elem w (lane a i) j) (elem w (lane b i) j)) then r ||| (1 <<< i) else r) 0
      (if o.pd = 0 then [] else [(.preg o.pd.toNat, (c &&& m).setWidth 1024)])
        ++ (if o.pe = 0 then [] else [(.preg o.pe.toNat, (~~~ c &&& m).setWidth 1024)])) s

/-! ### Floating-point arithmetic (R183 to R185) -/

/-- VADD (R183). -/
def execVadd (t : FTy) (o : VBin) (s : State) : Res :=
  floatBin t o 4 (fun f a b _ => f.add o.rm o.sat a b) s

/-- VSUB (R183). -/
def execVsub (t : FTy) (o : VBin) (s : State) : Res :=
  floatBin t o 4 (fun f a b _ => f.sub o.rm o.sat a b) s

/-- VMUL (R183). -/
def execVmul (t : FTy) (o : VBin) (s : State) : Res :=
  floatBin t o 4 (fun f a b _ => f.mul o.rm o.sat a b) s

/-- VFMA (R183). -/
def execVfma (t : FTy) (o : VBin) (s : State) : Res :=
  floatBin t o 4 (fun f a b c => f.fma o.rm o.sat a b c) s

/-- VFMS (R183). -/
def execVfms (t : FTy) (o : VBin) (s : State) : Res :=
  floatBin t o 4 (fun f a b c => f.fms o.rm o.sat a b c) s

/-- VFNMA (R183). -/
def execVfnma (t : FTy) (o : VBin) (s : State) : Res :=
  floatBin t o 4 (fun f a b c => f.fnma o.rm o.sat a b c) s

/-- VMIN (R184). -/
def execVmin (t : FTy) (o : VBin) (s : State) : Res :=
  floatBin t o 2 (fun f a b _ => f.min a b) s

/-- VMAX (R184). -/
def execVmax (t : FTy) (o : VBin) (s : State) : Res :=
  floatBin t o 2 (fun f a b _ => f.max a b) s

/-- VABS (R184). -/
def execVabs (t : FTy) (o : VUn) (s : State) : Res :=
  elemUn (fWidth t) o 2 1 (fmtOf t).abs s

/-- VNEG (R184). -/
def execVneg (t : FTy) (o : VUn) (s : State) : Res :=
  elemUn (fWidth t) o 2 1 (fmtOf t).negate s

/-- VCPYS (R184). -/
def execVcpys (t : FTy) (o : VBin) (s : State) : Res :=
  floatBin t o 2 (fun f a b _ => f.copySign a b) s

/-- VCLAMP: Min(Max(c, a), b) (R184). -/
def execVclamp (t : FTy) (o : VBin) (s : State) : Res :=
  floatBin t o 2 (fun f a b c => f.clamp c a b) s

/-- VRND (R185). -/
def execVrnd (t : FTy) (o : VUn) (s : State) : Res :=
  elemUn (fWidth t) o 4 1 ((fmtOf t).rnd o.rm) s

/-- VSQRT (R185). -/
def execVsqrt (o : VUn) (s : State) : Res :=
  elemUn 32 o 12 4 (sqrt32 o.rm) s

/-- VRCP (R185, 06 R133). -/
def execVrcp (o : VUn) (s : State) : Res :=
  elemUn 32 o 16 4 rcp32 s

/-- VRSQ (R185, 06 R133). -/
def execVrsq (o : VUn) (s : State) : Res :=
  elemUn 32 o 16 4 rsq32 s

/-- VEXP2 (R185, 06 R133). -/
def execVexp2 (o : VUn) (s : State) : Res :=
  elemUn 32 o 16 4 exp232 s

/-- VLOG2 (R185, 06 R133). -/
def execVlog2 (o : VUn) (s : State) : Res :=
  elemUn 32 o 16 4 log232 s

/-- VSIG (R185, 06 R133). -/
def execVsig (o : VUn) (s : State) : Res :=
  elemUn 32 o 24 8 sig32 s

/-- VTANH (R185, 06 R133). -/
def execVtanh (o : VUn) (s : State) : Res :=
  elemUn 32 o 24 8 tanh32 s

/-! ### Integer and bitwise arithmetic (R186, R187) -/

/-- VIADD (R186). -/
def execViadd (t : ITy) (o : VBin) (s : State) : Res :=
  intBin t o 2 (fun _ a b _ => a + b) s

/-- VISUB (R186). -/
def execVisub (t : ITy) (o : VBin) (s : State) : Res :=
  intBin t o 2 (fun w a b _ => a + 2 ^ w - b) s

/-- VIMUL (R186). -/
def execVimul (t : ITy) (o : VBin) (s : State) : Res :=
  intBin t o 4 (fun _ a b _ => a * b) s

/-- VIMULH (R186). -/
def execVimulh (t : ITy) (o : VBin) (s : State) : Res :=
  intBin t o 4 (fun w a b _ => wrapInt w (sgn w a * sgn w b / 2 ^ w)) s

/-- VIMAD (R186). -/
def execVimad (t : ITy) (o : VBin) (s : State) : Res :=
  intBin t o 4 (fun _ a b c => a * b + c) s

/-- VIMIN (R186). -/
def execVimin (t : ITy) (o : VBin) (s : State) : Res :=
  intBin t o 2 (fun w a b _ => if sgn w b < sgn w a then b else a) s

/-- VIMAX (R186). -/
def execVimax (t : ITy) (o : VBin) (s : State) : Res :=
  intBin t o 2 (fun w a b _ => if sgn w a < sgn w b then b else a) s

/-- VIABS (R186). -/
def execViabs (t : ITy) (o : VUn) (s : State) : Res :=
  elemUn (iWidth t) o 2 1 (fun a => if sgn (iWidth t) a < 0 then 2 ^ (iWidth t) - a else a) s

/-- VSHL (R186). -/
def execVshl (t : ITy) (o : VBin) (s : State) : Res :=
  intBin t o 2 (fun w a b _ => a * 2 ^ (b % w)) s

/-- VSHR (R186). -/
def execVshr (t : ITy) (o : VBin) (s : State) : Res :=
  intBin t o 2 (fun w a b _ => a / 2 ^ (b % w)) s

/-- VSRA (R186). -/
def execVsra (t : ITy) (o : VBin) (s : State) : Res :=
  intBin t o 2 (fun w a b _ => wrapInt w (sgn w a / 2 ^ (b % w))) s

/-- VAND (R187). -/
def execVand (o : VBin) (s : State) : Res :=
  vecBin o 2 (fun a b _ => a &&& b) s

/-- VOR (R187). -/
def execVor (o : VBin) (s : State) : Res :=
  vecBin o 2 (fun a b _ => a ||| b) s

/-- VXOR (R187). -/
def execVxor (o : VBin) (s : State) : Res :=
  vecBin o 2 (fun a b _ => a ^^^ b) s

/-! ### Compares and select (R188, R189) -/

/-- VCMP.cc (R188). -/
def execVcmp (t : FTy) (cc : FCond) (o : VCm) (s : State) : Res :=
  vecCmp o (fWidth t) ((fmtOf t).cond cc) s

/-- VICMP.cc (R188). -/
def execVicmp (t : ITy) (cc : ICond) (o : VCm) (s : State) : Res :=
  vecCmp o (iWidth t) (fun a b => icondHolds cc (BitVec.ofNat (iWidth t) a) (BitVec.ofNat (iWidth t) b)) s

/-- VSEL writes every lane whatever its guard (R189, 03 R73). -/
def execVsel (o : VBin) (s : State) : Res :=
  .next (s.slot fun k =>
    match (s.ctx k).window (o.vd.toNat :: VSrc.regs o.a ++ VSrcB.regs o.b) with
    | some t => .fault t
    | none => s.withRoom k (s.ctx k).slotNow (.done (((s.hold k o.a 0).holdB k o.b).vresult k (.vreg o.vd.toNat) (BitVec.allOnes 32)
        (mergeLanes (s.mask k o.g) (s.vsrc k o.a 0) (s.vsrcB k o.b)) 2 1)))

/-! ### Conversions (R190, R191) -/

def cWidth : CFmt → Nat
  | .f32 | .i32 => 32
  | .bf16 | .f16 | .i16 => 16
  | .i8 | .e4m3 | .e5m2 => 8

/-- A floating format, or none for an integer one. -/
def cFmt : CFmt → Option Fmt
  | .f32 => some fp32
  | .bf16 => some bf16
  | .f16 => some fp16
  | .e4m3 => some e4m3
  | .e5m2 => some e5m2
  | _ => none

/-- One element converted (06 R128). -/
def convert (src dst : CFmt) (mode : RMode) (sat : Bool) (x : Nat) : Nat :=
  match cFmt src, cFmt dst with
  | some f, some g => g.round mode sat (f.val x)
  | some f, none => roundInt (cWidth dst) mode sat (f.val x)
  | none, some g => g.round mode sat (FVal.ofInt (sgn (cWidth src) x))
  | none, none =>
    let v := sgn (cWidth src) x
    if sat then
      let lo : Int := -(2 ^ ((cWidth dst) - 1))
      let hi : Int := 2 ^ ((cWidth dst) - 1) - 1
      wrapInt (cWidth dst) (if v < lo then lo else if hi < v then hi else v)
    else wrapInt (cWidth dst) v

/-- Element `n` of width `w` in the order of R117. -/
def vecElem (w : Nat) (v : Vec) (n : Nat) : Nat := elem w (lane v (n / (32 / w))) (n % (32 / w))

/-- VCVT (R190): 32 or 64 elements; lanes that no element reaches are zero. -/
def execVcvt (src dst : CFmt) (o : VUn) (s : State) : Res :=
  vecUn o 4 1 (fun a =>
    let n := 1024 / Nat.max (cWidth src) (cWidth dst)
    ofLanes fun i => packElems (cWidth dst) fun j =>
      let e := i * (32 / (cWidth dst)) + j
      if e < n then convert src dst o.rm o.sat (vecElem (cWidth src) a e) else 0) s

/-- Bytes of the plane fragment of one block in a register, in lanes (R191). -/
def bxLanes : BTy → Nat
  | .bx8 => 4
  | .bx4 => 2

/-- VPKBX (R191): two blocks, their sidecars above them. -/
def execVpkbx (t : BTy) (o : VUn) (s : State) : Res :=
  vecUn o 8 2 (fun a =>
    let blk := fun b => encodeBlock t o.rm o.sat ((List.range 16).map fun i => (lane a (16 * b + i)).toNat)
    let b0 := blk 0
    let b1 := blk 1
    let n := 32 * bxLanes t
    BitVec.ofNat 1024 (b0.plane t + b1.plane t * 2 ^ n + (b0.side + b1.side * 2 ^ 16) * 2 ^ (2 * n))) s

/-- VUPBX (R191): NaN blocks give the canonical NaN. -/
def execVupbx (t : BTy) (o : VUn) (s : State) : Res :=
  vecUn o 4 1 (fun a =>
    let n := 32 * bxLanes t
    let blk := fun b => BxBlock.ofBits t (bits a.toNat (n * b) n) (bits a.toNat (2 * n + 16 * b) 16)
    ofLanes fun i => BitVec.ofNat 32 (fp32.round .rne false ((blk (i / 16)).val t (i % 16)))) s

/-! ### Reductions (R192, 06 R130) -/

/-- One level of the tree. -/
def treeLevel (f : Nat → Nat → Nat) : List Nat → List Nat
  | a :: b :: r => f a b :: treeLevel f r
  | l => l

/-- The tree, down to one value. -/
def tree (f : Nat → Nat → Nat) : Nat → List Nat → Nat
  | 0, l => l.headD 0
  | n + 1, l => tree f n (treeLevel f l)

def rWidth : RTy → Nat
  | .f32 | .i32 => 32
  | _ => 16

def rFmt : RTy → Fmt
  | .bf16 => bf16
  | .f16 => fp16
  | _ => fp32

/-- A reduction: elements of guard-false lanes enter as the identity, the result fills every lane. -/
def vecRed (t : RTy) (o : VUn) (ident : Nat) (f : Nat → Nat → Nat) (s : State) : Res :=
  vectorSlot o.g (o.vd.toNat :: VSrc.regs o.a) (fun s k => s.hold k o.a 0) (if (rWidth t) = 32 then 8 else 10) 2 (fun _ => BitVec.allOnes 32)
    (fun k m =>
      let a := s.vsrc k o.a 0
      let es := (List.range (1024 / (rWidth t))).map fun n => if m.getLsbD (n / (32 / (rWidth t))) then vecElem (rWidth t) a n else ident
      let r := tree f 6 es
      [(.vreg o.vd.toNat, splat (packElems (rWidth t) fun _ => r))]) s

/-- VRED.ADD (R192). -/
def execVredAdd (t : RTy) (o : VUn) (s : State) : Res :=
  if t = .i32 then vecRed t o 0 (fun a b => (a + b) % 2 ^ 32) s
  else vecRed t o ((rFmt t).enc true 0) (fun a b => (rFmt t).add o.rm false a b) s

/-- VRED.MIN (R192). -/
def execVredMin (t : RTy) (o : VUn) (s : State) : Res :=
  if t = .i32 then vecRed t o 0x7fffffff (fun a b => if sgn 32 b < sgn 32 a then b else a) s
  else vecRed t o (rFmt t).inf (rFmt t).min s

/-- VRED.MAX (R192). -/
def execVredMax (t : RTy) (o : VUn) (s : State) : Res :=
  if t = .i32 then vecRed t o 0x80000000 (fun a b => if sgn 32 a < sgn 32 b then b else a) s
  else vecRed t o ((rFmt t).enc true (rFmt t).inf) (rFmt t).max s

/-! ### Lane movement (R193, R194) -/

/-- VPERM (R193). -/
def execVperm (o : VBin) (s : State) : Res :=
  vecBin o 2 (fun a b _ => ofLanes fun i => lane a ((lane b i).toNat % 32)) s

/-- VBCAST (R193). -/
def execVbcast (o : VUn) (l : BitVec 5) (s : State) : Res := vecUn o 2 1 (fun a => splat (lane a l.toNat)) s

/-- VSLIDE (R193). -/
def execVslide (o : VUn) (n : BitVec 6) (s : State) : Res :=
  vecUn o 2 1 (fun a => ofLanes fun i =>
    let j : Int := (i : Int) - n.toInt
    if 0 ≤ j ∧ j ≤ 31 then lane a j.toNat else 0) s

/-- VMOVS: lane L from a scalar (R193). -/
def execVmovs (g : Guard) (vd : BitVec 10) (a : BitVec 6) (l : BitVec 5) (s : State) : Res :=
  vectorSlot g [vd.toNat] (fun s _ => s) 2 1 (fun m => m &&& (1 <<< l.toNat))
    (fun k m => if m.getLsbD l.toNat then [(.vreg vd.toNat, splat ((s.readS k a).setWidth 32))] else []) s

/-- VEXT: a scalar from lane L; s_d keeps its value where bit L of the mask is 0 (R193). -/
def execVext (g : Guard) (d : BitVec 6) (a : VSrc) (l : BitVec 5) (s : State) : Res :=
  vectorSlot g (VSrc.regs a) (fun s k => s.hold k a 0) 2 1 id
    (fun k m => if m.getLsbD l.toNat && d != 0 then [(.sreg d.toNat, (lane (s.vsrc k a 0) l.toNat).setWidth 1024)] else []) s

/-- VMOV (R193). -/
def execVmov (o : VUn) (s : State) : Res := vecUn o 2 1 (fun a => a) s

/-- VLIT (R193, R194). -/
def execVlit (g : Guard) (vd : BitVec 10) (i : BitVec 2) (s : State) : Res :=
  vectorSlot g [vd.toNat] (fun s _ => s) 2 1 id (fun k _ => [(.vreg vd.toNat, splat (s.lit k i.toNat))]) s

/-! ### Accumulator banks and result queues (R195 to R198) -/

/-- The row of a bank. -/
def rowOf (bank : BitVec 3) (row : BitVec 4) : Dest := .row (16 * bank.toNat + row.toNat)

/-- Cycles that a slot which has been blocked acts after the end of its wait: a demanded bank is read from then on (22 R428). -/
def State.sinceReady (s : State) (k : Nat) : Nat := if s.issuedAt k < (s.ctx k).since then s.cyc k - (s.ctx k).since else 0

/-- VRDACC (R195, R196): the bank's writers are demanded first. After a demand the read counts from its end, and the engine is not held beyond it (22 R428). -/
def execVrdacc (g : Guard) (vd : BitVec 10) (bank : BitVec 3) (row : BitVec 4) (s : State) : Res :=
  .next (s.slot fun k =>
    let c := s.ctx k
    match c.window [vd.toNat], c.bankFault bank.toNat with
    | some t, _ => .fault t
    | none, some t => .fault t
    | none, none =>
      let m := s.mask k g
      if m = 0 then .done s
      else s.demandBlock k (c.bankWriters bank.toNat) (s.withRoom k c.slotNow
        (.done (s.vresult k (.vreg vd.toNat) m (s.read k (rowOf bank row)) (6 - s.sinceReady k) (1 - s.sinceReady k)))))

/-- VWRACC (R195, R196): every node that reads or writes the bank is demanded first. -/
def execVwracc (g : Guard) (bank : BitVec 3) (row : BitVec 4) (a : VSrc) (s : State) : Res :=
  .next (s.slot fun k =>
    let c := s.ctx k
    match c.bankFault bank.toNat, c.window (VSrc.regs a) with
    | some t, _ => .fault t
    | none, some t => .fault t
    | none, none =>
      let m := s.mask k g
      if m = 0 then .done (s.hold k a 0)
      else s.demandBlock k (c.bankUsers bank.toNat) (s.withRoom k c.slotNow
        (.done ((s.hold k a 0).vresult k (rowOf bank row) m (s.vsrc k a 0) 2 1))))

/-- The rows of a result queue, oldest first; empty for every context but the owner of the Kerf (14 R297). -/
def State.rqRows (s : State) (k q : Nat) : List Vec :=
  let co := s.core (coreOf k)
  if co.owner = some k then lookD co.rq q [] else []

/-- The oldest row leaves a result queue; an open segment keeps it for a rewind (14 R300). -/
def State.rqPop (s : State) (k q : Nat) (row : Vec) : State :=
  (s.modCore (coreOf k) fun co => { co with rq := put co.rq q (lookD co.rq q []).tail }).modCtx k fun c =>
    { c with seg := c.seg.map fun (g : Seg) => { g with popped := (q, row) :: g.popped } }

/-- The pop of a result queue (14 R299): its pending TDRAIN nodes are demanded, an empty queue raises RQUNF. -/
def State.popping (s : State) (k q : Nat) (f : Vec → State → SlotRes) : SlotRes :=
  s.demandBlock k ((s.ctx k).queueGoals q)
    (match s.rqRows k q with
    | [] => .fault (precise cRQUNF q)
    | r :: _ => f r (s.rqPop k q r))

/-- VPOP (R198). -/
def execVpop (g : Guard) (vd : BitVec 10) (q : BitVec 3) (s : State) : Res :=
  .next (s.slot fun k =>
    let c := s.ctx k
    match c.window [vd.toNat] with
    | some t => .fault t
    | none =>
      let m := s.mask k g
      if m = 0 then .done s
      else s.withRoom k c.slotNow (s.popping k q.toNat fun r s1 => .done (s1.vresult k (.vreg vd.toNat) m r 3 1)))

end Sys2Proof.Machine
end

