-- ==== Sys2Proof/Machine/LoadStore.lean ====
section
/-!
DEFINITION. The L and ST slots (13_memops R254 to R269).
-/
namespace Sys2Proof.Machine

/-! ### Addresses and checks (R254 to R256) -/

/-- The sums an L or ST slot forms, one or, for VGATH and VSCAT, one for each lane (R254, R262). -/
def sumP (m : MemP) (n : Nat) (s : State) (k : Nat) : List Int := [eaSum (s.readS k m.base) (m.off.toInt * n)]
def sumS (m : MemS) (n : Nat) (s : State) (k : Nat) : List Int := [eaSum (s.readS k m.base) (m.off.toInt * n)]
def sumL (m : MemL) (n : Nat) (s : State) (k : Nat) : List Int := [eaSum (s.readS k m.base) (m.off.toInt * n)]
def sumG (m : MemG) (s : State) (k : Nat) : List Int :=
  (List.range 32).map fun i => eaSum (s.readS k m.base) ((lane (s.readV k m.vi.toNat) i).toNat * 2 ^ m.scale.toNat : Nat)

/-- An address or a sum as FADDR holds it (13 R255). Of a sum below 0 or beyond 64 bits it holds the low 64 bits: the spec gives no other form (DESIGN CHOICE, log
entry 110). -/
def faddrOf (x : Int) : Nat := (x % 2 ^ 64).toNat

/-- The faults of an access of `n` bytes at each of the sums, in the order PRIV, WINDOW, ALIGN, ADDR (03 R55, 15 R311). -/
def State.memFault (s : State) (k : Nat) (regs : List Nat) (enc n align : Nat) (xs : List Int) : Option Trap :=
  let c := s.ctx k
  if xs.any (fun x => eaOk x && spaceOf x.toNat == 14) && !(s.rcb k).hwin then some (precise cPRIV enc)
  else match c.window regs with
  | some t => some t
  | none =>
    match xs.find? fun (x : Int) => x % (align : Int) != 0 || (eaOk x && crossesStripe c.mapped x.toNat n) with
    | some x => some (precise cALIGN (faddrOf x))
    | none => (xs.find? fun x => !eaOk x || !inRange c.mapped x.toNat n).map fun x => precise cADDR (faddrOf x)

/-- An instruction that would raise a counter to 64 stalls issue (18 R370). -/
def State.counted (s : State) (k : Nat) (ctr : Ctr) (f : SlotRes) : SlotRes :=
  let c := s.ctx k
  let n := match ctr with | .ldc => c.ldc | .stc => c.stc | .tlc => c.tlc | _ => c.cpc
  if 63 ≤ n then .stall (match ctr with | .none => .roomCpc | _ => .room ctr) s else f

/-- The latency of a false-guarded L or ST slot (03 R53). Of the 32 addresses of a VGATH or VSCAT, that of lane 0 counts: R53 speaks of one (DESIGN CHOICE, log
entry 95). -/
def idleLat (xs : List Int) : Nat := let x := xs.headD 0; if eaOk x then spaceLat (spaceOf x.toNat) else 4

/-- The largest load latency among the spaces of addresses (R201). 13 R262 speaks of the space latency where the lanes of a VGATH or VSCAT can lie in several spaces: the
largest counts (DESIGN CHOICE, log entry 95). -/
def worstLat (as : List Nat) : Nat := as.foldl (fun m a => Nat.max m (spaceLat (spaceOf a))) 0

/-! ### Loads -/

/-- A load begins: LDC rises, its results are in flight, and it enters the L engine (R257). An LDL inside a segment acts after the
segment has committed (04 R94, 19 R393). -/
def State.startLoad (s : State) (k : Nat) (o : LoadOp) : State :=
  let f := s.flight k o.dest (BitVec.allOnes 32) 0 o.lat false .ldc
  let pf := match o.kind with
    | .lock pd => if pd = 0 then [] else [s.flight k (.preg pd) (BitVec.allOnes 32) 0 o.lat false .ldp]
    | _ => []
  let s1 := s.modCtx k fun c => { c with ldc := c.ldc + 1, flights := c.flights ++ f :: pf }
  match o.kind with
  | .lock _ =>
    if (s.ctx k).seg.isSome then
      s1.modCtx k fun c => { c with run := c.run.map fun r => { r with ldl := some (s1.bufOp k (.load o)) } }
    else s1.submit k (.load o)
  | _ => s1.submit k (.load o)

/-- An L slot (R257, R258): `kind`, `dest` and `extra` cycles of latency. -/
def loadRes (g : Guard) (regs : List Nat) (enc n align : Nat) (xs : State → Nat → List Int) (kind : LoadKind) (dest : Dest) (s : State) : Res :=
  .next (s.slot fun k =>
    let c := s.ctx k
    if s.guard k g then
      match s.memFault k regs enc n align (xs s k) with
      | some t => .fault t
      | none =>
        let as := (xs s k).map Int.toNat
        let ps := as.map fun a => (scratchPhys c.mapped k a, n)
        s.counted k .ldc (s.demandBlock k (c.readGoals (as.map fun a => areaOf a n)) (s.withRoom k 4
          (.done (s.startLoad k ⟨kind, dest, ps, as.map fun a => (a, n), worstLat as + bankLoad (ps.map fun p => p.1) - 1⟩))))
    else
      match c.window regs with
      | some t => .fault t
      | none => s.counted k .ldc (s.withRoom k 4 (.done (s.startLoad k ⟨.none, .none, [], [], idleLat (xs s k)⟩))))

/-- The scalar or predicate a load writes; a load into s0 or p0 is discarded (R260, R263). -/
def sDest (t : BitVec 10) : Dest := if t = 0 then .none else .sreg t.toNat
def pDest (t : BitVec 10) : Dest := if t = 0 then .none else .preg t.toNat

/-- LD.B (R260). -/
def execLdB (m : MemP) (s : State) : Res :=
  loadRes m.g [] (encode (.ldB m)) 1 1 (sumP m 1) (.scalar true) (sDest m.t) s

/-- LD.BU (R260). -/
def execLdBu (m : MemP) (s : State) : Res :=
  loadRes m.g [] (encode (.ldBu m)) 1 1 (sumP m 1) (.scalar false) (sDest m.t) s

/-- LD.H (R260). -/
def execLdH (m : MemP) (s : State) : Res :=
  loadRes m.g [] (encode (.ldH m)) 2 2 (sumP m 2) (.scalar true) (sDest m.t) s

/-- LD.HU (R260). -/
def execLdHu (m : MemP) (s : State) : Res :=
  loadRes m.g [] (encode (.ldHu m)) 2 2 (sumP m 2) (.scalar false) (sDest m.t) s

/-- LD.W (R260). -/
def execLdW (m : MemP) (s : State) : Res :=
  loadRes m.g [] (encode (.ldW m)) 4 4 (sumP m 4) (.scalar true) (sDest m.t) s

/-- LD.WU (R260). -/
def execLdWu (m : MemP) (s : State) : Res :=
  loadRes m.g [] (encode (.ldWu m)) 4 4 (sumP m 4) (.scalar false) (sDest m.t) s

/-- LD.D (R260). -/
def execLdD (m : MemP) (s : State) : Res :=
  loadRes m.g [] (encode (.ldD m)) 8 8 (sumP m 8) (.scalar false) (sDest m.t) s

/-- VLD (R261). -/
def execVld (m : MemP) (s : State) : Res :=
  loadRes m.g [m.t.toNat] (encode (.vld m)) 128 4 (sumP m 128) .vec (.vreg m.t.toNat) s

/-- VLDB (R261). -/
def execVldb (m : MemP) (s : State) : Res :=
  loadRes m.g [m.t.toNat] (encode (.vldb m)) 4 4 (sumP m 4) .bcast (.vreg m.t.toNat) s

/-- VGATH (R262). -/
def execVgath (m : MemG) (s : State) : Res :=
  loadRes m.g [m.t.toNat, m.vi.toNat] (encode (.vgath m)) 4 4 (sumG m) .vec (.vreg m.t.toNat) s

/-- PLD (R263). -/
def execPld (m : MemP) (s : State) : Res :=
  loadRes m.g [] (encode (.pld m)) 4 4 (sumP m 4) .pred (pDest m.t) s

/-- LDACQ.W (R265). The model gives every scope the order of the widest (log entry 11). -/
def execLdacqW (m : MemS) (s : State) : Res :=
  loadRes m.g [] (encode (.ldacqW m)) 4 4 (sumS m 4) .acquire (sDest m.t) s

/-- LDACQ.D (R265). The model gives every scope the order of the widest (log entry 11). -/
def execLdacqD (m : MemS) (s : State) : Res :=
  loadRes m.g [] (encode (.ldacqD m)) 8 8 (sumS m 8) .acquire (sDest m.t) s

/-- LDL.W (R268). -/
def execLdlW (m : MemL) (s : State) : Res :=
  loadRes m.g [] (encode (.ldlW m)) 4 4 (sumL m 4) (.lock m.pd.toNat) (sDest m.t) s

/-- LDL.D (R268). -/
def execLdlD (m : MemL) (s : State) : Res :=
  loadRes m.g [] (encode (.ldlD m)) 8 8 (sumL m 8) (.lock m.pd.toNat) (sDest m.t) s

/-! ### Stores -/

/-- The nodes a store demands before it is made: those its bytes concern, and for a release every node with a scratchpad
destination (R258, 12 R236). -/
def Ctx.storeGoals (c : Ctx) (o : StoreOp) : List Goal :=
  (if o.kind.releases then c.scratchGoals else []) ++ c.writeGoals (o.span.map fun p => areaOf p.1 p.2)

/-- A store's demand: a release blocks, a plain store keeps the issue width (12 R236; 13 R258). -/
def State.demandStore (s : State) (k : Nat) (o : StoreOp) (f : SlotRes) : SlotRes :=
  if o.kind.releases then s.demandBlock k (s.ctx k).scratchGoals (s.demandHold k ((s.ctx k).storeGoals o) f)
  else s.demandHold k ((s.ctx k).storeGoals o) f

/-- A store begins: STC rises, what it will write to a register is in flight, and it enters the ST engine (R257); in a
schedule segment it is held (R259). -/
def State.startStore (s : State) (k : Nat) (o : StoreOp) : State :=
  let fl := match o.kind with
    | .atomic _ t _ _ => [s.flight k (if t = 0 then .none else .sreg t) (BitVec.allOnes 32) 0 o.lat false .stc]
    | .unlock pd => if pd = 0 then [] else [s.flight k (.preg pd) (BitVec.allOnes 32) 0 o.lat false .stp]
    | .none => [s.flight k .none (BitVec.allOnes 32) 0 o.lat false .stc]
    | _ => []
  let s1 := s.modCtx k fun c => { c with stc := c.stc + 1, flights := c.flights ++ fl }
  if (s.ctx k).seg.isSome && o.kind != .none then
    let b := s1.bufOp k (.store o)
    s1.modCtx k fun c => { c with held := c.held ++ [b], seg := c.seg.map fun (g : Seg) => { g with stores := g.stores + 1 } }
  else s1.submit k (.store o)

/-- The number of a scope, the narrowest 0, and the scope of a number. -/
def scopeRank (sc : Scope) : Nat := match sc with | .u => 0 | .c => 1 | .d => 2 | .p => 3 | .s => 4
def scopeOf (n : Nat) : Scope := match n with | 0 => .u | 1 => .c | 2 => .d | 3 => .p | _ => .s

/-- The effective scope of an access to a space: the wider of the scope it names and the one whose memory level holds its bytes (12 R233; 13 R268). -/
def effScope (named : Scope) (space : Nat) : Scope := scopeOf (Nat.max (scopeRank named) (levelOf space))

/-- A store of one range of bytes. -/
def State.storeOp (s : State) (k : Nat) (kind : StoreKind) (ea : Nat) (bs : List Byte) (extra : Nat) (named : Scope) : StoreOp :=
  let a := scratchPhys (s.ctx k).mapped k ea
  { kind := kind, bytes := cellsAt a bs, addr := a, size := bs.length, span := [(ea, bs.length)], lat := spaceLat (spaceOf ea) + extra
    scope := effScope named (spaceOf ea) }

/-- An ST slot (R257, R258): `op` is what it stores at the addresses, `pre` what comes before it. -/
def storeRes (g : Guard) (regs : List Nat) (enc n align : Nat) (xs : State → Nat → List Int)
    (op : State → Nat → List Nat → (StoreOp → State → SlotRes) → SlotRes) (s : State) : Res :=
  .next (s.slot fun k =>
    let c := s.ctx k
    if s.guard k g then
      match s.memFault k regs enc n align (xs s k) with
      | some t => .fault t
      | none => s.counted k .stc (s.withRoom k 5 (op s k ((xs s k).map Int.toNat) fun o s1 =>
          s.demandStore k o (.done (s1.startStore k o))))
    else
      match c.window regs with
      | some t => .fault t
      | none => s.counted k .stc (s.withRoom k 5 (.done (s.startStore k ⟨.none, [], 0, 0, [], idleLat (xs s k), .u⟩))))

/-- One range of bytes, known from the registers. -/
def oneStore (kind : State → Nat → StoreKind) (extra : Nat) (named : Scope) (bs : State → Nat → List Byte) (s : State) (k : Nat) (as : List Nat)
    (f : StoreOp → State → SlotRes) : SlotRes :=
  f (s.storeOp k (kind s k) (as.headD 0) (bs s k) extra named) s

/-- The low `n` bytes of s_t. -/
def sBytes (t : BitVec 10) (n : Nat) (s : State) (k : Nat) : List Byte := leBytes n (s.readS k (t.setWidth 6)).toNat

/-- The 128 bytes of a vector. -/
def vBytes (v : Vec) : List Byte := leBytes 128 v.toNat

/-- ST.B (R260). -/
def execStB (m : MemP) (s : State) : Res :=
  storeRes m.g [] (encode (.stB m)) 1 1 (sumP m 1) (oneStore (fun _ _ => .plain) 0 .u (sBytes m.t 1)) s

/-- ST.H (R260). -/
def execStH (m : MemP) (s : State) : Res :=
  storeRes m.g [] (encode (.stH m)) 2 2 (sumP m 2) (oneStore (fun _ _ => .plain) 0 .u (sBytes m.t 2)) s

/-- ST.W (R260). -/
def execStW (m : MemP) (s : State) : Res :=
  storeRes m.g [] (encode (.stW m)) 4 4 (sumP m 4) (oneStore (fun _ _ => .plain) 0 .u (sBytes m.t 4)) s

/-- ST.D (R260). -/
def execStD (m : MemP) (s : State) : Res :=
  storeRes m.g [] (encode (.stD m)) 8 8 (sumP m 8) (oneStore (fun _ _ => .plain) 0 .u (sBytes m.t 8)) s

/-- VST (R261). -/
def execVst (m : MemP) (s : State) : Res :=
  storeRes m.g [m.t.toNat] (encode (.vst m)) 128 4 (sumP m 128)
    (oneStore (fun _ _ => .plain) 0 .u fun s k => vBytes (s.readV k m.t.toNat)) s

/-- PST (R263). -/
def execPst (m : MemP) (s : State) : Res :=
  storeRes m.g [] (encode (.pst m)) 4 4 (sumP m 4)
    (oneStore (fun _ _ => .plain) 0 .u fun s k => leBytes 4 (s.readP k (m.t.setWidth 6)).toNat) s

/-- VSCAT: lanes perform in ascending order (R262). -/
def execVscat (m : MemG) (s : State) : Res :=
  storeRes m.g [m.t.toNat, m.vi.toNat] (encode (.vscat m)) 4 4 (sumG m)
    (fun s k as f =>
      let ps := as.map (scratchPhys (s.ctx k).mapped k)
      let v := s.readV k m.t.toNat
      let cells := (((List.range 32).zip ps).map fun p => cellsAt p.2 (leBytes 4 (lane v p.1).toNat)).flatten
      f ⟨.plain, cells, 0, 4, as.map fun a => (a, 4), worstLat as, .u⟩ s) s

/-- STQ: the oldest row of a result queue (R264, 14 R299). -/
def execStq (m : MemP) (s : State) : Res :=
  storeRes m.g [] (encode (.stq m)) 128 4 (sumP m 128)
    (fun s k as f => s.popping k (bits m.t.toNat 0 3) fun row s1 => f (s.storeOp k .plain (as.headD 0) (vBytes row) 0 .u) s1) s

/-- STREL.W (R266). It waits as its effective scope says; the model gives every scope the order of the widest (log entry 11). -/
def execStrelW (m : MemS) (s : State) : Res :=
  storeRes m.g [] (encode (.strelW m)) 4 4 (sumS m 4) (oneStore (fun _ _ => .release) 0 m.scope (sBytes m.t 4)) s

/-- STREL.D (R266). It waits as its effective scope says; the model gives every scope the order of the widest (log entry 11). -/
def execStrelD (m : MemS) (s : State) : Res :=
  storeRes m.g [] (encode (.strelD m)) 8 8 (sumS m 8) (oneStore (fun _ _ => .release) 0 m.scope (sBytes m.t 8)) s

/-- STU.W (R268). -/
def execStuW (m : MemL) (s : State) : Res :=
  storeRes m.g [] (encode (.stuW m)) 4 4 (sumL m 4) (oneStore (fun _ _ => .unlock m.pd.toNat) 0 .u (sBytes m.t 4)) s

/-- STU.D (R268). -/
def execStuD (m : MemL) (s : State) : Res :=
  storeRes m.g [] (encode (.stuD m)) 8 8 (sumL m 8) (oneStore (fun _ _ => .unlock m.pd.toNat) 0 .u (sBytes m.t 8)) s

/-- An atomic: operands s_t and, for ACAS, s_(t+1) (R269). -/
def atomicRes (m : MemS) (enc n : Nat) (op : AtomOp) (s : State) : Res :=
  storeRes m.g [] enc n n (sumS m n)
    (oneStore (fun s k => .atomic op m.t.toNat (s.readS k (m.t.setWidth 6)) (if op = .cas then s.readS k (m.t.setWidth 6 + 1) else 0)) 4 m.scope
      (sBytes m.t n)) s

/-- AADD.W (R269). -/
def execAaddW (m : MemS) (s : State) : Res :=
  atomicRes m (encode (.aaddW m)) 4 .add s

/-- AADD.D (R269). -/
def execAaddD (m : MemS) (s : State) : Res :=
  atomicRes m (encode (.aaddD m)) 8 .add s

/-- AMIN.W (R269). -/
def execAminW (m : MemS) (s : State) : Res :=
  atomicRes m (encode (.aminW m)) 4 .min s

/-- AMIN.D (R269). -/
def execAminD (m : MemS) (s : State) : Res :=
  atomicRes m (encode (.aminD m)) 8 .min s

/-- AMAX.W (R269). -/
def execAmaxW (m : MemS) (s : State) : Res :=
  atomicRes m (encode (.amaxW m)) 4 .max s

/-- AMAX.D (R269). -/
def execAmaxD (m : MemS) (s : State) : Res :=
  atomicRes m (encode (.amaxD m)) 8 .max s

/-- AXCH.W (R269). -/
def execAxchW (m : MemS) (s : State) : Res :=
  atomicRes m (encode (.axchW m)) 4 .xch s

/-- AXCH.D (R269). -/
def execAxchD (m : MemS) (s : State) : Res :=
  atomicRes m (encode (.axchD m)) 8 .xch s

/-- ACAS.W (R269). -/
def execAcasW (m : MemS) (s : State) : Res :=
  atomicRes m (encode (.acasW m)) 4 .cas s

/-- ACAS.D (R269). -/
def execAcasD (m : MemS) (s : State) : Res :=
  atomicRes m (encode (.acasD m)) 8 .cas s

end Sys2Proof.Machine
end

