-- ==== Sys2Proof/Machine/Tile.lean ====
section
/-!
DEFINITION. The T slot (17_tile R347 to R365; 16_thunks R323, R324, R336, R342): descriptor checks, appends, FORCE, TSTORE, TDROP, TDLD, ACZ and
SCRIBE, at the slot or when a segment commits.
-/
namespace Sys2Proof.Machine

/-! ### Checks (R347, R433) -/

/-- A descriptor that an instruction names: its register, its role (0 destination, 1 operand a, 2 operand b), whether the entry allows its
format and shape, and whether it must lie in space 0x0. -/
structure DRole where
  reg : BitVec 5
  role : Nat
  td : TD
  ok : Bool
  unit : Bool
deriving DecidableEq, Repr

/-- The defects of a descriptor in any role (R347); a transposed BX descriptor is one also in FORCE, whose map R433 leaves without effect (DESIGN CHOICE, log entry
101). -/
def TD.malformed (d : TD) : Bool :=
  d.resv || d.e0 == 0 || d.e1 == 0 || d.e2 == 0 || d.e3 == 0 || 10 ≤ d.fmt || d.kind == 3 || (d.isBx && (d.e3 % 16 != 0 || d.kind == 1))

/-- Bytes of a descriptor's elements, their sidecars apart. -/
def TD.bytes (d : TD) : Nat := let n := d.e0 * d.e1 * d.e2 * d.e3; if d.fmt = 9 then n / 2 else n * d.esize

/-- A destination carries identity and has at most 64 tiles (R433, 16 R325). -/
def TD.asDest (d : TD) : Bool := d.kind == 0 && d.tiles ≤ 64

/-- Identity or slice with ORG3 zero: the maps of MMA operands (R351). -/
def TD.mapK (d : TD) : Bool := (d.kind == 0 || d.kind == 2) && d.org3 == 0

/-- The extents equal those of `e`, compared under the map of `d` (R433). -/
def TD.sameExtents (d e : TD) : Bool :=
  if d.kind = 2 then true
  else if d.kind = 1 then d.e0 == e.e0 && d.e1 == e.e1 && d.e2 == e.e3 && d.e3 == e.e2
  else d.e0 == e.e0 && d.e1 == e.e1 && d.e2 == e.e2 && d.e3 == e.e3

/-- The alignment of BASE (R347). -/
def TD.baseAlign (d : TD) : Nat := if d.fmt = 8 then 16 else if d.fmt = 9 then 8 else d.esize

/-- The misaligned address of a descriptor, BASE before SIDE (R347, 03 R55). -/
def TD.misaligned (d : TD) : Option Nat :=
  if d.base % d.baseAlign ≠ 0 then some d.base else if d.isBx && d.side % 2 != 0 then some d.side else none

/-- The end of a space that tile operands may lie in. -/
def tileSpaceEnd (unit : Bool) (space : Nat) : Option Nat :=
  match space with
  | 0 => some 0x60000
  | 1 => if unit then none else some 0x12000000
  | 3 => if unit then none else some 0x38000000
  | _ => none

/-- The first address of a range that leaves the allowed space (R347; log entry 13). -/
def rangeOut (unit : Bool) (r : Nat × Nat) : Option Nat :=
  match tileSpaceEnd unit (spaceOf r.1) with
  | none => some r.1
  | some e => if r.1 + r.2 ≤ e then none else some (Nat.max r.1 e)

/-- The failing address of a descriptor's region or of its sidecars (R347). -/
def TD.outside (d : TD) (unit : Bool) : Option Nat :=
  match rangeOut unit (d.dataRange d.full) with
  | some a => some a
  | none => if d.isBx then rangeOut unit (d.sideRange d.full) else none

/-- The first fault of the descriptors an instruction names, in the order tdd, tda, tdb within each code (R347). -/
def checkDescs (ds : List DRole) : Option Trap :=
  match ds.find? fun (x : DRole) => x.td.malformed || !x.ok with
  | some x => some (precise cTDESC (x.reg.toNat + x.role * 256))
  | none =>
    match ds.findSome? fun (x : DRole) => x.td.misaligned with
    | some a => some (precise cALIGN a)
    | none => (ds.findSome? fun (x : DRole) => x.td.outside x.unit).map fun a => precise cADDR a

/-- A descriptor register, as the last TDLD that has read its bytes writes it: an instruction that names it acts after that write (R348). -/
def Ctx.td (c : Ctx) (n : BitVec 5) : BitVec 256 :=
  match c.flights.reverse.find? fun (f : Flight) => f.dest == .td n.toNat && f.acc with
  | some f => f.val.setWidth 256
  | none => lookD c.tds n.toNat 0

/-- A descriptor register that a TDLD has still to write (R348); with `unread`, one whose TDLD has not read its bytes. -/
def Ctx.tdBusy (c : Ctx) (unread : Bool) (ns : List (BitVec 5)) : Option Nat :=
  (ns.find? fun n => c.flights.any fun (f : Flight) => f.dest == .td n.toNat && !(unread && f.acc)).map fun n => n.toNat

/-! ### What an instruction names -/

/-- No token. -/
def noToks : Toks := ⟨0, 0, 0, 0⟩

/-- The token fields of a T-slot instruction. -/
def tileToks : Instr → Toks
  | .mma _ _ _ _ _ k | .mmaz _ _ _ _ _ k | .rmin _ _ _ k | .rmax _ _ _ k | .rsort _ _ _ k | .rtopk _ _ _ _ k | .wload _ _ k | .wswap _ k
  | .tepi _ _ _ _ _ _ _ k | .tew _ _ _ _ _ k | .tdrain _ _ _ _ _ k | .tstore _ _ _ _ _ _ _ k => k
  | _ => noToks

/-- The descriptor registers that a T-slot instruction reads. -/
def tileTds : Instr → List (BitVec 5)
  | .mma _ _ a b _ _ | .mmaz _ _ a b _ _ => [a, b]
  | .rmin _ d a _ | .rmax _ d a _ | .rsort _ d a _ | .rtopk _ d a _ _ => [d, a]
  | .wload _ b _ => [b]
  | .tepi _ d bias _ _ b _ _ => if bias then [d, b] else [d]
  | .tew _ d a b op _ => if op = 5 then [d, a] else [d, a, b]
  | .force _ d mode _ => if mode = 0 then [d] else []
  | .tstore _ d a bank _ _ _ _ => if bank then [d] else [d, a]
  | _ => []

/-- WINDOW for the Kerf or a bank (R349, 03 R54); without a bank field FADDR is 0. -/
def Ctx.tileWindow (c : Ctx) : Instr → Option Trap
  | .mma _ _ _ _ b _ | .mmaz _ _ _ _ b _ | .tdrain _ _ _ _ b _ | .acz _ b | .tepi _ _ _ _ _ _ b _ => c.bankFault b.toNat
  | .rmin .. | .rmax .. | .rsort .. | .rtopk .. | .wload .. | .wswap .. | .scribe .. => if c.kown then none else some (precise cWINDOW 0)
  | .tstore _ _ _ bank _ _ b _ => if bank then c.bankFault b.toNat else none
  | .force _ _ mode b => if mode = 1 then c.bankFault b.toNat else none
  | _ => none

/-- What a T-slot instruction carries from its issue: APPC, its base scalar, the producers of its kins, the binding of its kout, and PSW.RFAST and PROMOTE from
before its bundle (08 R176), which one held by a segment keeps for its append (DEDUCED, log entry 103). `held`: it comes from a segment's commit, its kout already bound. -/
structure TArgs where
  appc : Word
  base : Word
  kins : List (Nat × Nat)
  kb : Nat
  held : Bool
  seq : Nat
  rfast : Bool
  promote : Nat
deriving DecidableEq, Repr

/-- kout becomes pending, bound to this instruction (05 R104). -/
def State.bindKout (s : State) (k : Nat) (a : TArgs) (t : Toks) : State :=
  if a.held then s else s.modCtx k fun c => c.bindTok t.kout.toNat

/-- kout is produced. -/
def State.produceTok (s : State) (k : Nat) (t : Toks) (kb : Nat) (err : Bool) : State := s.produce k t.kout.toNat kb err

/-- The kin tokens are produced, after a demand of the nodes that hold them (16 R331). -/
def State.awaitKins (s : State) (k : Nat) (kins : List (Nat × Nat)) (force : Bool) (f : SlotRes) : SlotRes :=
  let gs := (s.ctx k).kinGoals kins
  let rest := match kins.find? fun kb => s.kinOpen k kb with | some kb => .block (.kin kb.1 kb.2) s | none => f
  if force then s.demandForce k gs rest else s.demandBlock k gs rest

/-- What the context stored before, and bank rows on their way, are in place (16 R326); the context is blocked until then (17 R362, R367). -/
def State.afterStores (s : State) (k seq : Nat) (f : SlotRes) : SlotRes := if s.drainedAll k seq then f else .block (.stores seq) s

/-! ### Appends (16 R324, R336) -/

/-- The T engine takes an append of bundle `seq` in the cycle of its slot: nothing of the context is in front of it, it is free, and the descriptor registers are
written (03 R65; R348). -/
def State.tileFree (s : State) (k : Nat) (op : EngOp) : Bool :=
  let c := s.ctx k
  (c.waiting 3).isEmpty && s.atEngine k (s.bufOp k op) && (match op with | .append _ tds => !c.tdWritten c.seqNow tds | _ => true)

/-- A node is appended, with its own copies of the descriptors; the T engine accepts it then, or it waits in the elastic buffer and runs no tile before (03 R65; R348;
DEDUCED, log entry 89). -/
def State.addNode (s : State) (k : Nat) (a : TArgs) (i : Instr) (n : Node) : SlotRes :=
  let op := EngOp.append n.seq ((tileTds i).map BitVec.toNat)
  let s1 := (s.bindKout k a (tileToks i)).modCtx k fun c => { c with nodes := c.nodes ++ [n], seqSrc := c.seqSrc + 1 }
  if a.held || s.tileFree k op then .done s1 else s.withRoom k 3 (.done (s1.submit k op))

/-- A node is appended; a full table first demands its oldest node. -/
def State.append (s : State) (k : Nat) (a : TArgs) (i : Instr) (dd da db : BitVec 256) (acc : Nat) (nt : Nat) : SlotRes :=
  let c := s.ctx k
  let t := tileToks i
  match (if 128 ≤ c.nodes.length then c.nodes.head? else none) with
  | some n => s.demandForce k [⟨n.seq, n.all⟩] (.block .demand s) |> fun r => match r with
    | .block w s1 => .block w (s1.modCtx k fun c => { c with ovff := c.ovff + 1 })
    | r => r
  | none =>
    let w := encode i
    let op := bits w 7 7
    let n : Node :=
      { appc := a.appc, seq := c.seqSrc + 1, op := BitVec.ofNat 7 op, failed := false, rfast := a.rfast, bankDst := op = opMMA || op = opMMAZ
        qDst := op = opTDRAIN, acc := acc, passes := if op = opMMA ∨ op = opMMAZ then a.promote else 0, toks := t, koutBind := a.kb
        kinBind := a.kins, fcode := 0, nt := nt, aux := BitVec.ofNat 18 (bits w 14 18), done := 0, dd := dd, da := da, db := db
        appSeq := a.seq }
    s.addNode k a i n

/-! ### Each instruction (R349 to R364) -/

/-- MMA and MMAZ (R351). K above the stationary limit is judged, and reported, as a defect of td_b (DESIGN CHOICE, log entry 97). -/
def State.tileMma (s : State) (k : Nat) (a : TArgs) (i : Instr) (strm : Bool) (ra rb : BitVec 5) (acc : BitVec 3) : SlotRes :=
  let c := s.ctx k
  let da := TD.ofBits (c.td ra)
  let db := TD.ofBits (c.td rb)
  let okA := da.isBx && da.e0 == 1 && da.e1 == 1 && da.e2 ≤ 16 && da.mapK
  let okB := db.isBx && db.e0 == 1 && db.e1 == 1 && db.e2 ≤ 32 && db.e3 == da.e3 && db.mapK && (strm || db.e3 ≤ kPlane db)
  match checkDescs [⟨ra, 1, da, okA, true⟩, ⟨rb, 2, db, okB, strm⟩] with
  | some t => .fault t
  | none => s.append k a i 0 (c.td ra) (c.td rb) acc.toNat 1

/-- The races (R356): `n` positions of results, or as many as keys. EXT0 to EXT2 of td_d equal td_a's also where td_a is a slice, although R433 compares no extents of a
slice (DESIGN CHOICE, log entry 98). -/
def State.tileRace (s : State) (k : Nat) (a : TArgs) (i : Instr) (rd ra : BitVec 5) (n : Option Nat) : SlotRes :=
  let c := s.ctx k
  let dd := TD.ofBits (c.td rd)
  let da := TD.ofBits (c.td ra)
  let okD := dd.fmt == 3 && dd.e0 == da.e0 && dd.e1 == da.e1 && dd.e2 == da.e2 && dd.e3 == n.getD da.e3 && dd.asDest
  let okA := da.fmt == 1 && da.e3 ≤ 32 && da.kind != 1
  match checkDescs [⟨rd, 0, dd, okD, false⟩, ⟨ra, 1, da, okA, false⟩] with
  | some t => .fault t
  | none => s.append k a i (c.td rd) (c.td ra) 0 0 dd.tiles

/-- WLOAD (R354). -/
def State.tileWload (s : State) (k : Nat) (a : TArgs) (i : Instr) (rb : BitVec 5) : SlotRes :=
  let c := s.ctx k
  let db := TD.ofBits (c.td rb)
  let ok := db.isBx && db.e0 == 1 && db.e1 == 1 && db.e2 ≤ 32 && 16 ≤ db.e3 && db.e3 ≤ kPlane db && db.kind == 0
  match checkDescs [⟨rb, 2, db, ok, true⟩] with
  | some t => .fault t
  | none => s.append k a i 0 0 (c.td rb) 0 1

/-- The destination formats of TEPI and TEW. -/
def floatDest (d : TD) : Bool := d.fmt ≤ 2 || d.fmt == 6 || d.fmt == 7 || d.isBx

/-- TEPI (R358). -/
def State.tileTepi (s : State) (k : Nat) (a : TArgs) (i : Instr) (rd : BitVec 5) (bias : Bool) (rb : BitVec 5) (acc : BitVec 3) : SlotRes :=
  let c := s.ctx k
  let dd := TD.ofBits (c.td rd)
  let db := TD.ofBits (c.td rb)
  let okD := floatDest dd && dd.e0 == 1 && dd.e1 == 1 && dd.e2 ≤ 16 && dd.e3 ≤ 32 && dd.asDest
  let okB := db.fmt ≤ 2 && db.sameExtents dd
  match checkDescs (⟨rd, 0, dd, okD, false⟩ :: if bias then [⟨rb, 2, db, okB, false⟩] else []) with
  | some t => .fault t
  | none => s.append k a i (c.td rd) 0 (if bias then c.td rb else 0) acc.toNat dd.tiles

/-- TEW (R359). -/
def State.tileTew (s : State) (k : Nat) (a : TArgs) (i : Instr) (rd ra rb : BitVec 5) (op : BitVec 3) : SlotRes :=
  let c := s.ctx k
  let dd := TD.ofBits (c.td rd)
  let da := TD.ofBits (c.td ra)
  let db := TD.ofBits (c.td rb)
  let src := fun (d : TD) => d.fmt ≤ 2 || d.isBx
  match checkDescs (⟨rd, 0, dd, floatDest dd && dd.asDest, false⟩ :: ⟨ra, 1, da, src da, false⟩ ::
      if op = 5 then [] else [⟨rb, 2, db, src db, false⟩]) with
  | some t => .fault t
  | none => s.append k a i (c.td rd) (c.td ra) (if op = 5 then 0 else c.td rb) op.toNat dd.tiles

/-- TDRAIN: RQOVF when the queue has no space for the rows; else they are reserved (R360, 14 R298). -/
def State.tileTdrain (s : State) (k : Nat) (a : TArgs) (i : Instr) (q : BitVec 3) (n1 : BitVec 4) (acc : BitVec 3) : SlotRes :=
  let co := s.core (coreOf k)
  let n := n1.toNat + 1
  if 16 < (lookD co.rq q.toNat []).length + lookD co.rqv q.toNat 0 + n then .fault (precise cRQOVF q.toNat)
  else
    match s.append k a i 0 0 0 acc.toNat 1 with
    | .done s1 => .done (s1.modCore (coreOf k) fun co => { co with rqv := put co.rqv q.toNat (lookD co.rqv q.toNat 0 + n) })
    | r => r

/-- FORCE (R361). -/
def State.tileForce (s : State) (k : Nat) (rd : BitVec 5) (mode : BitVec 2) (acc : BitVec 3) : SlotRes :=
  let c := s.ctx k
  if mode = 0 then
    let d := TD.ofBits (c.td rd)
    match checkDescs [⟨rd, 0, d, true, false⟩] with
    | some t => .fault t
    | none => s.demandForce k (c.readGoals (d.areas d.full)) (.done s)
  else s.demandForce k (if mode = 1 then c.bankWriters acc.toNat else c.allGoals) (.done s)

/-- Loads of earlier bundles that have still to read their bytes hold a TSTORE back (12 R234, R235); the context is blocked until then. -/
def State.afterLoads (s : State) (k seq : Nat) (f : SlotRes) : SlotRes := if s.loadsUnread k (seq - 1) then .block (.loads seq) s else f

/-- Work of some cycles after the demands of an instruction: from its issue, or from the end of its demands (R350). -/
def State.forCycles (s : State) (k n : Nat) (f : SlotRes) : SlotRes :=
  let done := Nat.max (s.ctx k).demandAt (s.issuedAt k) + n
  if done ≤ s.cyc k + 1 then f else .block (.work (done - 1)) s

/-- TSTORE (R362): kins, the demands of its source and of its destination, then the conversion. Where source and destination overlap across tiles, each tile reads what
the tiles before it have written (DESIGN CHOICE, log entry 99). -/
def State.tileTstore (s : State) (k : Nat) (a : TArgs) (t : Toks) (rd ra : BitVec 5) (bank : Bool) (rm : RMode) (sat : Bool)
    (acc : BitVec 3) : SlotRes :=
  let c := s.ctx k
  let dd := TD.ofBits (c.td rd)
  let da := TD.ofBits (c.td ra)
  let okD := dd.asDest && (if bank then dd.e0 == 1 && dd.e1 == 1 && dd.e2 ≤ 16 && dd.e3 ≤ 32 else da.sameExtents dd)
  let okA := da.fmt != 6 && da.fmt != 7
  match checkDescs (⟨rd, 0, dd, okD, false⟩ :: if bank then [] else [⟨ra, 1, da, okA, false⟩]) with
  | some t => .fault t
  | none =>
    s.awaitKins k a.kins true
      (if a.kins.any c.kinErr then
        .done (((s.bindKout k a t).produceTok k t a.kb true).attach k cINERR (atgtToken t.kout.toNat))
      else
        s.demandForce k (if bank then c.bankWriters acc.toNat else c.readGoals (da.areas da.full))
          (s.demandForce k (c.writeGoals (dd.areas dd.full)) (s.afterStores k a.seq (s.afterLoads k a.seq (s.forCycles k ((dd.bytes + 255) / 256)
            (let val := fun (s : State) i0 i1 i2 i3 =>
              if bank then fp32.val (lane ((s.core (coreOf k)).row acc.toNat i2) i3).toNat else s.imageElem k da i0 i1 i2 i3
            let s1 := (List.range dd.tiles).foldl (fun s j => { s with mem := s.mem.writes (dd.tileCells k rm sat j (val s)) }) s
            .done ((s1.bindKout k a t).produceTok k t a.kb false)))))))

/-- TDROP (R363): the node bound to kN, or every failed node. -/
def State.tileTdrop (s : State) (k : Nat) (all : Bool) (kins : List (Nat × Nat)) : State :=
  let c := s.ctx k
  let gone := if all then c.nodes.filter fun (n : Node) => n.failed
    else match kins.findSome? c.nodeOf with | some n => [n] | none => []
  gone.foldl (fun s n => s.removeNode k n) s

/-- The address of a TDLD and its checks (R348). -/
def tdldSum (base : Word) (off : BitVec 7) : Int := eaSum base (32 * off.toInt)

def tdldFault (x : Int) : Option Trap :=
  if x % 32 ≠ 0 then some (precise cALIGN (faddrOf x))
  else if !eaOk x || !(spaceOf x.toNat == 0 || spaceOf x.toNat == 1 || spaceOf x.toNat == 3) || !inRange false x.toNat 32 then
    some (precise cADDR (faddrOf x))
  else none

/-- TDLD after its checks (R348): the demand of the bytes, then the register's write is in flight, and the T engine reads the bytes once it accepts it (03 R65). -/
def State.tileTdld (s : State) (k : Nat) (a : TArgs) (rd : BitVec 5) (off : BitVec 7) : SlotRes :=
  let ea := (tdldSum a.base off).toNat
  let lat := spaceLat (spaceOf ea)
  let op := EngOp.tdld rd.toNat (scratchPhys false k ea) lat
  s.demandBlock k ((s.ctx k).readGoals [areaOf ea 32])
    (let f := { s.flight k (.td rd.toNat) (BitVec.allOnes 32) 0 lat false .tlc with seq := a.seq }
    let s1 := s.modCtx k fun c => { c with tlc := if a.held then c.tlc else c.tlc + 1, flights := c.flights ++ [f] }
    if !a.held then s.withRoom k 3 (.done (s1.submit k op))
    else
      let b := { s.bufOp k op with seq := a.seq }
      if s.canAccept k b then .done (s1.accept k b) else .stall .engine s)

/-- ACZ (R364). -/
def State.tileAcz (s : State) (k : Nat) (a : TArgs) (acc : BitVec 3) : SlotRes :=
  s.demandBlock k ((s.ctx k).bankUsers acc.toNat) (s.afterStores k a.seq (s.forCycles k 2
    (.done (s.modCore (coreOf k) fun co => co.mapBank acc.toNat 16 32 fun _ _ _ => 0))))

/-- SCRIBE begins: every node is demanded (in a handler the failed ones are passed over, 16 R339), STATE becomes 10, and the context waits for SCRIBE_COMPLETE (07 R148, R149). -/
def State.tileScribe (s : State) (k : Nat) : SlotRes :=
  s.demandBlock k (s.ctx k).allGoals
    (let start := fun (j : Nat) (s : State) => s.modCore (coreOf j) fun co => { co with kcal := setBits co.kcal 0 2 2, scribe := some (j, s.time) }
    .block .scribe (if (s.ctx k).prot then start (k + 4) (start k s) else start k s))

/-- The instructions that act as the T engine takes them, and for which the slot waits. -/
def inPlace : Instr → Bool
  | .force .. | .tstore .. | .tdrop .. | .acz .. | .scribe .. => true
  | _ => false

/-- What a T-slot instruction waits for before it can act: the write of a descriptor register that it names, or, where its node keeps a copy, the TDLD's read; the T
engine; an acquire (R348; 03 R65; 13 R265). Its slot is uncommitted meanwhile, within SLACK without blocking the context (DEDUCED, log entry 89). -/
def State.tileWait (s : State) (k : Nat) (i : Instr) (a : TArgs) : Option Wait :=
  let c := s.ctx k
  match c.tdBusy (!a.held && !inPlace i) (tileTds i) with
  | some n => some (if a.held || inPlace i then .td n else .tdRead n)
  | none => if (a.held || inPlace i) && (s.acquiring k a.seq || !(c.waiting 3).isEmpty) then some .turn else none

/-- A T-slot instruction whose guard is true acts, at its slot or at the commit of its segment. -/
def State.tileAct (s : State) (k : Nat) (i : Instr) (a : TArgs) : SlotRes :=
  match s.tileWait k i a with
  | some w => .stall w s
  | none =>
    match i with
    | .mma _ strm ra rb acc _ | .mmaz _ strm ra rb acc _ => s.tileMma k a i strm ra rb acc
    | .rmin _ d x _ | .rmax _ d x _ => s.tileRace k a i d x (some 1)
    | .rsort _ d x _ => s.tileRace k a i d x none
    | .rtopk _ d x k1 _ => s.tileRace k a i d x (some (k1.toNat + 1))
    | .wload _ b _ => s.tileWload k a i b
    | .wswap _ _ => s.append k a i 0 0 0 0 1
    | .tepi _ d bias _ _ b acc _ => s.tileTepi k a i d bias b acc
    | .tew _ d x b op _ => s.tileTew k a i d x b op
    | .tdrain _ q _ n1 acc _ => s.tileTdrain k a i q n1 acc
    | .force _ d mode acc => s.tileForce k d mode acc
    | .tstore _ d x bank rm sat acc t => s.tileTstore k a t d x bank rm sat acc
    | .tdrop _ all _ => .done (s.tileTdrop k all a.kins)
    | .tdld _ d _ off => s.tileTdld k a d off
    | .acz _ acc => s.tileAcz k a acc
    | .scribe _ => s.tileScribe k
    | _ => .done s

/-! ### The slot (R342, R349; 03 R53) -/

/-- APPC: the resume point of the bundle with SLOTRES 3 (16 R324). -/
def Ctx.appc (c : Ctx) : Word := match c.run with | some r => mkRp r.xb.addr 3 r.xb.back r.xb.bidx | none => rpAt c.pc 3

/-- An operation that the open segment holds will produce one of the kins. -/
def Ctx.heldKin (c : Ctx) (kins : List (Nat × Nat)) : Bool := kins.any fun kb => c.held.any fun (b : BufOp) => b.op.produces kb

/-- A command that enters its engine, or that its segment holds. -/
def State.enterCmd (s : State) (k : Nat) (held : Bool) (m : Cmd) : State :=
  if held then s.modCtx k fun c => { c with held := c.held ++ [s.bufOp k (.copy m)] } else s.submit k (.copy m)

/-- A false-guarded T slot that names a kout: the token is produced, with the OR of its kins' ERR, when they are (03 R53). Where a held operation produces one of them,
its segment holds it too, and it demands the kins' nodes at the commit. -/
def State.passTokens (s : State) (k : Nat) (t : Toks) : State :=
  let c := s.ctx k
  let m : Cmd :=
    { id := 0, kind := .tok, k := k, gen := c.gen, region := c.region
      desc := ⟨0, 0, [], [], [], 0, false, 0, 0, 0, false, false, 0, 0, false⟩
      mapped := c.mapped, gv := none, kins := kinsOf c.tok t, kout := t.kout.toNat, koutBind := c.bindSrc + 1, seq := c.seqNow, started := false, next := 0, total := 0
      code := none, data := [], reads := [], waitLanding := false, tries := 0, acceptedAt := 0 }
  (s.modCtx k fun c => c.bindTok t.kout.toNat).enterCmd k (c.heldKin m.kins) m

/-- The kin field that TDROP names is a kin; the other instructions name theirs. -/
def Ctx.tileKins (c : Ctx) (i : Instr) : List (Nat × Nat) :=
  match i with
  | .tdrop _ _ kin0 => if kin0 = 0 then [] else [(kin0.toNat, (c.tok kin0.toNat).bind)]
  | _ => kinsOf c.tok (tileToks i)

/-- PROMOTE as it stood before the bundle in progress (08 R176). -/
def State.promoteAtIssue (s : State) (k : Nat) : Nat := match (s.ctx k).run with | some r => r.promote0 | none => (s.core (coreOf k)).promote.toNat

/-- A T slot: WINDOW, the guard, TDLD's own checks, then the instruction acts, or a schedule segment holds it. SCRIBE runs at its slot also in a segment: 07 R148 has a
rewind of the segment run it again, where R342 holds T-slot instructions to the commit (DESIGN CHOICE, log entry 100). -/
def tileRes (g : Guard) (i : Instr) (base : Option (BitVec 6 × BitVec 7)) (s : State) : Res :=
  .next (s.slot fun k =>
    let c := s.ctx k
    let t := tileToks i
    match c.tileWindow i with
    | some f => .fault f
    | none =>
      if !s.guard k g then
        (if t.kout = 0 then .done s else s.demandBlock k (c.kinGoals (kinsOf c.tok t)) (s.withRoom k 3 (.done (s.passTokens k t))))
      else
        let b := match base with | some x => s.readS k x.1 | none => 0
        match (match base with | some x => tdldFault (tdldSum b x.2) | none => none) with
        | some f => .fault f
        | none =>
          let rf := pswRfast c.sysAtIssue.psw
          let ps := s.promoteAtIssue k
          let act :=
            if c.seg.isSome && (match i with | .scribe _ => false | _ => true) then
              let s1 := s.modCtx k fun c => { c.bindTok t.kout.toNat with tlc := if base.isSome then c.tlc + 1 else c.tlc }
              .done (s1.modCtx k fun e =>
                { e with held := e.held ++ [s1.bufOp k (.tile i c.appc b (c.tileKins i) (if t.kout = 0 then 0 else c.bindSrc + 1) rf ps)] })
            else s.tileAct k i ⟨c.appc, b, c.tileKins i, if t.kout = 0 then 0 else c.bindSrc + 1, false, c.seqNow, rf, ps⟩
          if base.isSome then s.counted k .tlc act else act)

/-- MMA (R351). -/
def execMma (g : Guard) (strm : Bool) (tda tdb : BitVec 5) (acc : BitVec 3) (k : Toks) (s : State) : Res := tileRes g (.mma g strm tda tdb acc k) none s

/-- MMAZ (R351). -/
def execMmaz (g : Guard) (strm : Bool) (tda tdb : BitVec 5) (acc : BitVec 3) (k : Toks) (s : State) : Res := tileRes g (.mmaz g strm tda tdb acc k) none s

/-- RMIN (R356). -/
def execRmin (g : Guard) (tdd tda : BitVec 5) (k : Toks) (s : State) : Res := tileRes g (.rmin g tdd tda k) none s

/-- RMAX (R356). -/
def execRmax (g : Guard) (tdd tda : BitVec 5) (k : Toks) (s : State) : Res := tileRes g (.rmax g tdd tda k) none s

/-- RSORT (R356). -/
def execRsort (g : Guard) (tdd tda : BitVec 5) (k : Toks) (s : State) : Res := tileRes g (.rsort g tdd tda k) none s

/-- RTOPK (R356). -/
def execRtopk (g : Guard) (tdd tda k1 : BitVec 5) (k : Toks) (s : State) : Res := tileRes g (.rtopk g tdd tda k1 k) none s

/-- WLOAD (R354). -/
def execWload (g : Guard) (tdb : BitVec 5) (k : Toks) (s : State) : Res := tileRes g (.wload g tdb k) none s

/-- WSWAP (R355). -/
def execWswap (g : Guard) (k : Toks) (s : State) : Res := tileRes g (.wswap g k) none s

/-- TEPI (R358). -/
def execTepi (g : Guard) (tdd : BitVec 5) (bias : Bool) (fn : BitVec 2) (sat : Bool) (tdb : BitVec 5) (acc : BitVec 3) (k : Toks) (s : State) : Res :=
  tileRes g (.tepi g tdd bias fn sat tdb acc k) none s

/-- TEW (R359). -/
def execTew (g : Guard) (tdd tda tdb : BitVec 5) (op : BitVec 3) (k : Toks) (s : State) : Res := tileRes g (.tew g tdd tda tdb op k) none s

/-- TDRAIN (R360). -/
def execTdrain (g : Guard) (q : BitVec 3) (row n1 : BitVec 4) (acc : BitVec 3) (k : Toks) (s : State) : Res := tileRes g (.tdrain g q row n1 acc k) none s

/-- FORCE (R361). -/
def execForce (g : Guard) (tdd : BitVec 5) (mode : BitVec 2) (acc : BitVec 3) (s : State) : Res := tileRes g (.force g tdd mode acc) none s

/-- TSTORE (R362). -/
def execTstore (g : Guard) (tdd tda : BitVec 5) (bank : Bool) (rm : RMode) (sat : Bool) (acc : BitVec 3) (k : Toks) (s : State) : Res :=
  tileRes g (.tstore g tdd tda bank rm sat acc k) none s

/-- TDROP (R363). -/
def execTdrop (g : Guard) (all : Bool) (kin0 : BitVec 4) (s : State) : Res := tileRes g (.tdrop g all kin0) none s

/-- TDLD (R348). -/
def execTdld (g : Guard) (tdd : BitVec 5) (base : BitVec 6) (off : BitVec 7) (s : State) : Res := tileRes g (.tdld g tdd base off) (some (base, off)) s

/-- ACZ (R364). -/
def execAcz (g : Guard) (acc : BitVec 3) (s : State) : Res := tileRes g (.acz g acc) none s

/-- SCRIBE (R365, 07 R148). -/
def execScribe (g : Guard) (s : State) : Res := tileRes g (.scribe g) none s

end Sys2Proof.Machine
end

