-- ==== Sys2Proof/Machine/Commit.lean ====
section
/-!
DEFINITION. Schedule segments: the commit of held operations (19_events R393, 12 R237, 16 R342), the instructions that end a segment (04 R94), and
the rewind (19 R394, R395).
-/
namespace Sys2Proof.Machine

/-! ### Commit (19 R393) -/

/-- The oldest held operation of context `k`, if it is for engine `eng` and nothing of that engine is in front of it. -/
def State.heldFor (s : State) (k eng : Nat) : Option BufOp :=
  let c := s.ctx k
  match c.held with
  | b :: _ => if c.committing && c.commitAt ≤ s.cyc k && b.eng == eng && (c.waiting eng).isEmpty then some b else none
  | [] => none

/-- The last held operation has performed, and the pair's signatures have matched: the segment has committed, and a trap that waited for it is entered (R388, R393). -/
def State.commitDone (s : State) (k : Nat) : State :=
  let c := s.ctx k
  if c.committing && c.held.isEmpty && c.commitAt ≤ s.cyc k then
    let s1 := s.putCtx k { c with committing := false, seg := none, pendTrap := none }
    match c.pendTrap with
    | some p => s1.enterTrap k p.trap p.epc p.slotres p.fslot p.xfer
    | none => s1
  else s

/-- The oldest held operation leaves the segment, whose rewind point is gone with it (19 R394; DEDUCED, log entry 51). -/
def State.popHeld (s : State) (k : Nat) : State :=
  s.modCtx k fun c => { c with held := c.held.tail, seg := c.seg.map fun (g : Seg) => { g with performed := true } }

/-- What a DRAIN (`bar` none) or a BARA of bundle `seq` has waited for: the operations before it have retired (12 R246; 13 R266). -/
def State.syncReady (s : State) (k seq : Nat) (bar : Option Nat) : Bool :=
  s.allRetired k seq && (bar.isSome || (!(s.ctx k).stq.any (fun (p : PendStore) => p.seq ≤ seq)
    && !s.cmds.any fun (m : Cmd) => m.kind != .tok && m.k == k && m.gen == (s.ctx k).gen && decide (m.seq ≤ seq)))

/-- The oldest held operation acts at the commit, as at its slot (12 R237; 16 R342): a store after its demands, a copy or an LDL when its engine accepts it, an LDL
once the stores of its segment have performed (04 R94), a DRAIN or a BARA once what precedes it has retired. -/
def State.heldActs (s : State) (k : Nat) (b : BufOp) : SlotRes :=
  match b.op with
  | .tile i appc base kins kb rfast promote => s.tileAct k i ⟨appc, base, kins, kb, true, b.seq, rfast, promote⟩
  | .store o => s.demandStore k o (if s.canAccept k b then .done (s.accept k b) else .stall .engine s)
  | .load _ => if s.canAccept k b && (s.ctx k).stq.isEmpty then .done (s.accept k b) else .stall .engine s
  | .copy m => s.demandBlock k ((s.ctx k).kinGoals m.kins) (if s.canAccept k b then .done (s.accept k b) else .stall .engine s)
  | .sync bar => s.demandBlock k (s.ctx k).scratchGoals
      (if s.syncReady k b.seq bar then .done (match bar with | some n => s.arrive k n | none => s) else .stall .counters s)
  | _ => if s.canAccept k b then .done (s.accept k b) else .stall .engine s

/-- The commit goes on by one operation. An operation that has to wait blocked, for its demand (12 R236) or for what follows it, blocks the context. -/
def State.commitStep (s : State) (k : Nat) (b : BufOp) : State :=
  let c := s.ctx k
  if c.openGoals c.goalSkip c.goals ≠ [] then s
  else
    match s.heldActs k b with
    | .done s1 => s1.popHeld k
    | .fault t => s.commitFault k t b.rp
    | .block w s1 => s1.modCtx k fun c =>
      let c1 := if w = .demand then { c with goalHeld := true } else c
      if c.status = .running then { c1 with status := .blocked, since := s.cyc k, wait := if c.wait = .none then w else c.wait } else c1
    | .stall w s1 => if w = .demand then s1.modCtx k fun c => { c with goalHeld := true } else s1
    | .left s1 => s1

/-- The oldest held operation can act, make its demands, or block its context. -/
def State.commitReady (s : State) (k : Nat) (b : BufOp) : Bool :=
  let c := s.ctx k
  (c.openGoals c.goalSkip c.goals).isEmpty &&
    match s.heldActs k b with
    | .done _ => true
    | .fault _ => true
    | .block w _ => w == .demand || c.status == .running
    | .stall w _ => w == .demand
    | .left _ => false

/-- ENGINE_ACCEPT: an engine accepts the oldest instruction in front of it, from its elastic buffer or from a segment that commits (03 R65;
19 R393). Number 0 stands for what a segment holds of the Y slot. -/
def State.engineAccept (s : State) (k eng : Nat) : State :=
  if !((s.ctx k).waiting eng).isEmpty then s.acceptFirst k eng
  else match s.heldFor k eng with
    | some b => (s.commitStep k b).commitDone k
    | none => s

/-- Context `k`'s next command for the copy command queue, which is granted at the end of the cycle (14 R301). -/
def State.grantsLast (s : State) (k : Nat) : Bool :=
  match (s.ctx k).waiting 6 with
  | b :: _ => b.op.queued
  | [] => match s.heldFor k 6 with | some b => b.op.queued && (match s.heldActs k b with | .done _ => true | _ => false) | none => false

/-- An engine can do so. -/
def State.engineReady (s : State) (k eng : Nat) : Bool :=
  match (s.ctx k).waiting eng with
  | b :: _ => s.canAccept k b
  | [] => match s.heldFor k eng with | some b => s.commitReady k b | none => false

/-- The open segment commits now: at once when nothing is held and no signature is awaited. -/
def State.startCommit (s : State) (k : Nat) : State :=
  (s.modCtx k fun c => if c.seg.isSome then c.commits (s.cyc k) else c).commitDone k

/-- An instruction that acts outside its segment: the segment commits first, and its stores perform (04 R94). The code that lies in no segment is not
concerned. -/
def State.outside (s : State) (k : Nat) (f : SlotRes) : SlotRes :=
  let c := s.ctx k
  if c.mustCommit then .stall .commit (s.startCommit k)
  else if c.run.any (fun r => r.segEnd) && !c.stq.isEmpty then .stall .performed s
  else f

/-- The segment is over once such an instruction acts. -/
def State.closeSeg (s : State) (k : Nat) : State := s.modCtx k fun c => { c with seg := none }

/-! ### Rewind (19 R394, R395) -/

/-- The counts of a held operation are withdrawn (18 R373). -/
def Ctx.withdraw (c : Ctx) (b : BufOp) : Ctx :=
  match b.op with
  | .store _ => { c with
      stc := c.stc - 1
      flights := c.flights.filter fun (f : Flight) => !(f.seq == b.seq && !f.acc && (f.ctr == .stc || f.ctr == .stp)) }
  | .load _ => { c with
      ldc := c.ldc - 1
      flights := c.flights.filter fun (f : Flight) => !(f.seq == b.seq && !f.acc && (f.ctr == .ldc || f.ctr == .ldp)) }
  | .tile i .. => { c with tlc := match i with | .tdld .. => c.tlc - 1 | _ => c.tlc }
  | .copy m =>
    match m.kind with
    | .tok => c
    | .tmv | .noneT => { c with tlc := c.tlc - 1 }
    | _ => { c with cpc := c.cpc - 1 }
  | .result .. => c
  | .sync _ => c
  | .append .. => c
  | .tdld .. => c

/-- The token a held operation would produce. -/
def BufOp.kout (b : BufOp) : Nat :=
  match b.op with
  | .tile i .. => (tileToks i).kout.toNat
  | .copy m => m.kout
  | _ => 0

/-- The slot whose bundle a rewind discards demands no more, but what it has demanded runs to its end, as a landing's demand does (16 R330, R342). -/
def Ctx.orphan (c : Ctx) : Ctx :=
  { c with
    landGoals := c.landGoals ++ c.asked, goals := [], goalHeld := false, goalImpl := false
    landImpl := if c.goalImpl && !c.asked.isEmpty then c.landImpl ++ [(0, c.asked.map fun g => g.seq)] else c.landImpl
    begun := c.begun.map fun b => (b.1, b.2.1, true), raceBegun := c.raceBegun.map fun b => (b.1, b.2.1, true) }

def Core.orphan (co : Core) (k : Nat) : Core :=
  let f := fun (j : Job) => if j.k = k then { j with landing := true } else j
  { co with job := co.job.map f, race := co.race.map f }

/-- The rows that the segment has popped return to the head of their queues (14 R300). A TDRAIN from before the segment that a pop has run stays run (16 R342), and
so do the rows that it has pushed (DEDUCED, log entry 106). -/
def Core.unpop (co : Core) (popped : List (Nat × Vec)) : Core :=
  { co with rq := popped.foldl (fun t p => put t p.1 (p.2 :: lookD t p.1 [])) co.rq }

/-- Rewind (R394): UECC2 without a rewind point, after one rewind of the segment, or once its commit has performed an operation. An LDL acts after its segment has
committed, so that a segment that can rewind holds no lock of its own. -/
def State.rewind (s : State) (k : Nat) : State :=
  let c := s.ctx k
  match c.seg with
  | none => s.regionFatal c.region cUECC2
  | some g =>
    if g.rewound || g.performed then s.regionFatal c.region cUECC2
    else
      let ops := c.held ++ (match c.run with | some r => r.ldl.toList | none => [])
      let c1 := (ops.foldl Ctx.withdraw c).orphan
      let toks := ops.foldl (fun (t : Tab Token) b => if b.kout = 0 then t else put t b.kout (lookD g.toks b.kout Token.reset)) c1.toks
      let s1 := (s.leaveQueues k).putCtx k { c1.clearLatches with
        toks := toks, lcnt := g.lcnt, lbody := g.lbody, loopRp := g.loopRp, held := [], wait := .none, run := none, pc := g.point, refetch := true, redirAt := s.cyc k, quick := false
        status := if c.status = .blocked then .ready else c.status
        sys := { c.sys with psw := setBits c.sys.psw 3 1 0 }
        seg := some { g with rewound := true, bundles := 0, stores := 0, popped := [] }
        committing := false, pendTrap := none
        ending := false, endRp := none, boundary := false, stepDue := false, inStep := false, reopen := false }
      s1.modCore (coreOf k) fun co => if c.kown then (co.orphan k).unpop g.popped else co.orphan k

end Sys2Proof.Machine
end

