-- ==== Sys2Proof/Machine/Pages.lean ====
section
/-!
DEFINITION. Generations of HBM and of the second tier (11_generations R217 to R229), virtual addresses and their translation at the owner
(10_memories R205 to R211; 15_tables R314), and writes that carry a stamp.
-/
namespace Sys2Proof.Machine

/-! ### Generations (11 R218, R225, R226) -/

/-- The age of a generation number (11 R218). -/
def State.age (s : State) (n : BitVec 16) : Nat := (s.gencur - n).toNat

/-- The birth generation of a granule (11 R215). -/
def State.birth (s : State) (q : Nat) : BitVec 16 := lookD s.births q 0

/-- A byte of a preserved version. -/
def Version.byte (v : Version) (a : Nat) : Byte :=
  match look? v.cells a with
  | some b => b
  | none => (Memory.unlisted ⟨[], v.epoch, false⟩ a).getD (Config.undefByte v.epoch a)

/-- The version of a granule that holds generation `x` (11 R226). -/
def State.versionFor (s : State) (q : Nat) (x : BitVec 16) : Option Version :=
  s.versions.find? fun (v : Version) => v.granule == q && s.age v.t ≤ s.age x && s.age x ≤ s.age v.f

/-- ViewRead: a byte as it stood in generation `gv`, or as it stands (11 R226). -/
def State.viewByte (s : State) (gv : Option (BitVec 16)) (a : Nat) : Byte :=
  match gv with
  | none => s.mem.read a
  | some x =>
    if !isGen a || s.age x ≤ s.age (s.birth (granuleOf a)) then s.mem.read a
    else match s.versionFor (granuleOf a) x with | some v => v.byte a | none => s.mem.read a

def State.viewBytes (s : State) (gv : Option (BitVec 16)) (a n : Nat) : List Byte := (List.range n).map fun i => s.viewByte gv (a + i)

def State.viewNat (s : State) (gv : Option (BitVec 16)) (a n : Nat) : Nat := leNat (s.viewBytes gv a n)

/-- A generation that can be read: the current one or a live snapshot. -/
def State.genLive (s : State) (x : BitVec 16) : Bool := x == s.gencur || s.live.contains x

/-- A write to the granule must first preserve it (11 R225). -/
def State.needsVersion (s : State) (q : Nat) : Bool :=
  0 < s.age (s.birth q) && s.live.any fun x => s.age x ≤ s.age (s.birth q)

/-- The granule as it stands, as a version (11 R225). A second-tier granule is preserved straight into the snapshot store. -/
def State.versionOf (s : State) (q : Nat) : Version :=
  { granule := q, f := s.birth q, t := s.gencur - 1
    cells := s.mem.cells.filter fun c => granuleOf c.1 == q
    epoch := s.mem.epoch, die := genDie (q * 65536), stored := decide (0x6000 ≤ tagOf (q * 65536)) }

/-- The reserve of a memory die has room for a granule (11 R216). -/
def State.reserveRoom (s : State) (d : Nat) : Bool :=
  countIf s.versions (fun (v : Version) => v.die == d && !v.stored) < (s.die d).reserveGiB * 16384

/-- The snapshot store has room for a granule (11 R216; a full store moves nothing and holds what it would take: DESIGN CHOICE, log entry 23). -/
def State.storeRoom (s : State) : Bool := countIf s.versions (fun (v : Version) => v.stored) < s.storeGiB.sum * 16384

/-- A granule can be preserved now: in the reserve of its die, or in the snapshot store (11 R225). -/
def State.versionRoom (s : State) (q : Nat) : Bool := if tagOf (q * 65536) < 0x6000 then s.reserveRoom (genDie (q * 65536)) else s.storeRoom

/-- The granules of a list that writes would preserve can all be preserved now (11 R225). -/
def State.versionsRoom (s : State) (qs : List Nat) : Bool :=
  let kept := qs.filter s.needsVersion
  let stored := countIf kept fun q => decide (0x6000 ≤ tagOf (q * 65536))
  (stored = 0 || decide (countIf s.versions (fun (v : Version) => v.stored) + stored ≤ s.storeGiB.sum * 16384)) &&
    Config.memorySockets.all fun d =>
      let n := countIf kept fun q => tagOf (q * 65536) < 0x6000 && genDie (q * 65536) == d
      n = 0 || decide (countIf s.versions (fun (v : Version) => v.die == d && !v.stored) + n ≤ (s.die d).reserveGiB * 16384)

/-- StampedWrite once nothing holds it (11 R225). -/
def State.performGen (s : State) (q : Nat) (cells : List Host.Cell) : State :=
  let s1 := if s.needsVersion q then { s with versions := s.versions ++ [s.versionOf q], presv := s.presv + 1 } else s
  { s1 with births := put s1.births q s1.gencur, mem := s1.mem.writes cells }

/-- An earlier write to the granule waits for the reserve (11 R228). -/
def State.heldBehind (s : State) (q : Nat) : Bool := s.heldWrites.any fun (h : HeldWrite) => !h.forCut && h.cells.any fun c => granuleOf c.1 == q

/-- A write that must wait for the reserve, or behind one that does (11 R228). -/
def State.mustHold (s : State) (q : Nat) : Bool := s.heldBehind q || (s.needsVersion q && !s.versionRoom q)

/-- A cut has reached the write sources (11 R221). -/
def State.cutSent (s : State) : Bool := match s.cut with | some c => c.sent | none => false

/-- A write to one granule, or to a memory without generations, with its stamp (11 R220, R223, R225); `reads`: what its command has read for it. -/
def State.stampedWrite (s : State) (cmd region : Nat) (cells : List Host.Cell) (reads : List (Nat × Nat) := []) : State :=
  match cells with
  | [] => s
  | c :: _ =>
    let held := fun (forCut : Bool) (stamp : BitVec 16) =>
      { s with heldWrites := s.heldWrites ++ [⟨cmd, genDie c.1, stamp, region, forCut, cells, reads⟩] }
    if !isGen c.1 then { s with mem := s.mem.writes cells }
    else if s.cutSent then held true (s.gencur + 1)
    else if s.mustHold (granuleOf c.1) then held false s.gencur
    else s.performGen (granuleOf c.1) cells

/-- A write of firmware to virtual memory, granule by granule, with its stamp (11 R220). -/
def State.firmwareWrite (s : State) (r : Nat) (cells : List Host.Cell) : State :=
  (cells.splitBy fun x y => granuleOf x.1 == granuleOf y.1).foldl (fun s c => s.stampedWrite 0 r c) s

/-- A snapshot leaves the live set; versions that no live snapshot needs are discarded (11 R219). -/
def State.dropSnap (s : State) (x : BitVec 16) : State :=
  let live := s.live.filter fun y => y != x
  { s with
    live := live
    versions := s.versions.filter fun (v : Version) => live.any fun y => s.age v.t ≤ s.age y && s.age y ≤ s.age v.f }

/-- Every snapshot is dropped and GENCUR advances by 8 (11 R228, 20 R407). A cut in progress closes the new generation (DESIGN CHOICE, log entry 77). -/
def State.resetGens (s : State) : State :=
  { s with live := [], versions := [], gencur := s.gencur + 8, cut := s.cut.map fun c => { c with g := s.gencur + 8 } }

/-! ### Virtual addresses (10 R205 to R210) -/

/-- Bytes of the second tier behind an I/O die (20 R411). -/
def State.tierBytes (s : State) (die : Nat) : Nat :=
  ((List.range 4).map fun p => s.cxlGiB.getD ((if die = 15 then 4 else 0) + p) 0).sum * 2 ^ 30

/-- Bytes of the second tier behind an I/O die that the snapshot store takes (11 R216). -/
def State.storeBytes (s : State) (die : Nat) : Nat := s.storeGiB.getD (if die = 15 then 1 else 0) 0 * 2 ^ 30

/-- The memories of 10 R200 hold the byte at a physical address that a page table or a firmware choice names. The reserve of a memory die and the snapshot store
cannot be mapped (11 R216): they lie at the top of their memories, DESIGN CHOICE, log entry 23. -/
def State.memHas (s : State) (a : Nat) : Bool :=
  if tagOf a < 0x5000 then true
  else if tagOf a < 0x6000 then decide (offOf a < (128 - (s.die (genDie a)).reserveGiB) * 2 ^ 30)
  else if tagOf a < 0x7000 then decide (offOf a + s.storeBytes (tagOf a - 0x6000) < s.tierBytes (tagOf a - 0x6000))
  else true

/-- What a virtual address answers: a byte of memory with the write permission, an attached code, or a memory that does not exist. -/
inductive Xlat where
  | at_ (a : Nat) (w : Bool)
  | bad (code : BitVec 8)
  | nowhere
deriving DecidableEq, Repr

def vaDie (va : Word) : Nat := bits va.toNat 52 4
def vaOff (va : Word) : Nat := bits va.toNat 0 52

/-- The memory that holds the page tables and pages of a binding entry (15 R313). -/
def DieBind.tag (d : DieBind) : Nat := if d.kind = .io then tierTag d.socket else hbmTag d.socket

/-- A page-table entry that is valid and whose reserved fields are zero (15 R314). -/
def pteOk (e : Nat) : Bool := e.testBit 0 && bits e 52 12 == 0 && bits e 6 6 == 0

/-- A non-leaf entry: LEAF and the leaf-only fields are zero, the next table is aligned. -/
def pteTable (e align : Nat) : Bool := pteOk e && bits e 1 5 == 0 && bits e 0 52 / 4096 * 4096 % align == 0

/-- A leaf entry of a page of `size` bytes. -/
def pteLeaf (d : DieBind) (e size : Nat) : Bool :=
  pteOk e && e.testBit 1 && bits e 0 52 / 4096 * 4096 % size == 0 && bits e 3 2 ≤ (if d.kind = .io then 1 else 2)

/-- The frame or table address of an entry. -/
def pteAddr (e : Nat) : Nat := bits e 12 40 * 4096

/-- The byte of a page that a leaf maps. -/
def State.leafByte (s : State) (d : DieBind) (e off size : Nat) : Xlat :=
  let tag := if d.kind = .io ∧ bits e 3 2 = 1 then hostTag (if d.socket = 15 then 1 else 0) else d.tag
  let a := phys tag (pteAddr e + off % size)
  if s.memHas a then .at_ a (e.testBit 2) else .nowhere

/-- The walk of a three-level page table, read as it stood in `gv` (15 R314, 11 R226). -/
def State.walk (s : State) (d : DieBind) (gv : Option (BitVec 16)) (off : Nat) : Xlat :=
  let entry := fun (table i : Nat) => phys d.tag (table + 8 * i)
  let p0 := entry d.root (bits off 40 12)
  if !s.memHas p0 then .nowhere
  else
    let e0 := s.viewNat gv p0 8
    if !pteTable e0 0x40000 then .bad cPAGE
    else
      let p1 := entry (pteAddr e0) (bits off 25 15)
      if !s.memHas p1 then .nowhere
      else
        let e1 := s.viewNat gv p1 8
        if pteLeaf d e1 0x2000000 then s.leafByte d e1 off 0x2000000
        else if !pteTable e1 0x1000 then .bad cPAGE
        else
          let p2 := entry (pteAddr e1) (bits off 16 9)
          if !s.memHas p2 then .nowhere
          else
            let e2 := s.viewNat gv p2 8
            if pteLeaf d e2 0x10000 then s.leafByte d e2 off 0x10000 else .bad cPAGE

/-- A virtual address translated for region `r` (10 R206, R209). A page of host memory belongs to no generation: the current tables translate it, whatever
generation is read (11 R230). -/
def State.translate (s : State) (r : Nat) (gv : Option (BitVec 16)) (va : Word) : Xlat :=
  if bits va.toNat 56 8 ≠ 0 then .bad cVADDR
  else
    match (s.region r).rcb.dbt[vaDie va]? with
    | none => .bad cVADDR
    | some d =>
      match d.kind with
      | .absent => .bad cVADDR
      | .compute => if bits va.toNat 27 25 ≠ 0 then .bad cVADDR else .at_ (phys (dieTag d.socket) (bits va.toNat 0 27)) true
      | _ =>
        if gv.any fun x => !s.genLive x then
          match s.walk d none (vaOff va) with
          | .at_ a w => if isGen a then .bad cGENGONE else .at_ a w
          | _ => .bad cGENGONE
        else
          match gv, s.walk d none (vaOff va) with
          | some _, .at_ a w => if isGen a then s.walk d gv (vaOff va) else .at_ a w
          | _, _ => s.walk d gv (vaOff va)

/-! ### Page tables as firmware writes them (10 R211 to R213; 15 R314) -/

/-- Where the walk of a virtual address finds its entries: the level-0 entry, the level-1 entry and the level-2 entry, as far as they exist. -/
structure PtePath where
  p0 : Nat
  p1 : Option Nat
  p2 : Option Nat
deriving DecidableEq, Repr

def State.ptePath (s : State) (d : DieBind) (off : Nat) : PtePath :=
  let p0 := phys d.tag (d.root + 8 * bits off 40 12)
  let e0 := s.mem.nat p0 8
  if !pteTable e0 0x40000 then ⟨p0, none, none⟩
  else
    let p1 := phys d.tag (pteAddr e0 + 8 * bits off 25 15)
    let e1 := s.mem.nat p1 8
    if !pteTable e1 0x1000 then ⟨p0, some p1, none⟩ else ⟨p0, some p1, some (phys d.tag (pteAddr e1 + 8 * bits off 16 9))⟩

/-- The leaf entry of a page that is mapped, and the size of the page. -/
def State.leafAt (s : State) (d : DieBind) (off : Nat) : Option (Nat × Nat) :=
  match (s.ptePath d off).p1, (s.ptePath d off).p2 with
  | some p1, none => if pteLeaf d (s.mem.nat p1 8) 0x2000000 then some (p1, 0x2000000) else none
  | some _, some p2 => if pteLeaf d (s.mem.nat p2 8) 0x10000 then some (p2, 0x10000) else none
  | _, _ => none

/-- A write of firmware to a page table, with its stamp (11 R217, R220). -/
def State.writePte (s : State) (r a e : Nat) : State := s.stampedWrite 0 r (cellsAt a (leBytes 8 e))

/-- A binding entry of a memory or I/O die of a live region. -/
def State.pagedDie (s : State) (r v : Nat) : Option DieBind :=
  match (s.region r).rcb.dbt[v]? with
  | some d => if (s.region r).live && (d.kind == .memory || d.kind == .io) then some d else none
  | none => none

/-- The first byte of page `i` of 64 KiB of a region's overflow ring, and whether the ring reaches it. -/
def Rcb.ringPage (r : Rcb) (i : Nat) : Option Word :=
  let a := r.ovrBase.toNat / 65536 * 65536 + 65536 * i
  if a < r.ovrBase.toNat + 64 * r.ovrSlots then some (BitVec.ofNat 64 a) else none

/-- A page of `size` bytes holds slots of the ring. -/
def Rcb.inRing (r : Rcb) (va : Word) (size : Nat) : Bool :=
  decide (r.ovrBase.toNat < va.toNat / size * size + size ∧ va.toNat / size * size < r.ovrBase.toNat + 64 * r.ovrSlots)

/-- A page of the die that `d` binds holds slots of the overflow ring of a live region, under whatever entry of its table that region names the die. -/
def State.ringsAt (s : State) (d : DieBind) (off size : Nat) : Bool :=
  s.regions.any fun e => e.2.live && (List.range 16).any fun v => e.2.rcb.dbt[v]? == some d && e.2.rcb.inRing (BitVec.ofNat 64 (v * 2 ^ 52 + off)) size

/-- A mapped page is pinned (10 R212). -/
def State.pinPage (s : State) (r : Nat) (va : Word) : State :=
  match s.pagedDie r (vaDie va) with
  | none => s
  | some d =>
    match s.leafAt d (vaOff va) with
    | some (p, _) => if (s.mem.nat p 8).testBit 5 then s else s.writePte r p (s.mem.nat p 8 + 32)
    | none => s

/-- The pages of a region's overflow ring are pinned (10 R212; 14 R305). -/
def State.pinRing (s : State) (r : Nat) : State :=
  let rcb := (s.region r).rcb
  (List.range (rcb.ovrSlots / 1024 + 2)).foldl (fun s i => match rcb.ringPage i with | some va => s.pinPage r va | none => s) s

/-- The page tables of a binding entry, as they stood in `gv`, map a page onto granule `q` (15 R314, 11 R226). -/
def State.maps (s : State) (d : DieBind) (gv : Option (BitVec 16)) (q : Nat) : Bool :=
  let entry := fun (table i : Nat) => let p := phys d.tag (table + 8 * i); if s.memHas p then s.viewNat gv p 8 else 0
  let leaf := fun (e size : Nat) => pteLeaf d e size &&
    decide (granuleOf (phys d.tag (pteAddr e)) ≤ q ∧ q < granuleOf (phys d.tag (pteAddr e)) + size / 65536) && !(d.kind == .io && bits e 3 2 == 1)
  (List.range 4096).any fun i0 =>
    let e0 := entry d.root i0
    pteTable e0 0x40000 && (List.range 32768).any fun i1 =>
      let e1 := entry (pteAddr e0) i1
      leaf e1 0x2000000 || (pteTable e1 0x1000 && (List.range 512).any fun i2 => leaf (entry (pteAddr e1) i2) 0x10000)

/-- A page of a live region is mapped onto the granule, now or in a live snapshot. -/
def State.frameUsed (s : State) (q : Nat) : Bool :=
  (none :: s.live.map some).any fun gv => s.regions.any fun e => e.2.live && e.2.rcb.dbt.any fun (d : DieBind) =>
    (d.kind == .memory || d.kind == .io) && tagOf (q * 65536) == d.tag && s.maps d gv q

/-- A byte that firmware or the dispatcher reaches through a region's page tables. -/
def State.vaPhys (s : State) (r : Nat) (va : Word) : Option Nat :=
  match s.translate r none va with
  | .at_ a _ => some a
  | _ => none

end Sys2Proof.Machine
end

