-- ==== Sys2Proof/Machine/Ready.lean ====
section
/-!
DEFINITION. Continuations and their records (15_tables R315 to R317), ready queues and overflow rings (14_queues R303 to R307), dependence counters
(18_counters R375), and the end of grids and regions (02_execution R31).
-/
namespace Sys2Proof.Machine

/-! ### Records (15 R315 to R317) -/

/-- The physical address of a cluster SRAM offset. -/
def clusterPhys (cl : Nat) (a : BitVec 32) : Nat := phys (clusterTag cl) (bits a.toNat 0 28)

/-- The key of a record in the table of continuations. -/
def contKey (cl : Nat) (rec : BitVec 32) : Nat := cl * 2 ^ 32 + rec.toNat

/-- The address of the record pool: the top of cluster SRAM (15 R317). -/
def State.poolBase (s : State) : Nat := 0x12000000 - s.poolKib * 1024

/-- Records of a cluster's pool that are in use. -/
def State.poolUsed (s : State) (cl : Nat) : Nat := countIf s.conts fun e => e.1 / 2 ^ 32 == cl

/-- Free records of a cluster's pool. -/
def State.poolFree (s : State) (cl : Nat) : Nat := s.poolKib * 16 - s.poolUsed cl

/-- A record of the pool that is free. -/
def State.recFree (s : State) (cl : Nat) (rec : BitVec 32) : Bool :=
  s.poolBase ≤ rec.toNat && rec.toNat < 0x12000000 && rec.toNat % 64 == 0 && (look? s.conts (contKey cl rec)).isNone

/-- A field of a record or of a loop record, little-endian. -/
def State.recNat (s : State) (cl : Nat) (rec : BitVec 32) (off n : Nat) : Nat := s.mem.nat (clusterPhys cl rec + off) n

def State.putRec (s : State) (cl : Nat) (rec : BitVec 32) (off n v : Nat) : State :=
  { s with mem := s.mem.putNat (clusterPhys cl rec + off) n v }

/-- A new continuation record (15 R316). -/
def State.newRecord (s : State) (cl : Nat) (rec : BitVec 32) (grid : Nat) (pc : Word) (gidx : Nat) (upred waiton arg : Nat) : State :=
  let g := s.grid grid
  let v := pc.toNat + (s.region g.region).rcbVa.toNat * 2 ^ 64 + g.lrec.toNat * 2 ^ 128 + gidx * 2 ^ 160 + upred * 2 ^ 256
    + waiton * 2 ^ 320 + arg * 2 ^ 448
  { s with mem := s.mem.putNat (clusterPhys cl rec) 64 v, conts := put s.conts (contKey cl rec) ⟨grid, none, false, false⟩ }.modGrid grid
    fun g => { g with conts := g.conts + 1 }

/-- WAITON of a record (15 R316). -/
def State.waitOn (s : State) (cl : Nat) (rec : BitVec 32) : Nat := s.recNat cl rec 0x28 4

/-- What the dispatcher keeps of a record. -/
def State.cont (s : State) (cl : Nat) (rec : BitVec 32) : Cont := lookD s.conts (contKey cl rec) ⟨0, none, false, false⟩

/-- WAITON of a record as the dispatcher rewrites it: what a program wrote beside DC and DCV is dropped (02 R32, 15 R316). -/
def State.setRecErr (s : State) (cl : Nat) (rec : BitVec 32) (err : Bool) : State :=
  { s with conts := put s.conts (contKey cl rec) { s.cont cl rec with err := err } }.putRec cl rec 0x28 4 (bits (s.waitOn cl rec) 0 10 + ofBool err * 2 ^ 10)

/-- WAITON rewritten with the ERR it had (15 R321). -/
def State.keepRecErr (s : State) (cl : Nat) (rec : BitVec 32) : State := s.setRecErr cl rec (s.cont cl rec).err

/-- LINK of a record that enters a queue or a counter's list: what the dispatcher writes there is left open (15 R316; log entry 4). -/
def State.linkRec (s : State) (cl : Nat) (rec : BitVec 32) : State :=
  (s.putRec cl rec 0x2c 4 (s.freeBits.setWidth 32).toNat).bumpFree

/-- A record is linked on a counter (02 R32). -/
def State.linkDc (s : State) (cl n : Nat) (rec : BitVec 32) : State :=
  (s.modCluster cl fun c =>
    let x := lookD c.dcs n DepCtr.reset
    { c with dcs := put c.dcs n { x with links := x.links ++ [rec] } }).linkRec cl rec

/-! ### Ready queues (14 R303, 02 R25, R41) -/

/-- The aging cap in effect: never below the priority (02 R25). -/
def Rcb.cap (r : Rcb) : Nat := Nat.max r.agecap r.prio

/-- The effective priority of a continuation (02 R25). -/
def State.effPrio (s : State) (e : Ready) : Nat :=
  let r := (s.region e.region).rcb
  Nat.min (r.prio + e.aging) r.cap

/-- Entries of one ready queue, and of all of a cluster's. -/
def State.queueLen (s : State) (cl p : Nat) : Nat := countIf s.ready fun (e : Ready) => e.cluster == cl && s.effPrio e == p
def State.clusterLen (s : State) (cl : Nat) : Nat := countIf s.ready fun (e : Ready) => e.cluster == cl

/-- A continuation of the queue waits in an overflow ring. -/
def State.spilledAt (s : State) (cl p : Nat) : Bool :=
  s.regions.any fun r => r.2.ring.any fun (e : Ready) => e.cluster == cl && s.effPrio e == p

/-- The queue that a continuation would enter has no room for it (14 R304). -/
def State.queueFull (s : State) (cl p : Nat) : Bool := 1024 ≤ s.queueLen cl p || 4096 ≤ s.clusterLen cl

/-- A continuation that becomes ready must spill (14 R304). -/
def State.mustSpill (s : State) (e : Ready) : Bool := s.queueFull e.cluster (s.effPrio e) || s.spilledAt e.cluster (s.effPrio e)

/-- The overflow ring of a region is full (14 R306). -/
def State.ringFull (s : State) (r : Nat) : Bool := (s.region r).rcb.ovrSlots ≤ (s.region r).ring.length

/-- A continuation can become ready now (14 R306). -/
def State.canReady (s : State) (e : Ready) : Bool := !(s.mustSpill e && s.ringFull e.region)

/-- The virtual address of slot `i` of a region's overflow ring (14 R305). -/
def Rcb.ringVa (r : Rcb) (i : Nat) : Word := r.ovrBase + BitVec.ofNat 64 (64 * (i % r.ovrSlots))

/-- A record spills to the tail of its region's ring, a write with its stamp (11 R217, R220); a slot that has no mapping fails the region with OVRMAP
(14 R304, R307). -/
def State.spill (s : State) (e : Ready) : State :=
  let r := s.region e.region
  match s.vaPhys e.region (r.rcb.ringVa r.ringTail) with
  | some a =>
    (s.stampedWrite 0 e.region (cellsAt a (s.mem.reads (clusterPhys e.cluster e.record) 64))).modRegion e.region
      fun r => { r with ring := r.ring ++ [e], ringTail := r.ringTail + 1 }
  | none => s.regionFatal e.region cOVRMAP

/-- A continuation enters its ready queue, or spills (14 R303, R304). -/
def State.makeReady (s : State) (e0 : Ready) : State :=
  let e := { e0 with order := s.stamp + 1, tready := s.time }
  let s1 := ({ s with stamp := s.stamp + 1 }.putRec e.cluster e.record 0x30 8 s.time).linkRec e.cluster e.record
  if s.mustSpill e then s1.spill e else { s1 with ready := s1.ready ++ [e] }

/-- The continuation of a record, as it stands in a ready queue. -/
def State.readyOf (s : State) (cl : Nat) (rec : BitVec 32) : Ready :=
  let c := s.cont cl rec
  { cluster := cl, record := rec, region := (s.grid c.grid).region, grid := c.grid, aging := 0, order := 0, tready := 0
    core := c.core, saved := c.saved }

/-! ### Dependence counters (18 R375) -/

def Cluster.dc (cl : Cluster) (n : Nat) : DepCtr := lookD cl.dcs n DepCtr.reset

/-- The continuations linked on a counter become ready with its ERR, in the order they were linked; none if one of them must wait
for a ring slot (02 R32, 14 R306). Those of a region that a spill has failed are gone (14 R307). -/
def State.readyLinks (cl : Nat) (err : Bool) : List (BitVec 32) → State → Option State
  | [], s => some s
  | rec :: r, s =>
    if (look? s.conts (contKey cl rec)).isNone then readyLinks cl err r s
    else
      let s1 := s.setRecErr cl rec err
      let e := s1.readyOf cl rec
      if s1.canReady e then readyLinks cl err r (s1.makeReady e) else none

/-- The region whose overflow ring has no slot for one of these continuations, in their order (14 R306). -/
def State.heldLink (cl : Nat) : List (BitVec 32) → State → Option Nat
  | [], _ => none
  | rec :: r, s =>
    if (look? s.conts (contKey cl rec)).isNone then heldLink cl r s
    else if s.canReady (s.readyOf cl rec) then heldLink cl r (s.makeReady (s.readyOf cl rec))
    else some (s.readyOf cl rec).region

/-- A counter set; at 0 it satisfies the WAITDCs on it (18 R377) and readies what is linked on it. -/
def State.setDc (s : State) (cl n : Nat) (count : BitVec 16) (err : Bool) : Option State :=
  let d := (s.cluster cl).dc n
  let s1 := s.modCluster cl fun c => { c with dcs := put c.dcs n ⟨count, err, if count = 0 then [] else d.links⟩ }
  if count = 0 then State.readyLinks cl err d.links (s1.noteDc cl n) else some s1

/-- A completion counts a counter down (18 R375). -/
def State.countDown (s0 : State) (cl n : Nat) (err : Bool) : Option State :=
  let s := s0.modCluster cl fun c => { c with decAt := put c.decAt n c.cycle }
  let d := (s.cluster cl).dc n
  if d.count = 0 then some (s.modCluster cl fun c => { c with dcs := put c.dcs n { d with err := true } })
  else s.setDc cl n (d.count - 1) (d.err || err)

/-! ### The end of grids and regions (02 R31) -/

/-- GRID_COMPLETE: every issued index and every spawned continuation has exited (02 R31). -/
def State.gridCheck (s : State) (g : Nat) : State :=
  let x := s.grid g
  if x.live && x.issued == x.groups && x.conts == 0 then
    let s1 := s.modGrid g fun x => { x with live := false }
    State.settleRegions s.regions.length
      { s1 with ended := s1.ended ++ [{ port := x.port, queue := x.queue, launch := x.launch, user := x.user, status := 0, detail := 0 }] }
  else s

/-! ### A context leaves its continuation (02 R36) -/

/-- A context that has passed a suspension point: its copy commands that no engine has accepted yet stay in front of theirs (02 R36, 13 R277). -/
def Ctx.passed (c : Ctx) : Ctx :=
  { c.freed with buf := (c.buf.filter fun (b : BufOp) => match b.op with | .copy _ => true | _ => false).map fun (b : BufOp) => { b with limit := 2 ^ 64 } }

/-- The context is free, with its follower in a lockstep pair; an owned Kerf is released and its queues are empty (14 R297). -/
def State.freeCtx (s : State) (k : Nat) : State :=
  let c := s.ctx k
  let s1 := s.putCtx k c.passed
  let s2 := if c.kown then s1.modCore (coreOf k) Core.release else s1
  if c.prot then
    let s3 := s2.modCtx (k + 4) Ctx.freed
    if c.kown then s3.modCore (coreOf k + 1) Core.release else s3
  else s2

/-- Bits of p1 to p47 as a record keeps them (15 R316). -/
def upredOf (p : Nat → BitVec 32) : Nat := (List.range 48).foldl (fun a n => if n ≠ 0 ∧ (p n).getLsbD 0 then a + 2 ^ n else a) 0

/-- The resume point of the bundle that follows the one in progress (02 R36; 03 R67). SUSPEND or YIELD in the last bundle of an ENDT block leaves the record at the
successor block's first bundle, where the spec does not say whether the task body has ended (02 R33; DESIGN CHOICE, log entry 109). -/
def Ctx.following (c : Ctx) : Word :=
  match c.run with
  | some r => match c.xferWaits with | some x => x | none => match r.xfer with | some x => x | none => r.fall
  | none => c.pc

/-- The iteration index once the bundle in progress has completed (02 R33). -/
def Ctx.nextIidx (c : Ctx) : BitVec 32 :=
  match c.run with
  | some r => if r.xb.kib then c.iidx + 1 else c.iidx
  | none => c.iidx

/-- Write-back (15 R321): PC, IIDX, UPRED and TREADY. -/
def State.writeBack (s : State) (k : Nat) : State :=
  let c := s.ctx k
  let cl := clusterOf k
  let s1 := s.putRec cl c.record 0 8 c.following.toNat
  let s2 := s1.putRec cl c.record 0x18 4 c.nextIidx.toNat
  let s3 := s2.putRec cl c.record 0x20 8 (upredOf fun n => (s.regNow k (.preg n)).setWidth 32)
  s3.putRec cl c.record 0x30 8 s.time

end Sys2Proof.Machine
end

