-- ==== Sys2Proof/Machine/Copy.lean ====
section
/-!
DEFINITION. Copy commands (13_memops R270 to R278, R281 to R283; 14_queues R301, R302): the C slot, the descriptor, the pieces, landings held by the
alias filter (16 R335), traffic (18 R383) and completion.
-/
namespace Sys2Proof.Machine

/-! ### The descriptor (13 R271) -/

/-- The descriptor in 128 bytes; `defect` covers what breaks the table for every command. -/
def Desc.ofBytes (bs : List Byte) : Desc :=
  let u := fun o n => leNat ((bs.drop o).take n)
  let sgn := fun o => (BitVec.ofNat 32 (u o 4)).toInt
  let ctrl := u 0x58 8
  let cnt := (List.range 6).map fun i => u (0x10 + 4 * i) 4
  { src := BitVec.ofNat 64 (u 0 8), dst := BitVec.ofNat 64 (u 8 8), cnt := cnt
    sstr := (List.range 6).map fun i => sgn (0x28 + 4 * i)
    dstr := (List.range 6).map fun i => sgn (0x40 + 4 * i)
    retry := bits ctrl 28 4, dcen := ctrl.testBit 25, dc := bits ctrl 16 9, part := bits ctrl 12 2, ilv := bits ctrl 8 4
    dvirt := ctrl.testBit 5, svirt := ctrl.testBit 4, esize := bits ctrl 0 4, aux := BitVec.ofNat 64 (u 0x60 8)
    defect := bits ctrl 32 32 ≠ 0 || bits ctrl 26 2 ≠ 0 || bits ctrl 14 2 ≠ 0 || bits ctrl 6 2 ≠ 0 || u 0x68 24 ≠ 0 || cnt.contains 0
      || 9 < bits ctrl 0 4 }

/-- A descriptor of a command that reads none. -/
def Desc.blank : Desc :=
  { src := 0, dst := 0, cnt := [1, 1, 1, 1, 1, 1], sstr := [0, 0, 0, 0, 0, 0], dstr := [0, 0, 0, 0, 0, 0], retry := 0, dcen := false, dc := 0
    part := 0, ilv := 0, dvirt := false, svirt := false, esize := 0, aux := 0, defect := false }

/-- An end that is not virtual has bits [63:32] zero (R271). -/
def endOk (virt : Bool) (a : Word) : Bool := virt || bits a.toNat 32 32 == 0

/-- Bytes of a piece. -/
def Desc.bytes (d : Desc) : Nat := 8 * 2 ^ d.esize

/-- Element bytes of a collective (R279). -/
def collSize (aux : Word) : Nat := if bits aux.toNat 16 4 = 1 then 2 else 4

/-- The DESC defects of a collective command (R279). -/
def Desc.collDefect (d : Desc) : Bool :=
  let x := d.aux.toNat
  d.cnt.tail.any (· != 1) || d.sstr.any (· != 0) || d.dstr.any (· != 0) || d.esize != 0 || bits x 22 42 ≠ 0 || 2 < bits x 16 4 || 2 < bits x 12 4
    || 4 < bits x 8 4 || d.cnt.headD 0 * collSize d.aux % 8 ≠ 0

/-- A descriptor defect of the command (R271, R274 to R276, R279, R281). -/
def Desc.bad (d : Desc) (kd : CmdKind) : Bool :=
  d.defect || (kd != .cflush && !endOk d.svirt d.src) || !endOk d.dvirt d.dst
    || (match kd with
      | .cpyil => d.ilv < 2 || d.part == 3 || d.aux != 0
      | .cgath => d.ilv != 0 || d.part != 0 || bits d.aux.toNat 32 32 ≠ 0
      | .ccoll => d.ilv != 0 || d.part != 0 || d.collDefect
      | .tmv => d.ilv != 0 || d.part != 0 || d.aux != 0 || d.svirt || d.dvirt
      | _ => d.ilv != 0 || d.part != 0 || d.aux != 0)

/-! ### Pieces (13 R272 to R276, R282) -/

/-- Pieces of one pass over levels 2 to 5. -/
def Desc.inner (d : Desc) (kd : CmdKind) : Nat :=
  let c0 := d.cnt.getD 0 1
  let c1 := d.cnt.getD 1 1
  if kd = .cpyil ∧ d.part = 0 then (c1 + d.ilv - 1) / d.ilv * d.ilv * c0 else c1 * c0

/-- The number of pieces of a command. -/
def Desc.pieces (d : Desc) (kd : CmdKind) : Nat := d.inner kd * (d.cnt.drop 2).foldl (· * ·) 1

/-- The sum of index times stride over levels from `l` on, for the count-mixed index `n`. -/
def levelSum : List Nat → List Int → Nat → Int
  | c :: cs, st :: ss, n => (n % c : Nat) * st + levelSum cs ss (n / c)
  | _, _, _ => 0

/-- A word plus an exact sum, modulo 2^64. -/
def addInt (a : Word) (x : Int) : Word := a + BitVec.ofInt 64 x

/-- The ends of piece `n`: its source, none where zeros are written (R274), and its destination. `ix` answers the index list (R275). -/
def Desc.piece (d : Desc) (kd : CmdKind) (ix : Nat → Nat) (n : Nat) : Option Word × Word :=
  let c0 := d.cnt.getD 0 1
  let c1 := d.cnt.getD 1 1
  let m := n % d.inner kd
  let o := n / d.inner kd
  let outerS := levelSum (d.cnt.drop 2) (d.sstr.drop 2) o
  let outerD := levelSum (d.cnt.drop 2) (d.dstr.drop 2) o
  match kd with
  | .cpyil =>
    let g := m / (d.ilv * c0)
    let r := m % (d.ilv * c0) / c0
    let j := m % c0
    let q := Nat.min d.ilv (c1 - g * d.ilv)
    let w := if d.part = 1 then q else d.ilv
    let src := addInt d.src (outerS + ((g * d.ilv + r : Nat) : Int) * d.sstr.getD 1 0 + (j : Int) * d.sstr.getD 0 0)
    (if r < q then some src else none,
      addInt d.dst (outerD + (g : Int) * d.dstr.getD 1 0 + ((j * w + r : Nat) : Int) * (d.bytes : Int)))
  | .cgath =>
    (some (addInt d.src (outerS + ((ix n : Nat) : Int) * d.sstr.getD 0 0 + ((m / c0 : Nat) : Int) * d.sstr.getD 1 0)),
      addInt d.dst (outerD + levelSum (d.cnt.take 2) (d.dstr.take 2) m))
  | _ =>
    (some (addInt d.src (outerS + levelSum (d.cnt.take 2) (d.sstr.take 2) m)),
      addInt d.dst (outerD + levelSum (d.cnt.take 2) (d.dstr.take 2) m))

/-- A code joined to those attached so far: the lowest stays (05 R107). -/
def minCode (old : Option (BitVec 8)) (c : BitVec 8) : Option (BitVec 8) :=
  match old with
  | none => some c
  | some o => some (if c.toNat < o.toNat then c else o)

def minCodes (old : Option (BitVec 8)) (l : List (BitVec 8)) : Option (BitVec 8) := l.foldl minCode old

/-- The defect of a scratchpad end of `n` bytes that is aligned (R272, R278; 15 R311). -/
def scratchEnd (mapped hwin : Bool) (a n : Nat) : Option (BitVec 8) :=
  if a % 8 ≠ 0 then none
  else if 2 ^ 32 ≤ a ∨ !inRange mapped a n ∨ (spaceOf a = 14 ∧ !hwin) then some cCADDR
  else if crossesStripe mapped a n then some cCALIGN
  else none

/-- A piece end: the byte at offset `i` of the piece, where it stands, or the code that stops its part. -/
inductive PieceEnd where
  | at_ (a : Nat)
  | bad (code : BitVec 8)
  | nowhere
deriving DecidableEq, Repr

/-- The source byte of a part (R272, 11 R226). -/
def State.srcEnd (s : State) (m : Cmd) (va : Word) : PieceEnd :=
  if va.toNat % 8 ≠ 0 then .bad cCALIGN
  else if !m.desc.svirt then .at_ (scratchPhys m.mapped m.k va.toNat)
  else match s.translate m.region m.gv va with
    | .at_ a _ => .at_ a
    | .bad c => .bad c
    | .nowhere => .nowhere

/-- The destination byte of a part: a write needs W, and under a selected snapshot none goes to a page of a generation (R209, 11 R230). -/
def State.dstEnd (s : State) (m : Cmd) (va : Word) : PieceEnd :=
  if va.toNat % 8 ≠ 0 then .bad cCALIGN
  else if !m.desc.dvirt then .at_ (scratchPhys m.mapped m.k va.toNat)
  else match s.translate m.region none va with
    | .at_ a w => if !w || (m.gv.isSome && isGen a) then .bad cPROT else .at_ a
    | .bad c => .bad c
    | .nowhere => .nowhere

/-- Offsets at which parts of a piece begin, with their lengths: split at every 64 KiB boundary of either virtual end (10 R210). -/
def partsOf (cut : Nat → Bool) (n : Nat) : List (Nat × Nat) :=
  let starts := (List.range (n / 8)).filterMap fun i => if i = 0 ∨ cut (8 * i) then some (8 * i) else none
  starts.zipWith (fun a b => (a, b - a)) (starts.tail ++ [n])

/-- The outcome of a piece: part by part the cells it writes and what it reads for them, the codes of parts that fault, what it reads and writes, each as a physical
address and bytes, and whether it reaches a memory that does not exist. -/
structure PieceRes where
  parts : List (List Host.Cell × List (Nat × Nat))
  codes : List (BitVec 8)
  reads : List (Nat × Nat)
  writes : List (Nat × Nat)
  nowhere : Bool
deriving DecidableEq, Repr

/-- The socket whose distance counts for an end (18 R383): the issuing die's for a scratchpad end. -/
def endSocket (virt : Bool) (own a : Nat) : Nat := if virt then ownerSocket a else own

/-- Bytes of an end by the socket whose distance counts. -/
def Cmd.distances (m : Cmd) (virt : Bool) (l : List (Nat × Nat)) : List (Nat × Nat) := l.map fun x => (endSocket virt (socketOf m.k) x.1, x.2)

/-- The bytes of a part at its source: the row of a CPQ, zeros, or memory. -/
def State.partBytes (s : State) (m : Cmd) (src : Option Word) (o : Nat) (a : Nat) (n : Nat) : List Byte :=
  if m.kind = .cpq then (List.range n).map fun i => (look? m.data (o + i)).getD 0
  else match src with
    | none => List.replicate n 0
    | some _ => if m.desc.svirt then s.viewBytes m.gv a n else s.mem.reads a n

/-- One part of a piece. A CPQ reads its row in a result queue and not in a memory: that row is no copy read (18 R383; DESIGN CHOICE, log entry 102). -/
def State.part (s : State) (m : Cmd) (src : Option Word) (dst : Word) (r : PieceRes) (p : Nat × Nat) : PieceRes :=
  let se : PieceEnd := match src with
    | some x => if m.kind = CmdKind.cpq then .at_ 0 else s.srcEnd m (x + BitVec.ofNat 64 p.1)
    | none => .at_ 0
  let de := s.dstEnd m (dst + BitVec.ofNat 64 p.1)
  match se, de with
  | .nowhere, _ => { r with nowhere := true }
  | _, .nowhere => { r with nowhere := true }
  | .bad c, .bad e => { r with codes := c :: e :: r.codes }
  | .bad c, _ => { r with codes := c :: r.codes }
  | _, .bad c => { r with codes := c :: r.codes }
  | .at_ a, .at_ b =>
    let rd := if src.isSome && m.kind != .cpq then [(a, p.2)] else []
    { r with
      parts := r.parts ++ [(cellsAt b (s.partBytes m src p.1 a p.2), rd)]
      reads := rd ++ r.reads
      writes := (b, p.2) :: r.writes }

/-- Piece (R272): each end is checked on its own, for alignment and then for its range or its translation, and what either check finds is attached (DESIGN
CHOICE, log entry 80); then each part on its own. -/
def State.piece (s : State) (m : Cmd) (src : Option Word) (dst : Word) : PieceRes :=
  let n := if m.kind = .cpq then 128 else m.desc.bytes
  let hw := (s.region m.region).rcb.hwin
  let pre := (if m.desc.dvirt then [] else (scratchEnd m.mapped hw dst.toNat n).toList)
    ++ (match src with | some x => if m.kind = CmdKind.cpq ∨ m.desc.svirt then [] else (scratchEnd m.mapped hw x.toNat n).toList | none => [])
  let cut := fun (i : Nat) => (m.desc.dvirt && (dst.toNat + i) % 65536 == 0) || (m.desc.svirt && src.any fun x => (x.toNat + i) % 65536 == 0)
  let r := (partsOf cut n).foldl (s.part m src dst) ⟨[], pre, [], [], false⟩
  if pre ≠ [] then { r with parts := [], reads := [], writes := [] } else r

/-! ### Transport (20 R406, R411) -/

/-- An access of the command, on these bytes, that a down link or a down CXL port makes fail in transport. -/
def State.transportFails (s : State) (m : Cmd) (as : List Nat) : Bool :=
  as.any fun a => !s.pathUp (socketOf m.k) (ownerSocket a) || s.cxlFails a

/-- One byte of each 4 KiB unit that ranges touch: a CXL port holds such units (20 R411). -/
def touchedBytes (l : List (Nat × Nat)) : List Nat :=
  l.flatMap fun x => (List.range ((x.1 + x.2 + 4095) / 4096 - x.1 / 4096)).map fun i => Nat.max x.1 ((x.1 / 4096 + i) * 4096)

/-- The credits of the fabric let an access of the command to these bytes leave (18 R384). -/
def State.canTravel (s : State) (m : Cmd) (as : List Nat) : Bool :=
  as.all fun a =>
    [0, 2].all (fun vc => s.mayTravel (socketOf m.k) (ownerSocket a) vc) && s.mayTravel (ownerSocket a) (socketOf m.k) 1

/-! ### Traffic (18 R383) -/

/-- Bytes counted at a base register: local, cross-die, bytes times distance. -/
def Cluster.count (cl : Cluster) (reg dist n : Nat) : Cluster :=
  let add := fun (t : Tab Word) (i v : Nat) => put t i (lookD t i 0 + BitVec.ofNat 64 v)
  { cl with traffic := add (add cl.traffic (if dist < 2 then reg else reg + 1) n) (reg + 2) (n * dist) }

/-- Bytes of a piece counted by the owner's distance. -/
def State.countTraffic (s : State) (k reg : Nat) (l : List (Nat × Nat)) : State :=
  s.modCluster (clusterOf k) fun cl => l.foldl (fun cl x => cl.count reg (hops (socketOf k) x.1) x.2) cl

/-! ### Commands under way -/

def State.cmd (s : State) (id : Nat) : Option Cmd := s.cmds.find? fun (m : Cmd) => m.id == id
def State.setCmd (s : State) (m : Cmd) : State := { s with cmds := s.cmds.map fun (x : Cmd) => if x.id == m.id then m else x }

/-- The continuation that issued the command is still bound there (02 R36, 13 R277). -/
def State.issuerBound (s : State) (m : Cmd) : Bool := (s.ctx m.k).gen == m.gen

/-- A kin of the command is not yet produced: its producer, of the same binding, may be in a queue still once the continuation has gone (13 R277). -/
def State.kinsOpen (s : State) (m : Cmd) : Bool :=
  m.kins.any fun kb => if s.issuerBound m then s.kinOpen m.k kb else s.producing m.k m.gen kb

/-- A store of context `k` by a bundle before `seq`, of those that `p` names, has not performed. -/
def State.storing (s : State) (k seq : Nat) (p : StoreOp → Bool) : Bool :=
  (s.ctx k).stq.any (fun (x : PendStore) => x.seq < seq && p x.op)
    || (s.ctx k).buf.any fun (b : BufOp) => b.seq < seq && (match b.op with | .store o => p o | _ => false)

/-- A copy of a later bundle sees the store: a plain one, or one of any kind to the own unit scratchpad (12 R234); it waits for no other release (13 R266). -/
def StoreOp.copySees (o : StoreOp) : Bool := o.kind == .plain || (o.kind != .none && o.span.any fun p => spaceOf p.1 == 0)

/-- The stores of bundles before `seq` that a copy of context `k` sees have performed. -/
def State.storesDone (s : State) (k seq : Nat) : Bool := !s.storing k seq StoreOp.copySees

/-- What a CFLUSH covers has performed: the stores of the bundles before its own, and the copies of the context before it (13 R281; 12 R240). -/
def State.flushed (s : State) (m : Cmd) : Bool :=
  (!s.issuerBound m || !s.storing m.k m.seq fun o => o.kind != .none)
    && !s.cmds.any fun (x : Cmd) => x.k == m.k && x.gen == m.gen && decide (x.id < m.id) && (x.kind.queued || x.kind == .tmv)

/-- The command can start: kins produced, the context's earlier stores performed (12 R234). -/
def State.startable (s : State) (m : Cmd) : Bool :=
  !m.started && (m.kind.queued || m.kind == .tmv) && !s.kinsOpen m && (!s.issuerBound m || s.storesDone m.k m.seq)

/-- The commands of a region that the channels of a cluster run. -/
def State.channelsOf (s : State) (cl r : Nat) : Nat :=
  countIf s.cmds fun (x : Cmd) => x.kind.queued && clusterOf x.k == cl && x.started && x.region == r

/-- Region `a` stands further below its share of copy bandwidth than region `b`: it uses fewer channels for its COPYBW (14 R302; DESIGN CHOICE, log entry 79). -/
def State.further (s : State) (cl a b : Nat) : Bool :=
  decide (s.channelsOf cl a * (s.region b).rcb.copybw < s.channelsOf cl b * (s.region a).rcb.copybw)

/-- A command can start now (R302): a channel of its cluster is free, or the tile-move engine of its core; it is the oldest of its region that can, and no other
region's turn comes before its own. -/
def State.canStart (s : State) (m : Cmd) : Bool :=
  let same := fun (x : Cmd) => if m.kind = .tmv then x.kind == .tmv && coreOf x.k == coreOf m.k else x.kind.queued && clusterOf x.k == clusterOf m.k
  let first := fun (x : Cmd) =>
    if x.region = m.region then x.id < m.id
    else m.kind != .tmv && (s.further (clusterOf m.k) x.region m.region || (!s.further (clusterOf m.k) m.region x.region && x.id < m.id))
  s.startable m && countIf s.cmds (fun x => same x && x.started) < (if m.kind = .tmv then 1 else 16)
    && !s.cmds.any fun x => x.id != m.id && same x && first x && s.startable x

/-- A command whose kin carries ERR moves nothing and attaches INERR (R277), beside a lower code that its descriptor has attached (05 R107). -/
def State.copyStart (s : State) (id : Nat) : State :=
  match s.cmd id with
  | some m =>
    if !s.canStart m then s
    else if m.kins.any (fun kb => kb == errKin || (s.issuerBound m && (s.ctx m.k).kinErr kb)) then
      s.setCmd { m with started := true, total := 0, code := minCode m.code cINERR }
    else s.setCmd { m with started := true }
  | none => s

/-- A piece passed: the next one follows. -/
def State.nextPiece (s : State) (m : Cmd) (code : Option (BitVec 8)) : State :=
  s.setCmd { m with next := m.next + 1, code := code, tries := 0, waitLanding := false, data := if m.kind = .cpq then m.data else [] }

/-- What a piece has read and written is counted as it performs (18 R383). A tile-move engine counts nothing. -/
def State.countDone (s : State) (m : Cmd) (reads writes : List (Nat × Nat)) : State :=
  if m.kind = .tmv then s
  else (s.countTraffic m.k (if m.kind = .ccoll then 6 else 0) (m.distances m.desc.svirt reads)).countTraffic m.k (if m.kind = .ccoll then 6 else 3)
    (m.distances m.desc.dvirt writes)

/-- The range that cells in one memory fill. -/
def rangeOf (cells : List Host.Cell) : List (Nat × Nat) := match cells with | [] => [] | c :: _ => [(c.1, cells.length)]

/-- Cells in one memory or granule written with their stamp; what an owner holds is counted when it performs. -/
def State.partWrite (s : State) (m : Cmd) (cells : List Host.Cell) (reads : List (Nat × Nat)) : State :=
  let s1 := s.stampedWrite m.id m.region cells reads
  if s1.heldWrites.length = s.heldWrites.length then s1.countDone m reads (rangeOf cells) else s1

/-- A unit written while a cut is on its way to the sources: on which side of it the unit falls is left open (11 R220 to R222). -/
def State.freeStamp (s : State) (m : Cmd) (unit : List Host.Cell) (reads : List (Nat × Nat)) : State :=
  let a := (unit.headD (0, 0)).1
  if isGen a && s.freeBits.getLsbD 0 then
    { s with heldWrites := s.heldWrites ++ [(⟨m.id, genDie a, s.gencur + 1, m.region, true, unit, reads⟩ : HeldWrite)] }.bumpFree
  else (s.partWrite m unit reads).bumpFree

/-- What was read for `n` bytes from the `off`-th on of a write of `total`; where the two do not run in step, the first bytes stand for all that was read. -/
def readsAt (total off n : Nat) (l : List (Nat × Nat)) : List (Nat × Nat) :=
  match l with
  | [x] => if x.2 = total then [(x.1 + off, n)] else if off = 0 then l else []
  | _ => if off = 0 then l else []

/-- Cells written with their stamps, part by part, and by aligned 64-byte units while a cut begins (11 R220). -/
def State.writeParts (s : State) (m : Cmd) (parts : List (List Host.Cell × List (Nat × Nat))) : State :=
  parts.foldl (fun s c =>
    if s.cut.isSome && !s.cutSent && !c.1.isEmpty then
      ((c.1.splitBy fun x y => x.1 / 64 == y.1 / 64).foldl (fun (t : Nat × State) u =>
        (t.1 + u.length, t.2.freeStamp m u (readsAt c.1.length t.1 u.length c.2))) (0, s)).2
    else s.partWrite m c.1 c.2) s

/-! ### Landing -/

/-- What a piece has read has travelled (12 R249). -/
def State.readSent (s : State) (m : Cmd) (l : List (Nat × Nat)) : State := l.foldl (fun s x => s.readFlits (socketOf m.k) (ownerSocket x.1)) s

/-- What a piece of `n` bytes writes has travelled (12 R249). -/
def State.writeSent (s : State) (m : Cmd) (n : Nat) (l : List (Nat × Nat)) : State := l.foldl (fun s x => s.writeFlits (socketOf m.k) (ownerSocket x.1) n) s

/-- The cells of a piece of `n` bytes land now. -/
def State.land1 (s : State) (m : Cmd) (n : Nat) (r : PieceRes) : State :=
  (((s.writeParts m r.parts).readSent m r.reads).writeSent m n r.writes).nextPiece m (minCodes m.code r.codes)

/-- The landing of command `id` demands nodes: one of the implicit demands (16 R335; 18 R368). -/
def Ctx.landDemand (c : Ctx) (cycle id : Nat) (gs : List Goal) : Ctx :=
  { c.begins cycle with landGoals := c.openGoals false c.landGoals ++ gs, landImpl := c.landImpl ++ [(id, gs.map fun g => g.seq)] }

/-- It demands further ones, as it is held: the same demand. -/
def Ctx.landMore (c : Ctx) (cycle id : Nat) (gs : List Goal) : Ctx :=
  { c.begins cycle with
    landGoals := c.openGoals false c.landGoals ++ gs
    landImpl := c.landImpl.map fun e => if e.1 = id then (id, e.2 ++ gs.map fun g => g.seq) else e }

/-- The nodes that a landing on areas waits for (16 R335); in a handler it passes over failed ones (R339). -/
def Ctx.landingOn (c : Ctx) (area : List Area) : List Goal :=
  (c.openGoals false (c.touchGoals area)).filter fun (g : Goal) => !(c.node g.seq).any c.landSkips

/-- A piece of `n` bytes lands, unless the alias filter holds its landing in the own unit scratchpad (16 R335; 10 R200): the nodes on `area` are demanded first.
What it reads it has read. A new landing demands failed nodes that it reaches again (16 R340). -/
def State.landPiece (s : State) (m : Cmd) (n : Nat) (area : List Area) (r : PieceRes) : State :=
  let gs := if area.isEmpty ∨ r.parts = [] then [] else (s.ctx m.k).landingOn area
  if s.issuerBound m ∧ gs ≠ [] then
    ((s.readSent m r.reads).setCmd { m with
      waitLanding := true, data := (r.parts.map fun p => p.1).flatten, reads := r.reads, code := minCodes m.code r.codes }).modCtx m.k fun c =>
        let met := c.behind c.nodes.length (gs.map fun g => g.seq)
        { c.landDemand (s.cyc m.k) m.id gs with landAgain := c.landAgain.filter fun x => !met.contains x }
  else s.land1 m n r

/-- The own unit scratchpad bytes of a destination (16 R335). -/
def Cmd.ownLanding (m : Cmd) (dst : Word) (n : Nat) : List Area :=
  if !m.desc.dvirt && bits dst.toNat 28 36 == 0 then [areaOf dst.toNat n] else []

/-- The index of a CGATH's piece: its entry of the list, unless that lies outside its space (R275). -/
def State.gatherIndex (s : State) (m : Cmd) (n : Nat) : Option Nat :=
  if m.kind ≠ .cgath then some 0
  else
    let a := bits m.desc.aux.toNat 0 32 + 4 * n
    if a < 2 ^ 32 ∧ spaceOf a ≤ 1 ∧ spaceOf a = spaceOf (bits m.desc.aux.toNat 0 32) ∧ inRange m.mapped a 4 then
      some (s.mem.nat (scratchPhys m.mapped m.k a) 4) else none

/-- COPY_PIECE: the next piece of a command that has started (R272, R277; 20 R406; 16 R335). `good`: it succeeds in transport; `ecc`: its source holds an
uncorrectable error (19 R387). None: it reaches a memory that does not exist. -/
def State.copyPiece (s : State) (id : Nat) (good ecc : Bool) : Option State :=
  match s.cmd id with
  | none => some s
  | some m =>
    if !m.started ∨ m.waitLanding ∨ m.total ≤ m.next ∨ m.kind = .ccoll then some s
    else
      match s.gatherIndex m m.next with
      | none => some (s.nextPiece m (minCode m.code cCADDR))
      | some ix =>
        let e := if m.kind = .cpq then (some 0, m.desc.dst) else m.desc.piece m.kind (fun _ => ix) m.next
        let n := if m.kind = .cpq then 128 else m.desc.bytes
        let r := s.piece m e.1 e.2
        let travels := m.desc.svirt || m.desc.dvirt || (!m.desc.dvirt && spaceOf e.2.toNat == 14)
          || (!m.desc.svirt && e.1.any fun x => spaceOf x.toNat == 14)
        let addrs := touchedBytes (r.reads ++ r.writes)
        let fails := travels && (!good || s.transportFails m addrs)
        if r.nowhere then none
        else if !s.canTravel m addrs then some s
        else if fails ∧ r.parts ≠ [] then
          some (if m.tries < m.desc.retry then s.setCmd { m with tries := m.tries + 1 } else s.nextPiece m (minCodes m.code (cXFER :: r.codes)))
        else if ecc ∧ e.1.isSome ∧ m.kind ≠ .cpq ∧ r.parts ≠ [] then some (s.nextPiece m (minCodes m.code (cMEMERR :: r.codes)))
        else some (s.landPiece m n (m.ownLanding e.2 n) r)

/-- The area that a held landing covers. -/
def Cmd.heldArea (m : Cmd) : List Area :=
  match m.data with
  | [] => []
  | c :: _ => [areaOf (offOf c.1) m.data.length]

/-- The nodes a held landing still waits for. -/
def State.landingGoals (s : State) (m : Cmd) : List Goal := (s.ctx m.k).landingOn m.heldArea

/-- LANDING_RELEASE: the held landing performs once its nodes have run; until then they are demanded, those too that have been appended since (16 R335), where a node
whose late fault a landing has met waits for a later demand (R340). -/
def State.landingRelease (s : State) (id : Nat) : State :=
  match s.cmd id with
  | none => s
  | some m =>
    if !m.waitLanding then s
    else
      let c := s.ctx m.k
      let gs := if s.issuerBound m then s.landingGoals m else []
      if gs.isEmpty then
        let a := (m.data.headD (0, 0)).1
        (s.land1 { m with data := if m.kind = .cpq then [] else m.data, reads := [] } m.desc.bytes
          ⟨[(m.data, m.reads)], [], [], [(a, m.data.length)], false⟩).modCtx m.k fun c =>
            { c with landGoals := c.openGoals false c.landGoals, landImpl := c.landImpl.filter fun e => e.1 != id }
      else
        let asked := c.openGoals false c.landGoals
        let more := gs.filter fun (g : Goal) => !asked.any fun (h : Goal) => h.seq == g.seq
        if !more.isEmpty && c.landFault.isNone then s.modCtx m.k fun c => c.landMore (s.cyc m.k) id more else s

/-- Every piece has performed or faulted, and no owner holds a write of the command (11 R228; 13 R277). A false-guarded C slot without kins completes in the cycle after
its acceptance (03 R53). -/
def State.piecesDone (s : State) (m : Cmd) : Bool :=
  match m.kind with
  | .none | .noneT => !s.kinsOpen m && (!m.kins.isEmpty || decide (m.acceptedAt < s.cyc m.k))
  | .tok => !s.kinsOpen m
  | kd => m.started && m.total ≤ m.next && !m.waitLanding && !s.heldWrites.any (fun (h : HeldWrite) => h.cmd == m.id) && (kd != .cflush || s.flushed m)

/-- The token and the counter carry ERR (R277; 03 R53). -/
def State.cmdErr (s : State) (m : Cmd) : Bool :=
  m.code.isSome || (match m.kind with
    | .none | .noneT | .tok => m.kins.any fun kb => kb == errKin || (s.issuerBound m && (s.ctx m.k).kinErr kb)
    | _ => false)

/-- The commands of a binding that has gone learn that a kin completed with ERR (R277). -/
def State.markKins (s : State) (k gen : Nat) (kb : Nat × Nat) : State :=
  let mark := fun (m : Cmd) => if m.k = k ∧ m.gen = gen then { m with kins := markKin kb m.kins } else m
  { s with cmds := s.cmds.map mark }.modCtx k fun c => { c with
    buf := c.buf.map fun (b : BufOp) => match b.op with | .copy m => { b with op := .copy (mark m) } | _ => b }

/-- COPY_COMPLETE (R277): the counter, the token and the dependence counter change together, and an attached code is recorded (05 R107). It waits while a
continuation that it readies finds its overflow ring full (14 R306). -/
def State.copyComplete (s : State) (id : Nat) : State :=
  match s.cmd id with
  | none => s
  | some m =>
    if !s.piecesDone m then s
    else
      let err := s.cmdErr m
      match (if m.desc.dcen then s.countDown (clusterOf m.k) m.desc.dc err else some s) with
      | none => s
      | some s0 =>
        let s1 := { s0 with cmds := dropFirst (fun (x : Cmd) => x.id == id) s0.cmds }
        if s1.issuerBound m then
          let s2 := s1.modCtx m.k fun c =>
            match m.kind with
            | .tok => c
            | .tmv | .noneT => { c with tlc := c.tlc - 1 }
            | _ => { c with cpc := c.cpc - 1 }
          let s3 := s2.produce m.k m.kout m.koutBind err
          match m.code with
          | some code => s3.attach m.k code (if m.desc.dcen then m.desc.dc else atgtToken m.kout)
          | none => s3
        else
          let s2 := if err then s1.markKins m.k m.gen (m.kout, m.koutBind) else s1
          match m.code with
          | some code => s2.report m.region code (some (if m.desc.dcen then m.desc.dc else atgtToken m.kout))
          | none => s2

/-! ### The C slot (13 R270) -/

/-- The generation a command reads: GVSEL sampled against GENCUR (11 R230). -/
def State.sampleGv (s : State) (k : Nat) (cur : Bool) : Option (BitVec 16) :=
  let gv := (s.ctx k).sys.gvsel
  let x := gv.setWidth 16
  if !cur && gv.getLsbD 16 && x != s.gencur then some x else none

/-- Kins of a C slot: what stood before the bundle; one produced with ERR meanwhile stays so. -/
def Ctx.copyKins (c : Ctx) (t : Toks) : List (Nat × Nat) :=
  (kinsOf c.tok0 t).map fun kb => if c.kinErr kb then errKin else kb

/-- The command of a C slot. -/
def State.newCmd (s : State) (k : Nat) (kd : CmdKind) (f : CopyF) (d : Desc) (gv : Option (BitVec 16)) (total : Nat) (data : List Host.Cell) : Cmd :=
  let c := s.ctx k
  { id := 0, kind := kd, k := k, gen := c.gen, region := c.region, desc := d, mapped := c.mapped, gv := gv, kins := c.copyKins f.toks
    kout := f.toks.kout.toNat, koutBind := c.bindSrc + 1, seq := c.seqNow, started := false
    next := 0, total := if d.defect then 0 else total, code := if d.defect then some cDESC else none, data := data, reads := []
    waitLanding := false, tries := 0, acceptedAt := 0 }

/-- CPC or TLC rises. -/
def Ctx.countCmd (c : Ctx) (kd : CmdKind) : Ctx :=
  match kd with
  | .tmv | .noneT => { c with tlc := c.tlc + 1 }
  | _ => { c with cpc := c.cpc + 1 }

/-- A command begins: its counter rises, kout is pending, and it enters the C engine; in a schedule segment it is held (R270), one with a false guard only where a held
operation produces one of its kins (03 R53). -/
def State.startCmd (s : State) (k : Nat) (m : Cmd) : State :=
  (s.modCtx k fun c => (c.countCmd m.kind).bindTok m.kout).enterCmd k
    (if m.kind = .none ∨ m.kind = .noneT then (s.ctx k).heldKin m.kins else (s.ctx k).seg.isSome) m

/-- The bounding range of scratchpad addresses that levels reach from a base (R273). -/
def boundRange (base : Nat) (cnt : List Nat) (str : List Int) (n : Nat) : Int × Int :=
  (cnt.zip str).foldl (fun r p =>
    let x := ((p.1 - 1 : Nat) : Int) * p.2
    if x < 0 then (r.1 + x, r.2) else (r.1, r.2 + x)) ((base : Int), (base : Int) + (n : Int) - 1)

/-- The area between two addresses of the scratchpad address space. -/
def areaBetween (lo hi : Int) : List Area :=
  if hi < 0 ∨ (2 ^ 32 : Int) ≤ lo then [] else [.mem (lo.toNat / 128) (Nat.min hi.toNat (2 ^ 32 - 1) / 128)]

/-- The bytes of the context's scratchpad spaces that a command reads (R273, R275); an index of CGATH's list may be any 32-bit value. `blocks`: the blocks of
E elements that a collective reads. -/
def Desc.srcAreas (d : Desc) (kd : CmdKind) (blocks : Nat) : List Area :=
  if d.bad kd then []
  else
    let own := match kd with
      | .cpy | .cpyil | .tmv =>
        if d.svirt then [] else let r := boundRange d.src.toNat d.cnt d.sstr d.bytes; areaBetween r.1 r.2
      | .cgath =>
        if d.svirt then []
        else let r := boundRange d.src.toNat (2 ^ 32 :: d.cnt.tail) d.sstr d.bytes; areaBetween r.1 r.2
      | .ccoll => if d.svirt then [] else areaBetween d.src.toNat (d.src.toNat + d.cnt.headD 0 * collSize d.aux * blocks - 1)
      | _ => []
    let list := match kd with
      | .cgath => areaBetween (bits d.aux.toNat 0 32) (bits d.aux.toNat 0 32 + 4 * d.pieces kd - 1)
      | _ => []
    own ++ list

/-- The physical bytes of a group's entry in the collective group table (20 R413). -/
def State.groupEntry (s : State) (region group : Nat) : Option Nat :=
  s.vaPhys region ((s.region region).rcb.colltab + BitVec.ofNat 64 (32 * group))

/-- Blocks of E elements that a member reads: n in a reduce-scatter (R279). -/
def State.collBlocks (s : State) (region : Nat) (d : Desc) : Nat :=
  if bits d.aux.toNat 8 4 = 4 then
    match s.groupEntry region (bits d.aux.toNat 0 8) with | some a => Nat.min (s.mem.nat a 4) 4096 | none => 1
  else 1

/-- The counter of a command has room (18 R370). -/
def State.cmdCounted (s : State) (k : Nat) (kd : CmdKind) (f : SlotRes) : SlotRes :=
  s.counted k (match kd with | .tmv | .noneT => .tlc | _ => .none) f

/-- The scalar of a C slot as a descriptor address (R270; 03 R55). -/
def descFault (v : Nat) : Option Trap :=
  if v % 128 ≠ 0 then some (precise cALIGN v) else if 0x60000 ≤ v then some (precise cADDR v) else none

/-- A C slot that acts: the kin nodes and its sources are demanded, then the command begins (R270, R273; 16 R331). -/
def State.issueCmd (s : State) (k : Nat) (f : CopyF) (gs : List Goal) (m : State → Cmd) : SlotRes :=
  s.demandBlock k ((s.ctx k).kinGoals ((s.ctx k).copyKins f.toks) ++ gs) (s.withRoom k 6 (.done (s.startCmd k (m s))))

/-- A C slot whose guard is false (03 R53). -/
def State.idleCmd (s : State) (k : Nat) (kd : CmdKind) (f : CopyF) : SlotRes :=
  s.cmdCounted k kd (s.issueCmd k f [] fun s => s.newCmd k kd f Desc.blank none 0 [])

/-- A C slot that reads a descriptor (R270, R271). `cur`: FLAGS[0] is CUR. -/
def copyRes (kd : CmdKind) (cur : Bool) (f : CopyF) (s : State) : Res :=
  .next (s.slot fun k =>
    let c := s.ctx k
    if !s.guard k f.g then s.idleCmd k (if kd = .tmv then .noneT else .none) f
    else
      let v := (s.readS k f.a).toNat
      match descFault v with
      | some t => .fault t
      | none =>
        s.cmdCounted k kd (s.demandBlock k (c.readGoals [areaOf v 128])
          (if s.mustNotRead k c.seqNow [(scratchPhys false k v, 128)] then .stall (.reads (scratchPhys false k v) 128) s
          else
            let d0 := Desc.ofBytes (s.ownBytes k c.seqNow (scratchPhys false k v) 128)
            let d := { d0 with defect := d0.bad kd }
            let total := match kd with | .cflush | .cpre => 0 | .ccoll => 1 | _ => d.pieces kd
            s.issueCmd k f (c.readGoals (d.srcAreas kd (s.collBlocks c.region d))) fun s =>
              s.newCmd k kd f d (s.sampleGv k (cur && f.flags.getLsbD 0)) total [])))

/-- CPY (R272). -/
def execCpy (c : CopyF) (s : State) : Res := copyRes .cpy true c s

/-- CPYIL (R274). -/
def execCpyil (c : CopyF) (s : State) : Res := copyRes .cpyil true c s

/-- CGATH (R275). -/
def execCgath (c : CopyF) (s : State) : Res := copyRes .cgath true c s

/-- TMV (R276). -/
def execTmv (c : CopyF) (s : State) : Res := copyRes .tmv false c s

/-- CCOLL (R279). -/
def execCcoll (c : CopyF) (s : State) : Res := copyRes .ccoll false c s

/-- CPRE (R283). -/
def execCpre (c : CopyF) (s : State) : Res := copyRes .cpre false c s

/-- CFLUSH (R281): with ALL it reads no descriptor. -/
def execCflush (c : CopyF) (s : State) : Res :=
  if c.flags.getLsbD 0 then
    .next (s.slot fun k =>
      if !s.guard k c.g then s.idleCmd k .none c
      else s.cmdCounted k .cflush (s.issueCmd k c [] fun s => s.newCmd k .cflush c Desc.blank none 0 []))
  else copyRes .cflush false c s

/-- CPQ (R282): the oldest row of a queue is taken at issue. -/
def execCpq (c : CopyF) (s : State) : Res :=
  .next (s.slot fun k =>
    if !s.guard k c.g then s.idleCmd k .none c
    else
      s.cmdCounted k .cpq (s.demandBlock k ((s.ctx k).kinGoals ((s.ctx k).copyKins c.toks)) (s.withRoom k 6
        (s.popping k (bits c.flags.toNat 0 3) fun row s1 =>
          let d := { Desc.blank with dst := s.readS k c.a, dvirt := c.flags.getLsbD 3, esize := 4 }
          .done (s1.startCmd k (s1.newCmd k .cpq c d (s.sampleGv k false) 1 (cellsAt 0 (leBytes 128 row.toNat))))))))

end Sys2Proof.Machine
end

