-- ==== Sys2Proof/Machine/Collective.lean ====
section
/-!
DEFINITION. Collectives (13_memops R279, R280; 20_boundary R412, R413): the group table, the fold in rank order, and the step in which the members of an
instance receive their values.
-/
namespace Sys2Proof.Machine

/-! ### The collective word (R279) -/

def collType (aux : Word) : Nat := bits aux.toNat 16 4
def collRed (aux : Word) : Nat := bits aux.toNat 12 4
def collOp (aux : Word) : Nat := bits aux.toNat 8 4
def collGroup (aux : Word) : Nat := bits aux.toNat 0 8
def collMode (aux : Word) : RMode :=
  match bits aux.toNat 20 2 with
  | 0 => .rne
  | 1 => .rtz
  | 2 => .rdn
  | _ => .rup

/-- One step of the fold. -/
def collStep (aux : Word) (a b : Nat) : Nat :=
  if collType aux = 2 then
    let x := sgn 32 a
    let y := sgn 32 b
    if collRed aux = 0 then wrapInt 32 (x + y) else if collRed aux = 1 then (if y < x then b else a) else if x < y then b else a
  else
    let f := if collType aux = 0 then fp32 else bf16
    if collRed aux = 0 then f.add (collMode aux) false a b else if collRed aux = 1 then f.min a b else f.max a b

/-- Fold(e) in ascending rank. -/
def collFold (aux : Word) : List Nat → Nat
  | [] => 0
  | x :: r => r.foldl (collStep aux) x

/-- Elements of a list of bytes. -/
def elemsOf (size : Nat) : Nat → List Byte → List Nat
  | 0, _ => []
  | n + 1, bs => leNat (bs.take size) :: elemsOf size n (bs.drop size)

/-- Element-wise fold of the members' blocks of `e` elements. -/
def collBlock (aux : Word) (e : Nat) (blocks : List (List Byte)) : List Byte :=
  let size := collSize aux
  let xs := blocks.map (elemsOf size e)
  ((List.range e).map fun i => leBytes size (collFold aux (xs.map fun l => l.getD i 0))).flatten

/-- What member `rank` of the members that read `srcs` receives; none where it receives nothing (R279). -/
def collResult (aux : Word) (e rank : Nat) (srcs : List (List Byte)) : Option (List Byte) :=
  let len := e * collSize aux
  match collOp aux with
  | 0 => srcs.head?.map fun l => l.take len
  | 1 => if rank = 0 then some (collBlock aux e srcs) else none
  | 2 => some (collBlock aux e srcs)
  | 3 => some (srcs.map fun l => l.take len).flatten
  | _ => some (collBlock aux e (srcs.map fun l => (l.drop (rank * len)).take len))

/-! ### Groups (20 R413) -/

/-- A member word: package, socket, cluster. -/
def memberWord (pkg socket cl : Nat) : Nat := pkg + socket * 2 ^ 16 + cl * 2 ^ 20

/-- The member words of a group, in rank order; none where the entry is a DESC defect. An entry or a member word that does not translate is one too: R413 names no code for
it (DESIGN CHOICE, log entry 114). -/
def State.groupMembers (s : State) (region group : Nat) : Option (List Nat) :=
  match s.groupEntry region group with
  | none => none
  | some a =>
    let n := s.mem.nat a 4
    if n = 0 ∨ 4096 < n ∨ s.mem.nat (a + 4) 4 ≠ 0 ∨ s.mem.nat (a + 16) 16 ≠ 0 then none
    else
      let va := BitVec.ofNat 64 (s.mem.nat (a + 8) 8)
      let ws := (List.range n).map fun i => (s.vaPhys region (va + BitVec.ofNat 64 (4 * i))).map fun p => s.mem.nat p 4
      if ws.any fun w => match w with | none => true | some x => bits x 21 11 ≠ 0 then none
      else some (ws.filterMap id)

/-- The word of a cluster of this package. -/
def ownWord (cl : Nat) : Nat := memberWord Config.pkg.toNat (cl / 2) (cl % 2)

/-- The members of a command's group, if the issuer is named in exactly one word. -/
def State.membersOf (s : State) (m : Cmd) : Option (List Nat) :=
  match s.groupMembers m.region (collGroup m.desc.aux) with
  | some ws => if countIf ws (fun w => w == ownWord (clusterOf m.k)) = 1 then some ws else none
  | none => none

/-- The clusters of this package that words name, each with its rank. -/
def localMembers (ws : List Nat) : List (Nat × Nat) :=
  ((List.range ws.length).zip ws).filterMap fun p =>
    if bits p.2 0 16 = Config.pkg.toNat then some (p.1, 2 * bits p.2 16 4 + bits p.2 20 1) else none

/-- The command with which a cluster takes part in the oldest open instance of a group: instances form in issue order (20 R413). -/
def State.instanceOf (s : State) (region group cl : Nat) : Option Cmd :=
  s.cmds.find? fun (m : Cmd) => m.kind == .ccoll && m.region == region && clusterOf m.k == cl && collGroup m.desc.aux == group && m.next < m.total
    && !m.waitLanding

/-! ### Ranges of a member -/

/-- A range of a virtual or scratchpad end, part by part: address and length, or the code; no code where it reaches a memory that does not
exist. -/
def State.rangeParts (s : State) (m : Cmd) (write virt : Bool) (base : Word) (len : Nat) : List (Sum (Nat × Nat) (Option (BitVec 8))) :=
  if base.toNat % 8 ≠ 0 then [.inr (some cCALIGN)]
  else
    match (if virt then none else scratchEnd m.mapped (s.region m.region).rcb.hwin base.toNat len) with
    | some c => [.inr (some c)]
    | none =>
      (partsOf (fun i => virt && (base.toNat + i) % 65536 == 0) len).map fun p =>
        let va := base + BitVec.ofNat 64 p.1
        match (if write then s.dstEnd m va else s.srcEnd m va) with
        | .at_ a => .inl (a, p.2)
        | .bad c => .inr (some c)
        | .nowhere => .inr none

def partCodes (l : List (Sum (Nat × Nat) (Option (BitVec 8)))) : List (BitVec 8) := l.filterMap fun x => match x with | .inr c => c | .inl _ => none
def partRanges (l : List (Sum (Nat × Nat) (Option (BitVec 8)))) : List (Nat × Nat) := l.filterMap fun x => match x with | .inl p => some p | .inr _ => none

/-- A part reaches a memory that does not exist. -/
def partsGone (l : List (Sum (Nat × Nat) (Option (BitVec 8)))) : Bool := l.any fun x => match x with | .inr none => true | _ => false

/-- Bytes a member reads: E elements, n blocks of them in a reduce-scatter, none for other ranks of a broadcast (R279). -/
def collReads (aux : Word) (e n rank : Nat) : Nat :=
  let len := e * collSize aux
  if collOp aux = 0 then (if rank = 0 then len else 0) else if collOp aux = 4 then n * len else len

/-- The source ranges of a member. -/
def State.collSrc (s : State) (m : Cmd) (n rank : Nat) : List (Sum (Nat × Nat) (Option (BitVec 8))) :=
  let len := collReads m.desc.aux (m.desc.cnt.headD 0) n rank
  if len = 0 then [] else s.rangeParts m false m.desc.svirt m.desc.src len

/-- The bytes of source ranges, as the command reads them. -/
def State.collBytes (s : State) (m : Cmd) (l : List (Sum (Nat × Nat) (Option (BitVec 8)))) : List Byte :=
  ((partRanges l).map fun p => if m.desc.svirt then s.viewBytes m.gv p.1 p.2 else s.mem.reads p.1 p.2).flatten

/-- Bytes given out to ranges, in order. -/
def spread : List (Nat × Nat) → List Byte → List (List Host.Cell)
  | [], _ => []
  | p :: r, bs => cellsAt p.1 (bs.take p.2) :: spread r (bs.drop p.2)

/-- What a member has read is counted with the first part that it writes (18 R383). -/
def withReads (reads : List (Nat × Nat)) : List (List Host.Cell) → List (List Host.Cell × List (Nat × Nat))
  | [] => [([], reads)]
  | x :: r => (x, reads) :: r.map fun y => (y, [])

/-- A member receives its bytes, and its part of the collective is over, once the alias filter lets them land (10 R200, R273). A member of whose destination one part
faults receives nothing (DESIGN CHOICE, log entry 81). -/
def State.collDeliver (s : State) (m : Cmd) (n rank : Nat) (out : Option (List Byte)) : State :=
  let reads := partRanges (s.collSrc m n rank)
  match out with
  | none => s.land1 m 0 ⟨[([], reads)], [], reads, [], false⟩
  | some bs =>
    let dst := s.rangeParts m true m.desc.dvirt m.desc.dst bs.length
    if partCodes dst = [] then
      s.landPiece m bs.length (m.ownLanding m.desc.dst bs.length) ⟨withReads reads (spread (partRanges dst) bs), [], reads, partRanges dst, false⟩
    else s.land1 m 0 ⟨[([], reads)], partCodes dst, reads, [], false⟩

/-- Every member of this package completes with a code. -/
def State.collFail (s : State) (ms : List Cmd) (code : BitVec 8) : State := ms.foldl (fun s m => s.nextPiece m (minCode m.code code)) s

/-- The fields that members must give alike (R280). -/
def collKey (m : Cmd) : Nat × Nat := (bits m.desc.aux.toNat 0 22, m.desc.cnt.headD 0)

/-- The destination ranges of a member that receives bytes. -/
def State.collDst (s : State) (m : Cmd) (out : Option (List Byte)) : List (Sum (Nat × Nat) (Option (BitVec 8))) :=
  match out with
  | none => []
  | some bs => s.rangeParts m true m.desc.dvirt m.desc.dst bs.length

/-- The values of all ranks: those of this package, and `others`, the blocks of the members outside, in rank order. -/
def State.collAll (s : State) (found : List (Nat × Cmd)) (n : Nat) (others : List (List Byte)) : List (List Byte) :=
  (List.range n).map fun rank =>
    match found.find? fun p => p.1 == rank with
    | some p => s.collBytes p.2 (s.collSrc p.2 n p.1)
    | none => others.getD (countIf (List.range rank) fun i => !found.any fun p => p.1 == i) []

/-- The codes of a member's source: of its parts, and MEMERR for an uncorrectable error in the bytes it reads (19 R386, R387). -/
def State.srcCodes (s : State) (n : Nat) (p : Nat × Cmd) : List (BitVec 8) :=
  let src := s.collSrc p.2 n p.1
  if s.badReads.contains p.2.id && !(partRanges src).isEmpty then cMEMERR :: partCodes src else partCodes src

/-- Every member completes: with the codes of its own source, or with COLL where that has none (19 R386; DEDUCED, log entry 26). -/
def State.collUnread (s : State) (found : List (Nat × Cmd)) (n : Nat) : State :=
  { found.foldl (fun t p => let cs := s.srcCodes n p; t.nextPiece p.2 (minCodes p.2.code (if cs.isEmpty then [cCOLL] else cs))) s with badReads := [] }

/-- The step fails in transport at a member: an end of it lies behind a link or a CXL port that is down (R280; 20 R406, R411). -/
def State.collCut (s : State) (n : Nat) (dst : Nat × Cmd → List (Nat × Nat)) (p : Nat × Cmd) : Bool :=
  s.transportFails p.2 (touchedBytes (partRanges (s.collSrc p.2 n p.1) ++ dst p))

/-- The repeats are exhausted: every member completes with COLL (R280), those at which the step has failed in transport with XFER too, the lower code (20 R406; 05 R107). -/
def State.collDrop (s : State) (found : List (Nat × Cmd)) (failed : Nat × Cmd → Bool) : State :=
  found.foldl (fun t p => t.nextPiece p.2 (minCodes p.2.code (if failed p then [cXFER, cCOLL] else [cCOLL]))) s

/-- COLLECTIVE_STEP (R280): once every member of this package has issued its command and a channel runs it, the values of all ranks are combined and
written at every member. A step that fails in transport is repeated up to RETRY times, the smaller of the descriptor's and CRETRY (15 R311); after that, or
when members disagree or a source cannot be read, every member completes with COLL or a code of its own. The repeats of a step are counted on, and RETRY is taken from, the command
that the step names, where members give different ones (DESIGN CHOICE, log entry 116). A member whose cluster its group names twice takes part in no instance: its own step ends it
with DESC (20 R413). `State.badReads` names the members whose sources hold an uncorrectable error. None: it
reaches a memory that does not exist. -/
def State.collectiveStep (s : State) (id : Nat) (good : Bool) (others : List (List Byte)) : Option State :=
  match s.cmd id with
  | none => some s
  | some m =>
    if m.kind ≠ .ccoll ∨ !m.started ∨ m.total ≤ m.next ∨ m.waitLanding then some s
    else
      match s.membersOf m with
      | none => some (s.nextPiece m (minCode m.code cDESC))
      | some ws =>
        let locals := localMembers ws
        let found := locals.filterMap fun p => (s.instanceOf m.region (collGroup m.desc.aux) p.2).map fun x => (p.1, x)
        let n := ws.length
        if found.length ≠ locals.length ∨ found.any (fun p => !p.2.started) ∨ !found.any (fun p => p.2.id == id) ∨ found.any (fun p => (s.membersOf p.2).isNone) then some s
        else if found.any fun p => collKey p.2 ≠ collKey m then some (s.collFail (found.map fun p => p.2) cCOLL)
        else if found.any fun p => partsGone (s.collSrc p.2 n p.1) then none
        else if found.any fun p => s.srcCodes n p ≠ [] then some (s.collUnread found n)
        else
          let all := s.collAll found n others
          let out := fun (p : Nat × Cmd) => collResult m.desc.aux (m.desc.cnt.headD 0) p.1 all
          let dst := fun (p : Nat × Cmd) => partRanges (s.collDst p.2 (out p))
          if found.any fun p => partsGone (s.collDst p.2 (out p)) then none
          else if !good || found.any (s.collCut n dst) then
            some (if m.tries < Nat.min m.desc.retry (s.region m.region).rcb.cretry then s.setCmd { m with tries := m.tries + 1 }
              else s.collDrop found fun p => s.collCut n dst p || (!good && p.2.id == id))
          else if !found.all (fun p => s.canTravel p.2 (touchedBytes (partRanges (s.collSrc p.2 n p.1) ++ dst p))) then some s
          else some (found.foldl (fun t p => t.collDeliver p.2 n p.1 (out p)) s)

end Sys2Proof.Machine
end

