-- ==== Sys2Proof/Machine/Sync.lean ====
section
/-!
DEFINITION. The Y slot: waits and DRAIN (18_counters R371, R374, R377; 12 R246), barriers (18 R378 to R380), DCSET and TIMER (18 R376, R382), SNAP and
GVIEW (11_generations R224, R230), ERET and BRKPT (19_events R390, R391).
-/
namespace Sys2Proof.Machine

/-! ### What a Y slot waits for -/

/-- Held operations of an open segment, counted. -/
def Ctx.heldStores (c : Ctx) : Nat := countIf c.held fun (b : BufOp) => match b.op with | .store _ => true | _ => false
def Ctx.heldCopies (c : Ctx) : Nat :=
  countIf c.held fun (b : BufOp) => match b.op with | .copy m => !(m.kind == .tmv || m.kind == .noneT || m.kind == .tok) | _ => false
def Ctx.heldMoves (c : Ctx) : Nat :=
  countIf c.held fun (b : BufOp) => match b.op with
    | .copy m => m.kind == .tmv || m.kind == .noneT
    | .tile (.tdld ..) .. => true
    | _ => false

/-- An LDL of the bundle in progress, not yet acting. -/
def Ctx.heldLdl (c : Ctx) : Nat := match c.run with | some r => if r.ldl.isSome then 1 else 0 | none => 0

/-- LDC, STC, CPC and TLC are zero, the operations that the open segment holds apart (12 R237, R246). -/
def Ctx.countersDone (c : Ctx) : Bool :=
  c.ldc ≤ c.heldLdl && c.stc ≤ c.heldStores && c.cpc ≤ c.heldCopies && c.tlc ≤ c.heldMoves

/-- Every operation of earlier bundles has retired (13 R266), those that the open segment holds apart. -/
def State.priorDone (s : State) (k : Nat) : Bool :=
  let c := s.ctx k
  let heldSeqs := c.held.map fun (b : BufOp) => b.seq
  let s1 := s.modCtx k fun c => { c with flights := c.flights.filter fun (f : Flight) => !(!f.acc && f.ctr == .stc && heldSeqs.contains f.seq) }
  s1.allRetired k c.seqNow

/-- The release side (12 R236, R241; 13 R266): the scratchpad nodes are demanded and operations of earlier bundles have retired. -/
def State.release (s : State) (k : Nat) (f : SlotRes) : SlotRes :=
  s.demandBlock k (s.ctx k).scratchGoals (if s.priorDone k then f else .stall (.earlier (s.ctx k).seqNow) s)

/-- What an open segment keeps of a DRAIN or a BARA, to be performed after the operations that it holds (12 R237). -/
def State.holdSync (s : State) (k : Nat) (bar : Option Nat) : State :=
  s.modCtx k fun c => { c with held := c.held ++ [s.bufOp k (.sync bar)] }

/-- An LDL of the bundle acts before the Y slot of its bundle does (04 R94). -/
def State.ldlActs (s : State) (k : Nat) : State :=
  match (s.ctx k).run with
  | some r =>
    match r.ldl with
    | some b => (s.modCtx k fun c => { c with run := some { r with ldl := none }, buf := c.buf ++ [b] }).acceptFirst k 4
    | none => s
  | none => s

/-- An instruction of R94: the open segment commits, what it held is performed, and then the instruction acts; the segment is over. -/
def State.apart (s : State) (k : Nat) (f : State → SlotRes) : SlotRes := s.outside k (f ((s.closeSeg k).ldlActs k))

/-- WritePathEmpty (12 R246): cycles for the scopes of one die, a free part of the stated bound for the wider ones. -/
def State.writePath (s : State) (k : Nat) (sc : Scope) (f : SlotRes) : SlotRes :=
  match (s.ctx k).wait with
  | .pathCycle _ => f
  | .pathTime _ => f
  | _ =>
    match sc with
    | .u => f
    | .c => .block (.pathCycle (s.cyc k + 1)) s
    | .d => .block (.pathCycle (s.cyc k + 4)) s
    | .p => .block (.pathTime (s.time + bits s.freeBits.toNat 0 64 % 41)) s
    | .s => .block (.pathTime (s.time + bits s.freeBits.toNat 0 64 % 81)) s

/-- Drain (12 R246). -/
def State.drainAt (s : State) (k : Nat) (sc : Scope) (f : SlotRes) : SlotRes :=
  s.demandBlock k (s.ctx k).scratchGoals (if (s.ctx k).countersDone then s.writePath k sc f else .block .counters s)

/-- A Y slot: nothing under a false guard. -/
def yRes (g : Guard) (f : Nat → SlotRes) (s : State) : Res := .next (s.guarded g f)

/-! ### Waits -/

/-- WAIT (18 R371). -/
def execWait (g : Guard) (wl ws wc wt : BitVec 4) (s : State) : Res :=
  yRes g (fun k =>
    let c := s.ctx k
    if c.ldc ≤ wl.toNat ∧ c.stc ≤ ws.toNat ∧ c.cpc ≤ wc.toNat ∧ c.tlc ≤ wt.toNat then .done s
    else .block (.limits wl.toNat ws.toNat wc.toNat wt.toNat) s) s

/-- WAITK (18 R374): a node that holds the token is demanded first. The token is the one from before the bundle (03 R81). -/
def execWaitk (g : Guard) (n : BitVec 4) (s : State) : Res :=
  yRes g (fun k =>
    let c := s.ctx k
    let t := c.tok0 n.toNat
    let kb := (n.toNat, t.bind)
    s.demandBlock k (if t.st = .pending then c.kinGoals [kb] else [])
      (if t.st = .pending && s.kinOpen k kb then .block (.kin n.toNat t.bind) s else .done s)) s

/-- WAITDC (18 R377). Once its counter has come to zero it is satisfied. -/
def execWaitdc (g : Guard) (n : BitVec 9) (d : BitVec 6) (s : State) : Res :=
  yRes g (fun k =>
    let x := (s.cluster (clusterOf k)).dc n.toNat
    let ends := fun (err : Bool) => SlotRes.done (s.putS k d (BitVec.ofNat 64 (ofBool err)))
    match (s.ctx k).wait with
    | .dcMet _ err => ends err
    | _ => if x.count = 0 then ends x.err else .block (.dcZero n.toNat) s) s

/-- DRAIN (12 R246). The model gives every scope the order of the widest (log entry 11). In a segment it waits for the operations that the segment does not hold,
and goes into effect among those at the commit (12 R237, R240, R247). -/
def execDrain (g : Guard) (sc : Scope) (s : State) : Res :=
  yRes g (fun k => s.drainAt k sc (.done (if (s.ctx k).held.isEmpty then s else s.holdSync k none))) s

/-! ### Barriers (18 R378, R379) -/

/-- BARA (R379). In a schedule segment its arrival is held with the stores that precede it (12 R237). -/
def execBara (g : Guard) (b : BitVec 5) (s : State) : Res :=
  yRes g (fun k => if (s.ctx k).seg.isSome then .done (s.holdSync k (some b.toNat)) else s.release k (.done (s.arrive k b.toNat))) s

/-- BARW (R379). It follows its context's own arrivals; once the phase has ended it is satisfied. -/
def execBarw (g : Guard) (b : BitVec 5) (s : State) : Res :=
  yRes g (fun k =>
    let c := s.ctx k
    let own := c.heldArrival b.toNat
    let ended := decide (c.wait = .phaseMet) || ((s.cluster (clusterOf k)).bar b.toNat).phase != barSeen c.barst b.toNat
    if !own && !barArm c.barst b.toNat then .done s
    else if own || !ended then .block (.phase b.toNat) s
    else .done (s.modCtx k fun c => { c with barst := setBits c.barst b.toNat 1 0 })) s

/-- BART (R379): the predicate lands at L = 4. -/
def execBart (g : Guard) (b : BitVec 5) (p : BitVec 6) (s : State) : Res :=
  yRes g (fun k => .done (s.postP k p (rep32 ((s.cluster (clusterOf k)).bar b.toNat).perr) 4)) s

/-! ### Counters and timers -/

/-- DCSET (18 R376). A continuation that would find its ring full holds it (14 R306). After a decrement of the same cycle it waits for the next: of one cycle's
events the decrements come last (18 R375). -/
def execDcset (g : Guard) (n : BitVec 9) (a : BitVec 6) (s : State) : Res :=
  yRes g (fun k => s.apart k fun s1 =>
    if look? (s1.cluster (clusterOf k)).decAt n.toNat = some (s1.cyc k) then .stall (.pathCycle (s1.cyc k + 1)) s1
    else match s1.setDc (clusterOf k) n.toNat ((s.readS k a).setWidth 16) false with
    | some s2 => .done s2
    | none => .stall (.spillDc n.toNat) s1) s

/-- The free timer slots of a cluster. -/
def Cluster.freeTimers (cl : Cluster) : List Nat := (List.range 64).filter fun i => (look? cl.timers i).isNone

/-- TIMER (18 R382): which free slot it arms is a free value. -/
def execTimer (g : Guard) (d a b : BitVec 6) (s : State) : Res :=
  yRes g (fun k => s.apart k fun s1 =>
    let cl := clusterOf k
    let t := BitVec.ofNat 63 s.time
    let n := bits (s.readS k a).toNat 0 32
    if n = 0 then .done (s1.putS k d (t.setWidth 64))
    else
      let fs := (s.cluster cl).freeTimers
      match fs[bits s.freeBits.toNat 0 64 % fs.length]? with
      | none => .done (s1.putS k d (BitVec.ofNat 64 (2 ^ 63)))
      | some i =>
        let s2 := s1.modCluster cl fun c => { c with timers := put c.timers i ⟨t.toNat + n, bits (s.readS k b).toNat 0 9⟩ }
        .done (s2.putS k d (t.setWidth 64))) s

/-! ### Snapshots (11 R224, R230) -/

/-- Why a SNAP fails, 0 if it does not (R224). -/
def State.snapWhy (s : State) (k : Nat) : Nat :=
  if !(s.rcb k).snapRight then 1
  else if s.linksDown ≠ 0 then 4
  else if s.live.length = 7 then 2
  else if s.live.any (fun x => 2 ^ 15 ≤ (s.gencur + 1 - x).toNat) then 3
  else 0

/-- The coordinator on socket 0 receives the SNAP of context `k`, behind those it has received before (R221, R224). -/
def State.snapAsk (s : State) (k : Nat) : State :=
  if s.snapQ.any fun x => x.1 == k then s else { s with snapQ := s.snapQ ++ [(k, false)] }.control (socketOf k) 0

/-- The coordinator is done with the SNAP it serves. -/
def State.snapDone (s : State) (k : Nat) : State := { s with snapQ := s.snapQ.filter fun x => x.1 != k }.control 0 (socketOf k)

/-- The requests and answers of context `k`'s SNAP can travel: no link of their way retrains (20 R406). -/
def State.snapPath (s : State) (k : Nat) : Bool := s.controlOpen (socketOf k) 0 && s.controlOpen 0 (socketOf k)

/-- It is the turn of context `k`'s SNAP (R224). -/
def State.snapTurn (s : State) (k : Nat) : Bool := s.cut.isNone && (s.snapQ.head?.any fun x => x.1 == k)

/-- SNAP (R224): the coordinator's checks, in its turn; a failure answers its status; else the drain, then the cut, whose completion OPEN makes. The coordinator takes
no other SNAP in between. -/
def execSnap (g : Guard) (d : BitVec 6) (s : State) : Res :=
  yRes g (fun k => s.apart k fun s0 =>
    if !s0.snapPath k then .block .cut s0 else
    let s1 := s0.snapAsk k
    if !s1.snapTurn k then .block .cut s1
    else if s1.snapQ.contains (k, true) then s1.drainAt k .p (.block .cut { s1 with cut := some ⟨s1.gencur, k, d.toNat, false, 0⟩ })
    else
      let why := s1.snapWhy k
      if why ≠ 0 then .done ((s1.snapDone k).putS k d (BitVec.ofNat 64 (2 ^ 63 + why * 2 ^ 56 + s1.gencur.toNat * 2 ^ 16)))
      else
        let s2 := { s1 with snapQ := s1.snapQ.map fun (x : Nat × Bool) => if x.1 = k then (k, true) else x }
        s2.drainAt k .p (.block .cut { s2 with cut := some ⟨s2.gencur, k, d.toNat, false, 0⟩ })) s

/-- GVIEW (R230). -/
def execGview (g : Guard) (d a : BitVec 6) (s : State) : Res :=
  yRes g (fun k => s.apart k fun s1 =>
    let req := s.readS k a
    let x := req.setWidth 16
    let old := (s.ctx k).sys.gvsel
    let select := fun (v : BitVec 32) =>
      SlotRes.done ((s1.modCtx k fun c => { c with sys := { c.sys with gvsel := v } }).putS k d (old.setWidth 64))
    if a = 0 ∨ req.getLsbD 63 then select 0
    else if !(s.rcb k).snapRight then .done (s1.putS k d (BitVec.ofNat 64 (2 ^ 63 + 2 ^ 56)))
    else if !s.genLive x then .done (s1.putS k d (BitVec.ofNat 64 (2 ^ 63 + 2 * 2 ^ 56)))
    else select (BitVec.ofNat 32 (2 ^ 16 + x.toNat))) s

/-! ### Traps -/

/-- ERET (19 R390): PRIV outside handler mode, whatever the guard (03 R53). It reads EPC and PSTEP as they stood before its bundle (08 R176). -/
def execEret (g : Guard) (s : State) : Res :=
  .next (s.slot fun k =>
    let c := s.ctx k
    if !c.inHandler then .fault (precise cPRIV (encode (.eret g)))
    else if s.guard k g then .left ((s.finishSlot k).returnFromTrap k c.sysAtIssue.psw c.sysAtIssue.epc)
    else .done s)

/-- BRKPT (19 R391): BRK is taken once the bundle has completed. -/
def execBrkpt (g : Guard) (s : State) : Res :=
  yRes g (fun k => .done (s.modCtx k fun c => { c with run := c.run.map fun r => { r with brk := true } })) s

end Sys2Proof.Machine
end

