-- ==== Sys2Proof/Machine/Work.lean ====
section
/-!
DEFINITION. The Y slot: SPAWN, GROW, SUSPEND, EXIT and YIELD (15_tables R318 to R321; 02_execution R36) and the ring-block instructions (14_queues R290 to
R296).
-/
namespace Sys2Proof.Machine

/-! ### SPAWN and GROW (15 R319, R320) -/

/-- The child of a SPAWN that becomes ready at once, as it would enter its queue. -/
def State.childOf (s : State) (k : Nat) (rec : BitVec 32) : Ready :=
  let c := s.ctx k
  { cluster := clusterOf k, record := rec, region := c.region, grid := c.grid, aging := 0, order := 0, tready := 0, core := none, saved := false }

/-- SPAWN once the dispatcher has accepted it with record `rec` (R319). A record taken or a ring filled meanwhile sends it back to the
dispatcher. -/
def State.spawnAct (s : State) (k : Nat) (d a b : BitVec 6) (rec : BitVec 32) : SlotRes :=
  let c := s.ctx k
  let cl := clusterOf k
  let spec := (s.readS k b).toNat
  if s.poolFree cl = 0 then .done (s.putS k d (BitVec.ofNat 64 (2 ^ 63 + 2 ^ 56)))
  else if !s.recFree cl rec then .stall .accept s
  else
    let x := (s.cluster cl).dc (bits spec 0 9)
    let s1 := s.newRecord cl rec c.grid (rpAt (s.readS k a &&& rpMask) 0) c.gidx.toNat
      (upredOf fun n => s.readP k (BitVec.ofNat 6 n)) (bits spec 0 10) (bits spec 32 32)
    let status := BitVec.ofNat 64 rec.toNat
    if spec.testBit 9 && x.count != 0 then
      .done ((s1.linkDc cl (bits spec 0 9) rec).putS k d status)
    else if !s.canReady (s.childOf k rec) then .stall .accept s
    else
      let s2 := s1.setRecErr cl rec (spec.testBit 9 && x.err)
      .done ((s2.makeReady (s.childOf k rec)).putS k d status)

/-- SPAWN (R319): the release, then the dispatcher's acceptance, then the child. -/
def execSpawn (g : Guard) (d a b : BitVec 6) (s : State) : Res :=
  yRes g (fun k => s.apart k fun s1 => s1.release k
    (match (s1.ctx k).wait with
    | .accepted rec => s1.spawnAct k d a b (BitVec.ofNat 32 rec)
    | _ => .stall .accept s1)) s

/-- Why a GROW by `n` fails, 0 if it does not (R320). -/
def State.growWhy (s : State) (k n : Nat) : Nat :=
  let g := s.grid (s.ctx k).grid
  if !(s.rcb k).growRight then 1
  else if n = 0 ∨ 2 ^ 32 ≤ g.groups + n then 2
  else if g.mapped ∧ n % 96 ≠ 0 then 3
  else 0

/-- A field of a loop record written in every replica (R315). -/
def State.putLoop (s : State) (g : Grid) (off v : Nat) : State := g.clusters.foldl (fun s cl => s.putRec cl g.lrec off 4 v) s

/-- GROW once the dispatcher has accepted it (R320, 02 R30). -/
def State.growAct (s : State) (k : Nat) (d : BitVec 6) (n : Nat) : State :=
  let id := (s.ctx k).grid
  let g := s.grid id
  let why := s.growWhy k n
  if why ≠ 0 then s.putS k d (BitVec.ofNat 64 (2 ^ 63 + why * 2 ^ 56))
  else (((s.putLoop g 0x18 (g.groups + n)).modGrid id fun g => { g with groups := g.groups + n }).putS k d (BitVec.ofNat 64 g.groups))

/-- GROW (R320): the demand, the release unless it fails, the dispatcher's acceptance, then the new count. -/
def execGrow (g : Guard) (d a : BitVec 6) (s : State) : Res :=
  yRes g (fun k => s.apart k fun s1 =>
    let n := bits (s.readS k a).toNat 0 32
    let go : SlotRes := match (s1.ctx k).wait with
      | .accepted _ => .done (s1.growAct k d n)
      | _ => .stall .accept s1
    if s1.growWhy k n = 0 then s1.release k go else s1.demandBlock k (s1.ctx k).scratchGoals go) s

/-! ### Suspension points (02 R36, 15 R321) -/

/-- Steps 1 to 3 of R36: every node is demanded, LDC, STC and TLC reach zero, results on their way to predicates land, and an owned Kerf retires. In a handler
the demand passes over failed nodes (16 R339). The waits block the context, for R37 and R39 name neither (DESIGN CHOICE, log entry 78). -/
def State.suspending (s : State) (k : Nat) (f : State → SlotRes) : SlotRes :=
  s.apart k fun s1 => s1.demandBlock k (s1.ctx k).allGoals
    (let c := s1.ctx k
    if c.ldc ≠ 0 ∨ c.stc ≠ 0 ∨ c.tlc ≠ 0 ∨ c.flights.any (fun (f : Flight) => match f.dest with | .preg _ => true | _ => false) then
      .block .drainOut s1
    else if c.kown ∧ (s1.core (coreOf k)).runsFor k then .block .retire s1
    else f s1)

/-- SUSPEND and YIELD in handler mode raise PRIV, whatever the guard (15 R318, 03 R53). -/
def suspendRes (g : Guard) (i : Instr) (f : Nat → State → SlotRes) (s : State) : Res :=
  .next (s.slot fun k =>
    if (s.ctx k).inHandler then .fault (precise cPRIV (encode i))
    else if s.guard k g then s.suspending k (f k)
    else .done s)

/-- The record is ready again: it enters the tail of its ready queue once it can (14 R306). `err`: a counter's ERR that its record takes; without it WAITON.ERR
stays (R321). -/
def State.requeue (s : State) (k : Nat) (err : Option Bool) : SlotRes :=
  let c := s.ctx k
  let cl := clusterOf k
  let e := s.readyOf cl c.record
  if s.canReady e then .left ((((s.writeBack k).setRecErr cl c.record (err.getD (s.cont cl c.record).err)).makeReady e).freeCtx k) else .stall .spill s

/-- SUSPEND (R321). -/
def execSuspend (g : Guard) (s : State) : Res :=
  suspendRes g (.suspend g) (fun k s1 =>
    let cl := clusterOf k
    let r0 := (s1.ctx k).record
    let w := s1.waitOn cl r0
    let x := (s1.cluster cl).dc (bits w 0 9)
    if w.testBit 9 && x.count != 0 then
      .left ((((s1.writeBack k).keepRecErr cl r0).linkDc cl (bits w 0 9) r0).freeCtx k)
    else s1.requeue k (if w.testBit 9 then some x.err else none)) s

/-- YIELD (R321). -/
def execYield (g : Guard) (s : State) : Res := suspendRes g (.yield g) (fun k s1 => s1.requeue k none) s

/-- The continuation is gone: its record is free, and its grid may be complete (R321, 02 R31). -/
def State.exitAct (s : State) (k : Nat) : State :=
  let c := s.ctx k
  let s1 := { s with conts := del s.conts (contKey (clusterOf k) c.record) }
  ((s1.modGrid c.grid fun g => { g with conts := g.conts - 1 }).freeCtx k).gridCheck c.grid

/-- EXIT (R321). -/
def execExit (g : Guard) (s : State) : Res := yRes g (fun k => s.suspending k fun s1 => .left (s1.exitAct k)) s

/-! ### Ring blocks (14 R290 to R296) -/

/-- A ring block's fields (R290). -/
structure Ring where
  base : Nat
  geom : Nat
  rsv : Nat
  cmt : Nat
  rd : Nat
  rel : Nat
  pad : Nat
deriving DecidableEq, Repr

def State.ring (s : State) (a : Nat) : Ring :=
  { base := s.mem.nat a 4, geom := s.mem.nat (a + 4) 4, rsv := s.mem.nat (a + 8) 4, cmt := s.mem.nat (a + 12) 4, rd := s.mem.nat (a + 16) 4
    rel := s.mem.nat (a + 20) 4, pad := s.mem.nat (a + 24) 8 }

/-- A difference of indices modulo 2^32. -/
def ixSub (x y : Nat) : Nat := (x + 2 ^ 32 - y) % 2 ^ 32

def Ring.size (b : Ring) : Nat := bits b.geom 0 16
def Ring.slots (b : Ring) : Nat := 2 ^ bits b.geom 16 4

/-- A well-formed block (R290). -/
def Ring.ok (b : Ring) : Bool :=
  b.pad == 0 && bits b.geom 20 12 == 0 && b.size % 8 == 0 && 8 ≤ b.size && b.size ≤ 32768 && bits b.geom 16 4 ≤ 15
    && ixSub b.rd b.rel ≤ ixSub b.cmt b.rel && ixSub b.cmt b.rel ≤ ixSub b.rsv b.rel && ixSub b.rsv b.rel ≤ b.slots

/-- The index and the slot address of a slot, as a data result (R293). -/
def Ring.slotWord (b : Ring) (i : Nat) : Word := BitVec.ofNat 64 (i * 2 ^ 32 + (b.base + i % b.slots * b.size) % 2 ^ 32)

/-- What a queue instruction answers: the index written, at its offset in the block; the data result; the predicate. -/
structure RingRes where
  write : Option (Nat × Nat)
  data : Option Word
  ok : Bool
deriving DecidableEq, Repr

/-- The result of a failure. -/
def ringNo : RingRes := ⟨none, none, false⟩

/-- QAcq (R293). -/
def Ring.acquire (b : Ring) (consumer : Bool) : RingRes :=
  if !b.ok then ⟨none, some (BitVec.allOnes 64), false⟩
  else if consumer then (if b.rd = b.cmt then ringNo else ⟨some (16, (b.rd + 1) % 2 ^ 32), some (b.slotWord b.rd), true⟩)
  else if ixSub b.rsv b.rel = b.slots then ringNo else ⟨some (8, (b.rsv + 1) % 2 ^ 32), some (b.slotWord b.rsv), true⟩

/-- QCommit (R293). -/
def Ring.commit (b : Ring) (i : Nat) : RingRes :=
  if b.ok && i == b.cmt && b.cmt != b.rsv then ⟨some (12, (i + 1) % 2 ^ 32), none, true⟩ else ringNo

/-- QPeek (R293). -/
def Ring.peek (b : Ring) : RingRes :=
  if !b.ok then ⟨none, some (BitVec.allOnes 64), false⟩
  else if b.rd = b.cmt then ringNo else ⟨none, some (b.slotWord b.rd), true⟩

/-- QRel (R293). -/
def Ring.release (b : Ring) (i : Nat) : RingRes :=
  if b.ok && i == b.rel && b.rel != b.rd then ⟨some (20, (i + 1) % 2 ^ 32), none, true⟩ else ringNo

/-- The checks of s_r, in their order (R292). -/
def ringFault (v : Nat) (side : Bool) : Option Trap :=
  let a := bits v 0 32
  if bits v 32 32 ≠ 0 ∨ !(spaceOf a == 1 || spaceOf a == 3) ∨ !inRange false (a / 32 * 32) 32 then some (precise cADDR v)
  else if bits v 1 4 ≠ 0 ∨ (!side ∧ v.testBit 0) then some (precise cALIGN v)
  else none

/-- The locks of a block's granules (13 R267). -/
def ringLocks (a : Nat) : List Nat := ((List.range 4).map fun i => lockOf (a + 8 * i)).eraseDups

/-- Context `k` has the locks of the block: each is its own, or free with no earlier request (R293, 13 R267). -/
def State.ringOpen (s : State) (k a : Nat) : Bool := (ringLocks a).all fun l => s.lockMine l k

/-- A queue instruction that finds a lock taken requests the locks of its block, in the order of first attempts (13 R267). -/
def State.ringAsk (s : State) (k a : Nat) : State :=
  if s.lockReqs.any fun (l : LockReq) => l.ring && l.k == k then s
  else { s with lockReqs := s.lockReqs ++ (ringLocks a).map fun l => ⟨l, k, true, none, s.cyc k⟩ }

/-- Its requests are served. -/
def State.ringTake (s : State) (k : Nat) : State := { s with lockReqs := s.lockReqs.filter fun (l : LockReq) => !(l.ring && l.k == k) }

/-- A queue instruction (R291 to R296): its checks, outside the segment, the release side where it has one (QPEEK waits only for the context's own
stores to the block, R296, and for its earlier reads of it, 12 R240), then one atomic action on the block, whose results land at the space's latency plus 4. -/
def ringRes (q : RingF) (side rel : Bool) (act : Ring → Word → Nat → RingRes) (s : State) : Res :=
  yRes q.g (fun k =>
    let v := (s.readS k q.r).toNat
    match ringFault v side with
    | some t => .fault t
    | none => s.apart k fun s1 =>
      let ea := bits v 0 32 / 32 * 32
      let a := scratchPhys false k ea
      let go : SlotRes :=
        if !s1.ringOpen k a then .stall (.lock a) (s1.ringAsk k a)
        else
          let x := act (s1.ring a) (s.readS k q.x) v
          let lat := spaceLat (spaceOf ea) + 4
          let s2 := s1.ringTake k
          let s3 := match x.write with | some w => { s2 with mem := s2.mem.putNat (a + w.1) 4 w.2 } | none => s2
          let s4 := match x.data with | some d => s3.lateS k q.x d lat | none => s3
          .done (s4.lateP k q.p (rep32 x.ok) lat)
      if rel then s1.release k go
      else if (s1.ctx k).storing (s1.ctx k).seqNow [(a, 32)] then .stall (.own a) s1
      else if s1.readsBefore k (s1.ctx k).seqNow [(a, 32)] then .stall (.reads a 32) s1
      else go) s

/-- QACQ (R293). -/
def execQacq (q : RingF) (s : State) : Res := ringRes q true true (fun b _ v => b.acquire (v.testBit 0)) s

/-- QCOMMIT (R293). -/
def execQcommit (q : RingF) (s : State) : Res := ringRes q false true (fun b x _ => b.commit (bits x.toNat 32 32)) s

/-- QPEEK (R293). -/
def execQpeek (q : RingF) (s : State) : Res := ringRes q false false (fun b _ _ => b.peek) s

/-- QREL (R293). -/
def execQrel (q : RingF) (s : State) : Res := ringRes q false true (fun b x _ => b.release (bits x.toNat 32 32)) s

end Sys2Proof.Machine
end

