-- ==== Sys2Proof/Machine/Events.lean ====
section
/-!
DEFINITION. The events of a core: contexts and their waits (02_execution R37 to R39), fetch (02 R44, R45), engines, results and locks (03 R64, R65; 13
R257, R267, R268), the Kerf and the thunk table (07, 16, 17), SCRIBE_COMPLETE (07 R149 to R153), step traps, late faults of landings (16 R340), rewinds (19 R394) and
pre-emption requests (02 R47, R49). An event whose condition does not hold leaves the state as it is.
-/
namespace Sys2Proof.Machine

/-! ### What ends a wait (02 R37, R39) -/

/-- The suspension point can go on (02 R36). -/
def Ctx.drainedOut (c : Ctx) : Bool :=
  c.ldc == 0 && c.stc == 0 && c.tlc == 0 && !c.flights.any fun (f : Flight) => match f.dest with | .preg _ => true | _ => false

/-- A bundle of the context has an instruction that its elastic buffer's SLACK no longer absorbs (03 R65). -/
def Ctx.exhausted (c : Ctx) (cycle : Nat) : Bool := c.buf.any fun (b : BufOp) => b.limit < cycle

/-- The engine of the slot in progress can take its instruction, and no buffer is exhausted (03 R65). -/
def State.engineFree (s : State) (k : Nat) : Bool :=
  let c := s.ctx k
  !c.exhausted (s.cyc k) && (c.run.isNone || !s.bufFull k c.slotNow)

/-- The condition a context waits for holds, and no held operation demands at its segment's commit (12 R236). -/
def State.waitOver (s : State) (k : Nat) : Bool :=
  let c := s.ctx k
  (!c.goalHeld || (c.openGoals c.goalSkip c.goals).isEmpty) && match c.wait with
  | .none => true
  | .limits a b d e => c.ldc ≤ a && c.stc ≤ b && c.cpc ≤ d && c.tlc ≤ e
  | .token n => (c.tok n).st != .pending
  | .kin n b => !s.kinOpen k (n, b)
  | .dcZero n => ((s.cluster (clusterOf k)).dc n).count == 0
  | .dcMet .. => true
  | .phase b => !c.heldArrival b && ((s.cluster (clusterOf k)).bar b).phase != barSeen c.barst b
  | .phaseMet => true
  | .demand => (c.openGoals c.goalSkip c.goals).isEmpty
  | .counters => c.countersDone
  | .earlier _ => s.priorDone k
  | .pathTime t => t ≤ s.time
  | .pathCycle n => n ≤ s.cyc k
  | .work n => n ≤ s.cyc k
  | .drainOut => c.drainedOut
  | .scribe => false
  | .cut => s.snapPath k && (s.snapTurn k || !s.snapQ.any fun x => x.1 == k)
  | .engine => s.engineFree k
  | .commit => !c.committing
  | .room .none => c.cpc ≤ 62
  | .room .ldc => c.ldc ≤ 62
  | .room .stc => c.stc ≤ 62
  | .room .tlc => c.tlc ≤ 62
  | .room _ => true
  | .roomCpc => c.cpc ≤ 62
  | .td n => !c.flights.any fun (f : Flight) => f.dest == .td n
  | .tdRead n => !c.flights.any fun (f : Flight) => f.dest == .td n && !f.acc
  | .turn => !s.acquiring k c.seqNow && (c.waiting 3).isEmpty
  | .reads a n => !s.mustNotRead k c.seqNow [(a, n)]
  | .accept => false
  | .accepted _ => true
  | .spill => s.canReady (s.readyOf (clusterOf k) c.record)
  | .spillDc n => (State.readyLinks (clusterOf k) false ((s.cluster (clusterOf k)).dc n).links s).isSome
  | .stores q => s.drainedAll k q
  | .loads q => !s.loadsUnread k (q - 1)
  | .performed => c.stq.isEmpty
  | .own a => !c.storing c.seqNow [(a, 32)]
  | .lock a => s.ringOpen k a
  | .retire => !(s.core (coreOf k)).runsFor k
  | .follower => false

/-! ### The selector (02 R38) -/

/-- Context `j` goes before context `k`: higher priority, ready for longer, lower number. -/
def State.before (s : State) (j k : Nat) : Bool :=
  let a := s.ctx j
  let b := s.ctx k
  b.boundPrio < a.boundPrio || (a.boundPrio == b.boundPrio && (a.since < b.since || (a.since == b.since && j < k)))

/-- The core has a running context, or the follower of a running leader (19 R396). -/
def State.coreBusy (s : State) (core : Nat) : Bool :=
  (ctxsOf core).any fun j => (s.ctx j).status == .running || ((s.ctx j).wait == .follower && (s.ctx (j - 4)).status == .running)

/-- The ready context of a core that the selector gives issue to: of those that were ready before this cycle; a pair needs both its cores. -/
def State.chosen (s : State) (core : Nat) : Option Nat :=
  ((ctxsOf core).filter fun j => (s.ctx j).status == .ready && decide ((s.ctx j).since < s.cyc j) && (!(s.ctx j).prot || !s.coreBusy (core + 1))).foldl (fun b j =>
    match b with
    | none => some j
    | some i => if s.before j i then some j else some i) none

/-- The selector can give issue now: no context runs, none has been found blocked in this cycle, and one is ready. -/
def State.selects (s : State) (core : Nat) : Bool :=
  !s.coreBusy core && !(ctxsOf core).any (fun j => (s.ctx j).status == .blocked && (s.ctx j).since == s.cyc (4 * core)) && (s.chosen core).isSome

/-- The selector gives issue to the best ready context when none runs: it can issue in the cycle after the one in which it became ready or in which the running
context was found blocked, and one cycle later if the core was idle and another context ran last (R38). -/
def State.select (s : State) (core : Nat) : State :=
  if !s.selects core then s
  else match s.chosen core with
    | none => s
    | some j =>
      let co := s.core core
      let other := co.lastCtx ≠ j % 4
      (s.modCtx j fun c => { c with
        status := .running, issueAt := Nat.max c.issueAt (s.cyc j + (if other ∧ co.ranAt + 1 < c.since then 1 else 0)) }).modCore core fun co =>
          if other then { co with lastCtx := j % 4, switches := co.switches + 1 } else co

/-- A wait that a change of a counter or of a barrier word ends: what the context then reads is fixed (18 R377, R379). -/
def State.met (s : State) (k : Nat) : Wait → Wait
  | .dcZero n => .dcMet n ((s.cluster (clusterOf k)).dc n).err
  | .phase _ => .phaseMet
  | w => w

/-- CONTEXT_UNBLOCK (02 R38): a blocked context whose condition holds becomes ready; else the selector acts. -/
def State.unblock (s : State) (k : Nat) : State :=
  let c := s.ctx k
  if c.status = .blocked ∧ s.waitOver k then s.putCtx k ({ c with wait := s.met k c.wait }.awake (s.cyc k)) else s.select (coreOf k)

/-! ### Fetch (02 R44, R45; 03 R69) -/

/-- An active loop level has its body's start in this block and its end in the block in use: it stays resident for the back edge (08 R171; DEDUCED, log entry 17). -/
def Ctx.loopsTo (c : Ctx) (b : Block) : Bool :=
  let holds := fun (b : Block) (a : BitVec 32) => b.bundles.any fun (x : XBundle) => decide (x.addr = a)
  [0, 1, 2, 3].any fun n =>
    let l := lookD c.lbody n 0
    lbAct l && holds b (lbAddr l) && (c.half c.curHalf).any fun (d : Block) => holds d (lbEnd l)

/-- The successor to expand into the other half: its header and the cycle from which its latency counts. -/
def Ctx.wantsAhead (c : Ctx) : Option (BitVec 32 × Nat) :=
  match c.halfAt, c.half c.curHalf with
  | some n, some b =>
    if b.defect.isSome ∨ c.refetch ∨ (c.half (!c.curHalf)).any (fun (x : Block) => x.head == b.next || c.loopsTo x) then none else some (b.next, n)
  | _, _ => none

/-- PREFETCH_BLOCK: once the first bundle of a half has issued, the block's successor is expanded into the other half. -/
def State.prefetch (s : State) (k : Nat) : State :=
  let c := s.ctx k
  match c.wantsAhead with
  | some (a, n) =>
    let b := some { expandBlock s.mem c.mapped k a with ready := n + fetchCycles a }
    s.putCtx k { c with halves := if c.curHalf then (b, c.halves.2) else (c.halves.1, b) }
  | none => s

/-- FETCH_REDIRECT: the addressed block is delivered into the half that does not hold the redirecting bundle; a RET that its return stack predicted
waits six cycles less (R45, 08 R167). -/
def State.redirect (s : State) (k : Nat) : State :=
  let c := s.ctx k
  if c.status = .free ∨ c.run.isSome then s
  else
    match c.locate with
    | .absent =>
      let b := { expandAt s.mem c.mapped k c.pc with
        first := rpBidx c.pc, ready := c.redirAt + fetchCycles (rpAddr c.pc) - (if c.quick then 6 else 0) }
      s.putCtx k { c.fill b none with refetch := false }
    | _ => s

/-! ### Lockstep pairs (19 R398) -/

/-- The next bundle of a context, once it is delivered. -/
def Ctx.nextBundle (c : Ctx) : Option XBundle := match c.locate with | .at_ _ _ x => some x | _ => none

/-- The registers that the slots still to run of the next bundle read. -/
def Ctx.nextReads (c : Ctx) : List Dest :=
  match c.nextBundle with
  | some x => ((List.range 8).map fun n => if rpSlot c.pc ≤ n then (match x.instr n with | .ok i => Instr.reads i | .error _ => []) else []).flatten
  | none => []

/-- A held operation of the open segment has to perform before the context can go on: a counter, a token, a dependence counter, a barrier word or a register waits
for it, or a load for its bytes. The segment then commits, or the context would wait for ever (DESIGN CHOICE, log entry 36). -/
def State.needsHeld (s : State) (k : Nat) : Bool :=
  let c := s.ctx k
  let seqs := c.held.map fun (b : BufOp) => b.seq
  (match c.wait with
    | .limits _ st cp tl => st < c.heldStores || cp < c.heldCopies || tl < c.heldMoves
    | .room .stc => 62 < c.heldStores
    | .room .tlc => 62 < c.heldMoves
    | .roomCpc => 62 < c.heldCopies
    | .token n => c.held.any fun (b : BufOp) => b.op.produces (n, (c.tok n).bind)
    | .kin n b => c.held.any fun (x : BufOp) => x.op.produces (n, b)
    | .dcZero n => c.held.any fun (b : BufOp) => match b.op with | .copy m => m.desc.dcen && m.desc.dc == n | _ => false
    | .phase n => c.held.any fun (b : BufOp) => b.op == .sync (some n)
    | .reads a n => c.blockedBy true c.seqNow [(a, n)]
    | _ => false)
  || c.buf.any (fun (b : BufOp) => match b.op with | .load o => c.blockedBy true b.seq o.parts | _ => false)
  || (c.run.isNone && c.nextReads.any fun d => c.flights.any fun (f : Flight) => f.dest == d && !f.acc && seqs.contains f.seq)

/-- The segment commits for the sake of such an operation, and the next bundle opens a new one. -/
def State.commitNeeded (s : State) (k : Nat) : State := (s.modCtx k fun c => { c with reopen := true }).startCommit k

/-- RENDEZVOUS: a detached pair meets before its RDV bundle issues; it is in step once the bundle's last slot has committed (03 R68). -/
def State.rendezvous (s : State) (k : Nat) : State :=
  let c := s.ctx k
  if c.prot ∧ !c.inStep ∧ c.run.isNone ∧ c.nextBundle.any XBundle.rdv then s.putCtx k { c with met := true } else s

/-! ### Traps between bundles -/

/-- STEP_TRAP (19 R388, R403): taken after the completed bundle, unless its task body has ended. -/
def State.stepTrap (s : State) (k : Nat) : State :=
  let c := s.ctx k
  if c.stepDue ∧ c.run.isNone ∧ c.status = .running ∧ !c.ending ∧ !c.committing then s.trapAt k ⟨⟨cSTEP, 0, 0, false⟩, c.pc, 0, 0, none⟩ else s

/-- The open segment's commit waits at its oldest held operation. -/
def State.commitWaits (s : State) (k : Nat) : Bool :=
  let c := s.ctx k
  c.committing && match c.held with | b :: _ => decide (c.commitAt ≤ s.cyc k) && !s.commitReady k b | [] => false

/-- A landing's late fault can be taken now (16 R340): at the slot that blocks the context, or the held operation at which its segment's commit waits, once no node of its own
demand is half run, or before the next bundle issues. A bundle entered in its middle is not the next one (log entry 14). -/
def State.landFaultDue (s : State) (k : Nat) : Bool :=
  let c := s.ctx k
  c.landFault.isSome && !s.slotRuns k &&
    if c.committing then s.commitWaits k
    else match c.run with
      | some _ => c.status == .blocked || (match c.wait with | .earlier _ => true | _ => false)
      | none => c.status != .free && rpSlot c.pc == 0

/-- LANDING_LATE_FAULT (16 R340). -/
def State.landingLateFault (s : State) (k : Nat) : State :=
  let c := s.ctx k
  match c.landFault with
  | none => s
  | some t =>
    let s1 := s.putCtx k { c with landFault := none }
    if !s.landFaultDue k then s
    else if c.committing then (let rp := match c.held with | b :: _ => b.rp | [] => c.resumePoint; s1.commitFault k { t with faddr := rp } rp)
    else s1.raise k { t with faddr := c.resumePoint } c.slotNow

/-- UECC_CONSUMED (19 R394): by a slot, or by a held operation at its commit. -/
def State.uecc (s : State) (k : Nat) : State :=
  let c := s.ctx k
  if c.status = .free ∨ c.wait = .follower then s else s.rewind k

/-- SIGMIS (19 R397): the pair rewinds. -/
def State.sigmis (s : State) (k : Nat) : State := if (s.ctx k).prot then s.uecc k else s

/-! ### SCRIBE (07 R149 to R153) -/

/-- What SCRIBE reports: the lowest chain out of range, else 64 for the gain (R149). -/
def scribeBad (codes : List (BitVec 7)) (gain : BitVec 16) : Option Nat :=
  match (List.range 64).find? fun n => let c := (codes.getD n 0).toNat; decide (c < 8 ∨ 119 < c) with
  | some n => some n
  | none => if gain.toNat < 0x1000 ∨ 0xf000 < gain.toNat then some 64 else none

/-- The registers at the end of SCRIBE, and the firmware writes that waited for it. -/
def Core.scribed (co : Core) (codes : List (BitVec 7)) (gain : BitVec 16) (temp : BitVec 8) (time : Nat) : Core :=
  let bad := scribeBad codes gain
  let co1 := { co with
    ktrim := (List.range 64).map fun n => (n, codes.getD n 0)
    kgain := gain, kcal := fields [(0, if bad.isSome then 3 else 1), (40, temp.toNat)], calTime := some time, scribe := none }
  co1.settleWrites

/-- What the registers of a core say of its last SCRIBE (R149). -/
def Core.scribeFault (co : Core) : Option Nat := scribeBad ((List.range 64).map fun n => lookD co.ktrim n 64) co.kgain

/-- TRIMRNG at the SCRIBE slot of context `k`, counted by its core, and by both of a lockstep pair, whose tiles have both failed (R150, R154; 18 R368). -/
def State.trimrng (s : State) (k bad : Nat) : State :=
  let count := fun (co : Core) => { co with trimf := co.trimf + 1 }
  let s1 := s.modCore (coreOf k) count
  (if (s.ctx k).prot then s1.modCore (coreOf k + 1) count else s1).raise k (precise cTRIMRNG bad) 3

/-- SCRIBE_COMPLETE (R149, R150): 40,960 ns after it began, the SCRIBE slot completes or raises TRIMRNG; of a lockstep pair once both tiles are done, and with
SIGMIS where they disagree in outcome (R154). -/
def State.scribeComplete (s : State) (core : Nat) (codes : List (BitVec 7)) (gain : BitVec 16) (temp : BitVec 8) : State :=
  match (s.core core).scribe with
  | none => s
  | some (j, t) =>
    if s.time < t + 40960 then s
    else
      let pair := (s.ctx j).prot
      let k := if (s.ctx j).wait = .follower then j - 4 else j
      let out := scribeBad codes gain
      let other := s.core (if k = j then core + 1 else core - 1)
      let s1 := s.modCore core fun co => { co.scribed codes gain temp s.time with scribeOut := some out.isSome }
      if (s1.ctx k).wait ≠ .scribe ∨ (pair ∧ other.scribe.isSome) then s1
      else if pair ∧ other.scribeOut ≠ some out.isSome then s1.sigmis k
      else match (if k = j then out else other.scribeFault) with
        | none => s1.finishSlot k
        | some n => s1.trimrng k n

/-! ### Pre-emption requests (02 R47, R49) -/

/-- Bytes of a save frame (19 R400). -/
def frameBytes (win : Nat) : Nat := 0x18000 + 128 * win

/-- PREEMPT_REQUEST: firmware names a frame in cluster or die SRAM. The boundary that follows the request is the one that counts (R47). -/
def State.preemptRequest (s : State) (k : Nat) (frame : BitVec 32) : State :=
  let c := s.ctx k
  let sp := spaceOf frame.toNat
  if c.status = .free ∨ c.preempt.isSome ∨ c.wait = .follower ∨ !(sp == 1 || sp == 3) ∨ !inRange false frame.toNat (frameBytes c.win) then s
  else s.putCtx k { c with preempt := some ⟨s.time, frame⟩, boundary := false }

/-! ### The events -/

/-- CONTEXT_UNBLOCK (02 R38). -/
def execContextUnblock (k : Nat) (s : State) : Res := .next (s.unblock k)

/-- RENDEZVOUS (19 R398). -/
def execRendezvous (k : Nat) (s : State) : Res := .next (s.rendezvous k)

/-- PREFETCH_BLOCK (02 R44). -/
def execPrefetchBlock (k : Nat) (s : State) : Res := .next (s.prefetch k)

/-- FETCH_REDIRECT (02 R45). -/
def execFetchRedirect (k : Nat) (s : State) : Res := .next (s.redirect k)

/-- ENGINE_ACCEPT (03 R65). -/
def execEngineAccept (k : Nat) (eng : BitVec 3) (s : State) : Res := .next (s.engineAccept k eng.toNat)

/-- RESULT_LANDS (03 R64). -/
def execResultLands (k : Nat) (s : State) : Res := .next (s.land k fun f => f.ctr != .ldc)

/-- LOAD_RETIRE (13 R257). -/
def execLoadRetire (k : Nat) (s : State) : Res := .next (s.land k fun f => f.ctr == .ldc)

/-- STORE_PERFORM (13 R257). -/
def execStorePerform (k : Nat) (s : State) : Res := .next (s.performStore k)

/-- LOCK_GRANT (13 R267). -/
def execLockGrant (lock : Nat) (s : State) : Res := .next (s.grantLock lock)

/-- LOCK_TIMEOUT (13 R267). -/
def execLockTimeout (lock : Nat) (s : State) : Res := .next (s.expireLock lock)

/-- LDL_GRANT_TIMEOUT (13 R268). -/
def execLdlGrantTimeout (k : Nat) (s : State) : Res := .next (s.timeoutLdl k)

/-- STEP_TRAP (19 R403). -/
def execStepTrap (k : Nat) (s : State) : Res := .next (s.stepTrap k)

/-- LANDING_LATE_FAULT (16 R340). -/
def execLandingLateFault (k : Nat) (s : State) : Res := .next (s.landingLateFault k)

/-- UECC_CONSUMED (19 R394). -/
def execUeccConsumed (k : Nat) (s : State) : Res := .next (s.uecc k)

/-- SIGMIS (19 R397). -/
def execSigmis (k : Nat) (s : State) : Res := .next (s.sigmis k)

/-- PREEMPT_REQUEST (02 R47). -/
def execPreemptRequest (k : Nat) (frame : BitVec 32) (s : State) : Res := .next (s.preemptRequest k frame)

/-- KERF_PASS (07 R137). -/
def execKerfPass (k : Nat) (good : Bool) (s : State) : Res := .next (s.kerfPass k good)

/-- RACE_PASS (07 R147). -/
def execRacePass (k : Nat) (good : Bool) (s : State) : Res := .next (s.racePass k good)

/-- NODE_RUN (17 R350). -/
def execNodeRun (k : Nat) (s : State) : Res := .next (s.nodeRun k)

/-- NODE_RETIRE (16 R331). -/
def execNodeRetire (k : Nat) (s : State) : Res := .next (s.nodeRetire k)

/-- SCRIBE_COMPLETE (07 R149). -/
def execScribeComplete (core : Nat) (codes : List (BitVec 7)) (gain : BitVec 16) (temp : BitVec 8) (s : State) : Res :=
  .next (s.scribeComplete core codes gain temp)

/-- KERF_FIRMWARE_WRITE (07 R153). -/
def execKerfFirmwareWrite (core : Nat) (reg : BitVec 7) (value : BitVec 64) (s : State) : Res := .next (s.kerfFirmwareWrite core reg.toNat value)

/-- COPY_START (14 R302). -/
def execCopyStart (id : Nat) (s : State) : Res := .next (s.copyStart id)

/-- COPY_PIECE (13 R272). -/
def execCopyPiece (id : Nat) (good ecc : Bool) (s : State) : Res :=
  match s.copyPiece id good ecc with
  | some t => .next t
  | none => .fault .noSuchMemory

/-- COLLECTIVE_STEP (13 R280). -/
def execCollectiveStep (id : Nat) (good : Bool) (others : List (List Byte)) (s : State) : Res :=
  match s.collectiveStep id good others with
  | some t => .next t
  | none => .fault .noSuchMemory

/-- COPY_COMPLETE (13 R277). -/
def execCopyComplete (id : Nat) (s : State) : Res := .next (s.copyComplete id)

/-- LANDING_RELEASE (16 R335). -/
def execLandingRelease (id : Nat) (s : State) : Res := .next (s.landingRelease id)

end Sys2Proof.Machine
end

