-- ==== Sys2Proof/Machine/Dispatcher.lean ====
section
/-!
DEFINITION. The dispatcher: issue of indices and gangs (02_execution R28, R29), acceptance of SPAWN and GROW (15_tables R317 to R320), binding (02 R34, R35,
R40), ageing (02 R41), the overflow ring (14_queues R304 to R306), timers (18 R382), and the pre-emption save and resume (19 R399 to R401).
-/
namespace Sys2Proof.Machine

/-! ### Issue of indices (02 R28, R29; 15 R315 to R317) -/

/-- The clusters of a grid in the order of their turn. -/
def Grid.turns (g : Grid) : List (Nat × Nat) :=
  let n := g.clusters.length
  (List.range n).map fun i => ((g.rot + i) % n, g.clusters.getD ((g.rot + i) % n) 0)

/-- The priority of the grid's new continuations. -/
def State.gridPrio (s : State) (g : Grid) : Nat := (s.region g.region).rcb.prio

/-- A ready queue can take `n` new indices: it does not spill for them (R28, R29; 14 R304). -/
def State.queueRoom (s : State) (cl p n : Nat) : Bool := s.queueLen cl p + n ≤ 1024 && s.clusterLen cl + n ≤ 4096 && !s.spilledAt cl p

/-- A new index as a continuation, ready in its cluster. -/
def State.issueIndex (s : State) (grid cl : Nat) (rec : BitVec 32) (core : Option Nat) (gidx : Nat) : State :=
  let s1 := s.newRecord cl rec grid (s.grid grid).entry gidx 0 0 0
  let s2 := { s1 with conts := put s1.conts (contKey cl rec) ⟨grid, core, false, false⟩ }
  s2.makeReady (s2.readyOf cl rec)

/-- ISSUED and the turn after `n` indices (15 R315). -/
def State.issuedMore (s : State) (grid n turn : Nat) : State :=
  let g := s.grid grid
  (s.putLoop g 0x40 (g.issued + n)).modGrid grid fun g => { g with issued := g.issued + n, rot := (turn + 1) % g.clusters.length }

/-- DISPATCH_INDEX (02 R28): the next index goes to the next cluster in turn whose queue is not full; an empty pool stops issue (15 R317). -/
def State.dispatchIndex (s : State) (grid : Nat) (rec : BitVec 32) : State :=
  let g := s.grid grid
  if !g.live ∨ g.mapped ∨ g.groups ≤ g.issued then s
  else match g.turns.find? fun t => s.queueRoom t.2 (s.gridPrio g) 1 with
    | none => s
    | some (i, cl) => if s.recFree cl rec then (s.issueIndex grid cl rec none g.issued).issuedMore grid 1 i else s

/-- A cluster has room for a gang (R29). -/
def State.gangRoom (s : State) (g : Grid) (cl : Nat) : Bool := s.queueRoom cl (s.gridPrio g) 96 && 96 ≤ s.poolFree cl

/-- DISPATCH_GANG (02 R29). -/
def State.dispatchGang (s : State) (grid : Nat) (recs : List (BitVec 32)) : State :=
  let g := s.grid grid
  if !g.live ∨ !g.mapped ∨ g.groups < g.issued + 96 ∨ recs.length ≠ 96 ∨ !decide recs.Nodup then s
  else match g.turns.find? fun t => s.gangRoom g t.2 with
    | none => s
    | some (i, cl) =>
      if recs.all (s.recFree cl) then
        (((List.range 96).zip recs).foldl (fun s x => s.issueIndex grid cl x.2 (some x.1) (g.issued + x.1)) s).issuedMore grid 96 i
      else s

/-! ### Acceptance (15 R319, R320; 14 R306) -/

/-- DISPATCHER_ACCEPT: a SPAWN is accepted with a free record, once its child can enter its queue or its ring; with an empty pool it fails at once. -/
def State.dispatcherAccept (s : State) (k : Nat) (rec : BitVec 32) : State :=
  let c := s.ctx k
  let cl := clusterOf k
  let accept := s.putCtx k { c with wait := .accepted rec.toNat }
  if c.wait ≠ .accept then s
  else match c.run with
    | none => s
    | some r =>
      match r.xb.instr r.slot with
      | .ok (.spawn _ _ _ b) =>
        let spec := (s.readS k b).toNat
        let linked := spec.testBit 9 && ((s.cluster cl).dc (bits spec 0 9)).count != 0
        if s.poolFree cl = 0 || (s.recFree cl rec && (linked || s.canReady (s.childOf k rec))) then accept else s
      | .ok (.grow ..) => accept
      | _ => s

/-! ### What fits (02 R26, R34, R40) -/

/-- A core's number in its cluster. -/
def coreIn (k : Nat) : Nat := coreOf k % 96

/-- Registers of the resident windows of a core (R34). -/
def State.windowUse (s : State) (core : Nat) : Nat := ((ctxsOf core).map fun j => (s.ctx j).win).sum

/-- Cores with a context bound to the region (R26). -/
def State.regionCores (s : State) (r : Nat) : List Nat :=
  (s.ctxs.filterMap fun e => if e.2.status != .free && e.2.region == r then some (coreOf e.1) else none).eraseDups

/-- A free context has room on its core for a continuation of the grid. -/
def State.coreFits (s : State) (g : Grid) (k : Nat) : Bool :=
  (s.ctx k).status == .free && s.windowUse (coreOf k) + g.win ≤ 1024 && !(g.kerf && (s.core (coreOf k)).owner.isSome)

/-- A region that runs in protected mode binds pairs (19 R396). -/
def State.prot (s : State) (r : Nat) : Bool := (s.region r).rcb.prot

/-- Context `k`, with its follower in protected mode, has room for a continuation of the grid. -/
def State.unitFits (s : State) (g : Grid) (k : Nat) : Bool :=
  s.coreFits g k && (!s.prot g.region || (coreIn k % 2 == 0 && s.coreFits g (k + 4)))

/-- The cores that binding `ks` would add keep the region within its core budget (R26). -/
def State.budgetFits (s : State) (r : Nat) (ks : List Nat) : Bool :=
  let used := s.regionCores r
  let added := ((ks.map fun k => if s.prot r then [coreOf k, coreOf k + 1] else [coreOf k]).flatten.eraseDups).filter fun n => !used.contains n
  used.length + added.length ≤ (s.region r).rcb.cores

/-- The gang of a ready continuation of a mapped grid (R29): the entries of its 96 indices that stand in ready queues, unsaved. -/
def State.gangOf (s : State) (e : Ready) : List Ready :=
  let m := fun (x : Ready) => s.recNat x.cluster x.record 0x14 4 / 96
  s.ready.filter fun (x : Ready) => x.cluster == e.cluster && x.grid == e.grid && !x.saved && m x == m e

/-- A context on core `c` of the cluster that the gang's member can bind. -/
def State.gangCtx (s : State) (g : Grid) (cl c : Nat) : Option Nat := (ctxsOf (96 * cl + c)).find? fun k => s.unitFits g k

/-- Contexts of the gang's other cores, and `k` on its own. -/
def State.gangCtxs (s : State) (g : Grid) (k : Nat) : List (Nat × Nat) :=
  (List.range 96).filterMap fun c =>
    if c = coreIn k then (if s.unitFits g k then some (c, k) else none) else (s.gangCtx g (clusterOf k) c).map fun j => (c, j)

/-- Two entries in the order of binding: effective priority, then the order in which they became ready (R40). -/
def State.ahead (s : State) (a b : Ready) : Bool := s.effPrio b < s.effPrio a || (s.effPrio a == s.effPrio b && a.order ≤ b.order)

def State.insertReady (s : State) (e : Ready) : List Ready → List Ready
  | [] => [e]
  | x :: r => if s.ahead x e then x :: s.insertReady e r else e :: x :: r

/-- The entries of a cluster in the order of binding. -/
def State.queueOf (s : State) (cl : Nat) : List Ready :=
  (s.ready.filter fun (e : Ready) => e.cluster == cl).foldl (fun l e => s.insertReady e l) []

/-- Contexts of a cluster that are free, as bits. -/
def State.freeMask (s : State) (cl : Nat) : Nat :=
  (List.range 384).foldl (fun m i => if (s.ctx (384 * cl + i)).status = .free then m + 2 ^ i else m) 0

/-- Context `j` could bind the continuation by itself (R34): the member of a gang only if it comes back alone. -/
def State.fitsAlone (s : State) (j : Nat) (e : Ready) : Bool :=
  s.unitFits (s.grid e.grid) j && s.budgetFits e.region [j] && e.core.all fun c => c == coreIn j && (e.saved || (s.gangOf e).length != 96)

/-- A whole dispatch round has passed since the core skipped the record (R40). -/
def State.roundOver (s : State) (cl core : Nat) (rec : BitVec 32) : Bool :=
  (s.cluster cl).rounds.any fun x => x.1 == rec && x.2.1 == core && (x.2.2 ||| s.freeMask cl) == 2 ^ 384 - 1

/-- What context `j` passes over when it binds its member of a gang: the entries of the queue before the member that are no members, if `j` could bind none of them and
none has waited a round there (R40). -/
def State.passedFor (s : State) (j : Nat) (gang : List Ready) (m : Ready) : List Ready → List Ready → Option (List Ready)
  | skipped, [] => some skipped
  | skipped, e :: r =>
    if e = m then some skipped
    else if gang.contains e then passedFor s j gang m skipped r
    else if s.fitsAlone j e || s.roundOver e.cluster (coreIn j) e.record then none
    else passedFor s j gang m (skipped ++ [e]) r

/-- What context `k` would bind with a ready continuation, each entry with its context and what that passes over, if it satisfies R34. A whole gang binds in one step
(R29), every core in the order of its queues (R40); a member that comes back alone binds on its core. `skipped`: what `k` passes over. -/
def State.fits (s : State) (k : Nat) (skipped : List Ready) (e : Ready) : Option (List (Nat × Ready × List Ready)) :=
  let g := s.grid e.grid
  let gang := s.gangOf e
  if e.core.isNone ∨ e.saved ∨ gang.length ≠ 96 then (if s.fitsAlone k e then some [(k, e, skipped)] else none)
  else if e.core ≠ some (coreIn k) then none
  else
    let ks := s.gangCtxs g k
    let q := s.queueOf e.cluster
    let all := ks.filterMap fun x => (gang.find? fun (y : Ready) => y.core == some x.1).bind fun y =>
      (if x.2 = k then some skipped else s.passedFor x.2 gang y [] q).map fun l => (x.2, y, l)
    if all.length = 96 ∧ s.budgetFits e.region (ks.map fun x => x.2) then some all else none

/-- The first continuation that fits; none behind one that has waited a round (R40). -/
def State.firstFit (s : State) (k : Nat) : List Ready → List Ready → Option (Ready × List (Nat × Ready × List Ready))
  | _, [] => none
  | skipped, e :: r =>
    match s.fits k skipped e with
    | some l => some (e, l)
    | none => if s.roundOver e.cluster (coreIn k) e.record then none else firstFit s k (skipped ++ [e]) r

/-- What context `k` binds next. -/
def State.nextBinding (s : State) (k : Nat) : Option (Ready × List (Nat × Ready × List Ready)) :=
  if (s.ctx k).status = .free then s.firstFit k [] (s.queueOf (clusterOf k)) else none

/-- The rounds once context `k`, of a pair with its follower, binds: it has been free in all of them, and those it passes over begin theirs. -/
def State.passOver (s : State) (k : Nat) (pair : Bool) (skipped : List Ready) : State :=
  let bit := 2 ^ (k % 384) + (if pair then 2 ^ ((k + 4) % 384) else 0)
  s.modCluster (clusterOf k) fun cl =>
    let kept := (cl.rounds.filter fun x => s.ready.any fun (e : Ready) => e.cluster == clusterOf k && e.record == x.1).map
      fun x => (x.1, x.2.1, x.2.2 ||| bit)
    let fresh := skipped.filterMap fun (e : Ready) =>
      if kept.any fun x => x.1 == e.record && x.2.1 == coreIn k then none else some (e.record, coreIn k, bit)
    { cl with rounds := kept ++ fresh }

/-! ### Binding (02 R35) -/

/-- SLACK that a slack class honours, in units of four cycles (02 R27). -/
def slackOf (cls : Nat) : Nat := match cls with | 0 => 0 | 1 => 4 | 2 => 8 | _ => 15

/-- What every binding sets: the continuation, its grid's shape and the redirect to its resume point (R35, R45). Copy commands of an earlier continuation may still
wait for their engine (R36). -/
def State.boundCtx (s : State) (k : Nat) (e : Ready) (pc : Word) : Ctx :=
  let g := s.grid e.grid
  let rcb := (s.region e.region).rcb
  let c := s.ctx k
  { Ctx.reset with
    status := .ready, since := s.cyc k, gen := c.gen, grid := e.grid, region := e.region, record := e.record
    gidx := BitVec.ofNat 32 (s.recNat e.cluster e.record 0x14 4), iidx := BitVec.ofNat 32 (s.recNat e.cluster e.record 0x18 4)
    win := g.win, nbank := g.nbank, kown := g.kerf, prot := rcb.prot, mapped := g.mapped, slackLimit := slackOf g.slackc
    boundPrio := rcb.prio, pc := pc, redirAt := s.cyc k, buf := c.buf, bundleSeq := c.bundleSeq, bindSrc := c.bindSrc }

/-- The bind values of the registers (R35, 05 R105, R106). -/
def State.freshCtx (s : State) (k : Nat) (e : Ready) : Ctx :=
  let cl := e.cluster
  let c := s.boundCtx k e (BitVec.ofNat 64 (s.recNat cl e.record 0 8) &&& rpMask)
  let up := s.recNat cl e.record 0x20 8
  { c with
    sregs := [(1, c.gidx.setWidth 64), (2, c.iidx.setWidth 64), (3, e.record.setWidth 64)]
    pregs := (List.range 48).filterMap fun n => if n ≠ 0 ∧ up.testBit n then some (n, BitVec.allOnes 32) else none
    sys := { Sys.reset with
      evec := (s.region e.region).rcb.handler &&& rpMask, psw := if (s.cont cl e.record).err then 0x20 else 0 } }

/-- The Kerf of a binding that owns it: banks of +0.0, planes of zeros, empty queues (R35, 10 R200). -/
def Core.own (co : Core) (k nbank : Nat) : Core :=
  { co with
    owner := some k, rq := [], rqv := [], acc := [], active := Plane.reset, shadow := Plane.reset
    rows := (List.range (16 * nbank)).foldl (fun t i => put t i 0) co.rows }

/-- The follower's context is occupied while the pair runs (19 R396). -/
def Ctx.follow (c leader : Ctx) : Ctx :=
  { Ctx.reset with
    status := .blocked, wait := .follower, gen := c.gen, grid := leader.grid, region := leader.region, record := leader.record, win := leader.win
    nbank := leader.nbank, kown := leader.kown, prot := true, buf := c.buf, bundleSeq := c.bundleSeq, bindSrc := c.bindSrc }

/-- A context takes its continuation: the entry leaves its queue, no core passes it over any more (R40), the Kerf is taken, a follower joins. -/
def State.take (s : State) (k : Nat) (e : Ready) (c : Ctx) (own : Core → Nat → Core) : State :=
  let s1 := ({ s with ready := s.ready.filter fun (x : Ready) => !(x.cluster == e.cluster && x.record == e.record) }.modCluster e.cluster
    fun cl => { cl with rounds := cl.rounds.filter fun x => x.1 != e.record }).putCtx k c
  let s2 := if c.kown then s1.modCore (coreOf k) fun co => own co k else s1
  if c.prot then
    let s3 := s2.modCtx (k + 4) fun f => f.follow c
    if c.kown then s3.modCore (coreOf k + 1) fun co => co.own (k + 4) c.nbank else s3
  else s2

/-- BIND (02 R34, R35, R40): the context, or for a gang every core of the cluster (R29), binds the first continuation that fits, unless that one is saved. -/
def State.bind (s : State) (k : Nat) : State :=
  match s.nextBinding k with
  | none => s
  | some (e, l) =>
    if e.saved then s
    else l.foldl (fun t x => t.take x.1 x.2.1 (s.freshCtx x.1 x.2.1) fun co j => co.own j (s.grid e.grid).nbank)
      (l.foldl (fun t x => t.passOver x.1 (s.prot x.2.1.region) x.2.2) s)

/-! ### The save frame (19 R400) -/

/-- A field of the frame: offset, bytes, value. -/
abbrev FrameField := Nat × Nat × Nat

/-- A node slot: the record of 16 R324, then the three descriptor copies. -/
def Node.fields (n : Node) : List FrameField :=
  let map := fun (d : TD) => d.kind + (if d.s0 = 0 then 4 else 0) + (if d.s1 = 0 then 8 else 0) + (if d.s2 = 0 then 16 else 0)
  let org := fun (d : TD) => if d.kind = 2 then d.org2 * 2 ^ 32 + d.org3 * 2 ^ 48 else 0
  let used := fun (d : BitVec 256) (f : TD → Nat) => if d = 0 then 0 else f (TD.ofBits d)
  [(0x00, 8, n.appc.toNat), (0x08, 4, n.seq % 2 ^ 32), (0x0c, 1, n.op.toNat),
    (0x0d, 1, 1 + 2 * ofBool n.failed + 4 * ofBool n.rfast + 8 * ofBool n.bankDst + 16 * ofBool n.qDst), (0x0e, 1, n.acc), (0x0f, 1, n.passes),
    (0x10, 2, n.toks.kout.toNat + 16 * n.toks.kin0.toNat + 256 * n.toks.kin1.toNat + 4096 * n.toks.kin2.toNat), (0x12, 1, n.fcode.toNat),
    (0x13, 1, n.nt), (0x14, 4, n.aux.toNat), (0x18, 1, used n.da map), (0x19, 1, used n.db map), (0x1a, 6, 0), (0x20, 8, used n.da org),
    (0x28, 8, used n.db org), (0x30, 8, n.done.toNat), (0x38, 8, 0), (0x40, 32, n.dd.toNat), (0x60, 32, n.da.toNat), (0x80, 32, n.db.toNat)]

/-- Fields moved by an offset. -/
def shiftFields (o : Nat) (l : List FrameField) : List FrameField := l.map fun f => (o + f.1, f.2)

/-- The items of a context, the Kerf's apart. -/
def State.ctxFields (s : State) (k : Nat) : List FrameField :=
  let c := s.ctx k
  [(0x0000, 8, (rpAt c.pc 0).toNat), (0x0008, 4, c.sys.psw.toNat), (0x000c, 4, (s.ctxid k).toNat), (0x0010, 4, c.sys.gvsel.toNat),
    (0x0018, 8, c.opcnt.toNat), (0x0020, 8, c.tokst.toNat), (0x0028, 8, c.barst.toNat), (0x0030, 4, c.sys.dcsel.toNat),
    (0x0034, 4, c.sys.barsel.toNat), (0x0038, 8, c.impld.toNat), (0x0040, 8, c.ovff.toNat), (0x0048, 8, c.latef.toNat),
    (0x0050, 4, c.seqSrc % 2 ^ 32), (0x0054, 4, c.nodes.length), (0x0058, 8, 0), (0x0090, 8, c.sys.evec.toNat), (0x0098, 8, c.sys.epc.toNat),
    (0x00a0, 8, c.sys.etgt.toNat), (0x00a8, 8, c.sys.fstat.toNat), (0x00b0, 8, c.sys.faddr.toNat), (0x00b8, 8, c.sys.fnode.toNat),
    (0x00c0, 64, 0), (0x02f8, 8, 0), (0x03bc, 68, 0), (0x0840, 1984, 0)]
  ++ ((List.range 4).map fun n => (0x0060 + 4 * n, 4, (lookD c.lcnt n 0).toNat))
  ++ ((List.range 4).map fun n => (0x0070 + 8 * n, 8, (lookD c.lbody n 0).toNat))
  ++ ((List.range 63).map fun n => (0x0100 + 8 * n, 8, (lookD c.sregs (n + 1) 0).toNat))
  ++ ((List.range 47).map fun n => (0x0300 + 4 * n, 4, (lookD c.pregs (n + 1) 0).toNat))
  ++ ((List.range 32).map fun n => (0x0400 + 32 * n, 32, (lookD c.tds n 0).toNat))
  ++ (((List.range c.nodes.length).zip c.nodes).map fun x => shiftFields (0x1000 + 160 * x.1) x.2.fields).flatten
  ++ ((List.range c.win).map fun n => (0x18000 + 128 * n, 128, (lookD c.vregs n 0).toNat))

/-- A plane of the frame: 16,384 element bytes, then 4,096 sidecar bytes, column by column (07 R134). -/
def Plane.fields (p : Plane) : List FrameField :=
  ((List.range 32).map fun c => (512 * c, 512, (lookD p.elems c 0).toNat)) ++
    (List.range 32).map fun c => (16384 + 128 * c, 128, (lookD p.sides c 0).toNat)

/-- The items of the Kerf's owner. -/
def Core.fields (co : Core) : List FrameField :=
  (0x0014, 4, co.promote.toNat)
  :: ((List.range 8).map fun q => (0x0800 + 8 * q, 8, (lookD co.rq q []).length + 256 * lookD co.rqv q 0))
  ++ ((List.range 8).map fun q => ((List.range (lookD co.rq q []).length).zip (lookD co.rq q [])).map fun x =>
      (0x6000 + 2048 * q + 128 * x.1, 128, x.2.toNat)).flatten
  ++ ((List.range 128).map fun i => (0xa000 + 128 * i, 128, (lookD co.rows i 0).toNat))
  ++ shiftFields 0xe000 co.active.fields ++ shiftFields 0x13000 co.shadow.fields

/-- Fields written from an address on. -/
def Memory.putFields (m : Memory) (a : Nat) (l : List FrameField) : Memory := l.foldl (fun m f => m.putNat (a + f.1) f.2.1 f.2.2) m

/-! ### The save (19 R399) -/

/-- The context stands at its boundary with a request to serve (02 R47, 19 R392). -/
def Ctx.atBoundary (c : Ctx) : Bool :=
  c.preempt.isSome && c.boundary && c.run.isNone && !c.inHandler && !c.stepDue && c.landFault.isNone && !c.ending && c.status != .free

/-- The continuation of a pre-emption save, as it would enter its ready queue. -/
def State.savedEntry (s : State) (k : Nat) : Ready := { s.readyOf (clusterOf k) (s.ctx k).record with core := some (coreIn k), saved := true }

/-- Everything the context has under way is over (R399). -/
def State.quiet (s : State) (k : Nat) : Bool :=
  let c := s.ctx k
  c.ldc == 0 && c.stc == 0 && c.cpc == 0 && c.tlc == 0 && c.flights.isEmpty && !c.buf.any (fun (b : BufOp) => b.ofGen c.gen) && c.stq.isEmpty && !c.committing
    && !s.cmds.any (fun (m : Cmd) => m.k == k && m.gen == c.gen) && !s.lockReqs.any (fun (l : LockReq) => l.k == k)
    && !(c.kown && (s.core (coreOf k)).runsFor k)

/-- PREEMPT_SAVE (R399): the open segment commits; once everything is quiet the frame and the record are written, and the context enters the tail of its
ready queue. -/
def State.preemptSave (s : State) (k : Nat) : State :=
  let c := s.ctx k
  match c.preempt with
  | none => s
  | some p =>
    if !c.atBoundary then s
    else if c.seg.isSome ∧ !c.committing then s.startCommit k
    else if !s.quiet k then s
    else
      let cl := clusterOf k
      let e := s.savedEntry k
      if !s.canReady e then s
      else
        let a := scratchPhys false k p.frame.toNat
        let fs := s.ctxFields k ++ (if c.kown then (s.core (coreOf k)).fields else [])
        let s1 := { s with mem := s.mem.putFields a fs }.writeBack k
        let s2 := (s1.putRec cl c.record 0x1c 4 p.frame.toNat).putRec cl c.record 0x28 4
          (bits (s1.waitOn cl c.record) 0 10 + ofBool (s1.cont cl c.record).err * 2 ^ 10 + 2 ^ 11)
        let s3 := { s2 with conts := put s2.conts (contKey cl c.record) { s2.cont cl c.record with core := some (coreIn k), saved := true } }
        (s3.makeReady e).freeCtx k

/-! ### The pre-emption bound (02 R49) -/

/-- The pre-emption bound has passed before the context stood at a boundary with everything retired (02 R49; 13 R280). -/
def State.boundPassed (s : State) (k : Nat) : Bool :=
  let c := s.ctx k
  c.preempt.any (fun p => decide (p.at_ + 1000 * (s.rcb k).preempt < s.time)) && !(c.atBoundary && s.quiet k)

/-- PREEMPT_BOUND_EXPIRY (02 R49): BUDGET for the region. -/
def State.preemptBound (s : State) (k : Nat) : State := if s.boundPassed k then s.regionFatal (s.ctx k).region cBUDGET else s

/-! ### Resume (19 R401) -/

/-- The token fields of a node slot. -/
def toksOfFrame (t : Nat) : Toks :=
  { kout := BitVec.ofNat 4 t, kin0 := BitVec.ofNat 4 (t / 16), kin1 := BitVec.ofNat 4 (t / 256), kin2 := BitVec.ofNat 4 (t / 4096) }

/-- A node restored from its slot, its tokens apart (16 R344). `src`: the restored SEQ source, a number of its residue class from 2^32 on; SEQ keeps its distance to it
modulo 2^32, so that the order of appends outlives the wrap (16 R324). -/
def nodeOfFrame (rd : Nat → Nat → Nat) (o src appSeq koutBind : Nat) : Node :=
  let fl := rd (o + 0x0d) 1
  { appc := BitVec.ofNat 64 (rd o 8) &&& rpMask, seq := src - (src - rd (o + 0x08) 4) % 2 ^ 32, op := BitVec.ofNat 7 (rd (o + 0x0c) 1), failed := fl.testBit 1, rfast := fl.testBit 2
    bankDst := fl.testBit 3, qDst := fl.testBit 4, acc := rd (o + 0x0e) 1 % 8, passes := rd (o + 0x0f) 1, toks := toksOfFrame (rd (o + 0x10) 2)
    koutBind := koutBind, kinBind := [], fcode := BitVec.ofNat 8 (rd (o + 0x12) 1)
    nt := rd (o + 0x13) 1, aux := BitVec.ofNat 18 (rd (o + 0x14) 4), done := BitVec.ofNat 64 (rd (o + 0x30) 8)
    dd := BitVec.ofNat 256 (rd (o + 0x40) 32), da := BitVec.ofNat 256 (rd (o + 0x60) 32), db := BitVec.ofNat 256 (rd (o + 0x80) 32), appSeq := appSeq }

/-- The last node of a list whose kout is a token. -/
def koutNode (ns : List Node) (t : Nat) : Option Node := ns.foldl (fun b (n : Node) => if n.toks.kout.toNat = t then some n else b) none

/-- A token restored from TOKST (18 R368). A pending one is bound to the last saved node that names it, a produced one to none (16 R344). -/
def tokOfFrame (ns : List Node) (v n : Nat) : Token :=
  if bits v (4 * n) 2 = 1 then ⟨.pending, v.testBit (4 * n + 2), match koutNode ns n with | some m => m.koutBind | none => 0⟩
  else ⟨if bits v (4 * n) 2 = 2 then .produced else .none, v.testBit (4 * n + 2), 0⟩

/-- The kins of restored nodes: the earlier saved node that produces the token, or the token as it stands unless a later node has taken it
(log entry 15). -/
def restoreKins (tok : Nat → Token) : List Node → List Node → List Node
  | _, [] => []
  | before, n :: r =>
    let kin := fun (t : BitVec 4) =>
      if t = 0 then none
      else match koutNode before t.toNat with
        | some m => some (t.toNat, m.koutBind)
        | none => if (tok t.toNat).st = .produced ∧ (tok t.toNat).err then some errKin else none
    { n with kinBind := [n.toks.kin0, n.toks.kin1, n.toks.kin2].filterMap kin } :: restoreKins tok (before ++ [n]) r

/-- The fields of PSW that are not reserved (05 R106). -/
def pswMask : BitVec 32 := 0xe3f

/-- The context of a frame (R400, R401). A frame lies in memory that programs can write; reserved bits read as zero (00 R6). -/
def State.resumedCtx (s : State) (k : Nat) (e : Ready) (frame : Nat) : Ctx :=
  let rd := fun (o n : Nat) => s.mem.nat (scratchPhys false k frame + o) n
  let w := fun (o : Nat) => BitVec.ofNat 64 (rd o 8)
  let rp := fun (o : Nat) => w o &&& rpMask
  let c := s.boundCtx k e (rpAt (rp 0) 0)
  let src := 2 ^ 32 + rd 0x50 4
  let raw := (List.range (Nat.min (rd 0x54 4) 128)).map fun i => nodeOfFrame rd (0x1000 + 160 * i) src c.bundleSeq (c.bindSrc + 1 + i)
  let tok := tokOfFrame raw (rd 0x20 8)
  { c with
    sys := { psw := BitVec.ofNat 32 (rd 8 4) &&& pswMask, epc := rp 0x98, etgt := rp 0xa0, evec := rp 0x90, fstat := w 0xa8 &&& fstatMask, faddr := w 0xb0
             fnode := rp 0xb8, gvsel := BitVec.ofNat 32 (rd 0x10 4 % 2 ^ 17), dcsel := BitVec.ofNat 64 (rd 0x30 4 % 2 ^ 9)
             barsel := BitVec.ofNat 64 (rd 0x34 4 % 2 ^ 5) }
    toks := (List.range 15).map fun n => (n + 1, tok (n + 1)), bindSrc := c.bindSrc + 129, barst := w 0x28, impld := w 0x38, ovff := w 0x40, latef := w 0x48, seqSrc := src
    nodes := restoreKins tok [] raw
    lcnt := (List.range 4).map fun n => (n, BitVec.ofNat 32 (rd (0x60 + 4 * n) 4)), lbody := (List.range 4).map fun n => (n, w (0x70 + 8 * n) &&& lbMask)
    sregs := (List.range 63).map fun n => (n + 1, w (0x100 + 8 * n))
    pregs := (List.range 47).map fun n => (n + 1, BitVec.ofNat 32 (rd (0x300 + 4 * n) 4))
    tds := (List.range 32).map fun n => (n, BitVec.ofNat 256 (rd (0x400 + 32 * n) 32))
    vregs := (List.range c.win).map fun n => (n, BitVec.ofNat 1024 (rd (0x18000 + 128 * n) 128)) }

/-- A plane of a frame. -/
def planeOfFrame (rd : Nat → Nat → Nat) (o : Nat) : Plane :=
  { elems := (List.range 32).map fun c => (c, BitVec.ofNat 4096 (rd (o + 512 * c) 512))
    sides := (List.range 32).map fun c => (c, BitVec.ofNat 1024 (rd (o + 16384 + 128 * c) 128)) }

/-- The Kerf of a frame. -/
def Core.resumed (co : Core) (k nbank : Nat) (rd : Nat → Nat → Nat) : Core :=
  let o := fun (q : Nat) => bits (rd (0x800 + 8 * q) 8) 0 8
  { co.own k nbank with
    promote := BitVec.ofNat 7 (rd 0x14 4)
    rq := (List.range 8).map fun q => (q, (List.range (o q)).map fun j => BitVec.ofNat 1024 (rd (0x6000 + 2048 * q + 128 * j) 128))
    rqv := (List.range 8).map fun q => (q, bits (rd (0x800 + 8 * q) 8) 8 8)
    rows := (List.range 128).foldl (fun t i => put t i (BitVec.ofNat 1024 (rd (0xa000 + 128 * i) 128))) co.rows
    active := planeOfFrame rd 0xe000, shadow := planeOfFrame rd 0x13000 }

/-- The discard ranges of a loop record (R401): those inside space 0x0 and a multiple of 8 bytes long. -/
def State.discards (s : State) (k : Nat) (lrec : BitVec 32) : List (Nat × Nat) :=
  let cl := clusterOf k
  let list := s.recNat cl lrec 0x30 4
  if list = 0 then []
  else (List.range (s.recNat cl lrec 0x34 4)).filterMap fun i =>
    let x := s.padNat k (list + 8 * i) 8
    let a := bits x 0 32
    let n := bits x 32 32
    if spaceOf a = 0 ∧ n % 8 = 0 ∧ inRange false a n then some (scratchPhys false k a, n) else none

/-- RESUME (R401): on the core that the frame names. -/
def State.resume (s : State) (k : Nat) : State :=
  match s.nextBinding k with
  | none => s
  | some (e, l) =>
    if !e.saved then s
    else
      let frame := s.recNat e.cluster e.record 0x1c 4
      let rd := fun (o n : Nat) => s.mem.nat (scratchPhys false k frame + o) n
      let nbank := (s.grid e.grid).nbank
      let s1 := (l.foldl (fun t x => t.passOver x.1 (s.prot e.region) x.2.2) s).take k e (s.resumedCtx k e frame) fun co j => co.resumed j nbank rd
      let s2 := { s1 with mem := (s.discards k (s.grid e.grid).lrec).foldl (fun (m : Memory) (r : Nat × Nat) => m.clear r.1 r.2) s1.mem }
      let s3 := (s2.putRec e.cluster e.record 0x1c 4 0).keepRecErr e.cluster e.record
      { s3 with conts := put s3.conts (contKey e.cluster e.record) { s3.cont e.cluster e.record with core := if (s.grid e.grid).mapped then some (coreIn k) else none, saved := false } }

/-! ### Ageing and the overflow ring (02 R41; 14 R303 to R306) -/

/-- A ready continuation has been unbound for one more millisecond and is not at its cap (R41). -/
def State.ages (s : State) (e : Ready) : Bool := s.effPrio e < (s.region e.region).rcb.cap && decide (e.tready + (e.aging + 1) * 1000000 ≤ s.time)

/-- The region and the place of the `j`-th continuation that waits in an overflow ring. -/
def ringSpot : List (Nat × Region) → Nat → Option (Nat × Nat)
  | [], _ => none
  | e :: r, j => if j < e.2.ring.length then some (e.1, j) else ringSpot r (j - e.2.ring.length)

/-- A continuation in an overflow ring ages where it stands (R41; 14 R304). -/
def State.ageRing (s : State) (j : Nat) : State :=
  match ringSpot s.regions j with
  | none => s
  | some (r, n) =>
    match (s.region r).ring[n]? with
    | some e => if s.ages e then s.modRegion r fun x => { x with ring := x.ring.set n { e with aging := e.aging + 1 } } else s
    | none => s

/-- AGING_STEP (02 R41): a continuation that has been ready and unbound for one more millisecond moves one queue up; a full queue spills it, but for the member of a
gang, which waits for room (R29; log entry 21). The bound of R40 counts anew once it is back (14 R304). The entries of the ready queues are numbered first, then those of the rings. -/
def State.agingStep (s : State) (i : Nat) : State :=
  match s.ready[i]? with
  | none => s.ageRing (i - s.ready.length)
  | some e =>
    let up := { e with aging := e.aging + 1 }
    let p := s.effPrio up
    if !s.ages e then s
    else if 1024 ≤ s.queueLen e.cluster p ∨ s.spilledAt e.cluster p then
      if s.ringFull e.region ∨ (e.core.isSome ∧ !e.saved) then s
      else ({ s with ready := s.ready.eraseIdx i }.modCluster e.cluster fun cl => { cl with rounds := cl.rounds.filter fun x => x.1 != e.record }).spill up
    else { s with ready := s.ready.set i up }

/-- A write to a slot of a ring is still held at its owner (11 R223, R228). -/
def State.slotHeld (s : State) (a : Nat) : Bool := s.heldWrites.any fun (h : HeldWrite) => h.cells.any fun c => decide (a ≤ c.1 ∧ c.1 < a + 64)

/-- The head `e` of a ring comes back now: its queue has room, and no ring has at its head a continuation of that queue that became ready earlier (14 R304; the order
of 02 R40). -/
def State.refills (s : State) (e : Ready) : Bool :=
  !s.queueFull e.cluster (s.effPrio e) && s.regions.all fun r => match r.2.ring with
    | h :: _ => !(h.cluster == e.cluster && s.effPrio h == s.effPrio e && decide (h.order < e.order))
    | [] => true

/-- OVERFLOW_REFILL (14 R304): the head record of a ring comes back. -/
def State.refill (s : State) (r : Nat) : State :=
  let x := s.region r
  match x.ring with
  | [] => s
  | e :: rest =>
    if !s.refills e then s
    else
      let slot := s.vaPhys r (x.rcb.ringVa (x.ringTail - x.ring.length))
      if slot.any s.slotHeld then s
      else
        let s1 := match slot with
          | some a => { s with mem := s.mem.writes (cellsAt (clusterPhys e.cluster e.record) (s.mem.reads a 64)) }
          | none => s
        { s1 with ready := s1.ready ++ [e] }.modRegion r fun x => { x with ring := rest }

/-- SPILLFULL (14 R306): firmware enlarges the ring to `slots` record slots and pins it (10 R212), the dispatcher moves the records it holds, and firmware writes
OVRSLOTS of the resolved RCB; or it fails the region with BUDGET. -/
def State.spillfull (s : State) (r slots : Nat) : State :=
  let x := s.region r
  if !x.live ∨ x.root ∨ x.spillWait ≤ 1000 * x.rcb.stall ∨ (slots ≠ 0 ∧ slots ≤ x.rcb.ovrSlots) then s
  else
    let s1 := s.report r cSPILLFULL none
    if slots = 0 then s1.regionFatal r cBUDGET
    else
      let rcb := { x.rcb with ovrSlots := slots }
      let head := x.ringTail - x.ring.length
      let moves := (List.range x.ring.length).map fun i => (s.vaPhys r (x.rcb.ringVa (head + i)), s.vaPhys r (rcb.ringVa (head + i)))
      let cells := moves.filterMap fun m => match m with | (some a, some b) => some (cellsAt b (s.mem.reads a 64)) | _ => none
      let field := match s.vaPhys x.port (x.rcbVa + 0x48) with | some a => cellsAt a (leBytes 4 slots) | none => []
      if moves.any (fun m => m.1.any s.slotHeld) then s
      else (((cells.foldl (fun t c => t.stampedWrite 0 r c) s1).firmwareWrite r field).modRegion r fun x => { x with rcb := rcb, spillWait := 0 }).pinRing r

/-! ### Timers (18 R382) -/

/-- TIMER_EXPIRY: the counter falls with ERR 0. It waits while a continuation that it readies finds its ring full. -/
def State.timerExpiry (s : State) (cl slot : Nat) : State :=
  match look? (s.cluster cl).timers slot with
  | none => s
  | some t =>
    if s.time < t.expiry then s
    else match s.countDown cl t.dc false with
      | none => s
      | some s1 => s1.modCluster cl fun c => { c with timers := del c.timers slot }

/-! ### The events -/

/-- DISPATCH_INDEX (02 R28). -/
def execDispatchIndex (grid : Nat) (rec : BitVec 32) (s : State) : Res := .next (s.dispatchIndex grid rec)

/-- DISPATCH_GANG (02 R29). -/
def execDispatchGang (grid : Nat) (recs : List (BitVec 32)) (s : State) : Res := .next (s.dispatchGang grid recs)

/-- DISPATCHER_ACCEPT (15 R319, R320). -/
def execDispatcherAccept (k : Nat) (rec : BitVec 32) (s : State) : Res := .next (s.dispatcherAccept k rec)

/-- BIND (02 R35). -/
def execBind (k : Nat) (s : State) : Res := .next (s.bind k)

/-- RESUME (19 R401). -/
def execResume (k : Nat) (s : State) : Res := .next (s.resume k)

/-- PREEMPT_SAVE (19 R399). -/
def execPreemptSave (k : Nat) (s : State) : Res := .next (s.preemptSave k)

/-- PREEMPT_BOUND_EXPIRY (02 R49). -/
def execPreemptBoundExpiry (k : Nat) (s : State) : Res := .next (s.preemptBound k)

/-- AGING_STEP (02 R41). -/
def execAgingStep (i : Nat) (s : State) : Res := .next (s.agingStep i)

/-- OVERFLOW_REFILL (14 R304). -/
def execOverflowRefill (r : Nat) (s : State) : Res := .next (s.refill r)

/-- SPILLFULL (14 R306). -/
def execSpillfull (r : Nat) (slots : BitVec 25) (s : State) : Res := .next (s.spillfull r slots.toNat)

/-- TIMER_EXPIRY (18 R382). -/
def execTimerExpiry (cl : BitVec 5) (slot : BitVec 6) (s : State) : Res := .next (s.timerExpiry cl.toNat slot.toNat)

end Sys2Proof.Machine
end

