-- ==== Sys2Proof/Machine/System.lean ====
section
/-!
DEFINITION. The package's own events: the cut (11_generations R221 to R224), held writes, Scarf and GENFULL (11 R227, R228), the clocks (01 R21, 18 R381),
power and droop (20_boundary R414, R415), links, credits and ports (18 R384; 20 R405 to R411), page allocation and migration (10 R211 to R213).
-/
namespace Sys2Proof.Machine

/-! ### The cut (11 R221 to R224) -/

/-- The owners of generation-bearing memory: memory and I/O dies (R221). -/
def ownerDies : List Nat := Config.memorySockets ++ Config.ioSockets

/-- The coordinator on socket 0 can send to every other socket that is present (20 R406). -/
def State.mayBroadcast (s : State) : Bool := (List.range 16).all fun d => !s.populated.getLsbD d || s.controlOpen 0 d

/-- A message between the coordinator on socket 0 and every other socket that is present, on VC3 (R221; 12 R249). -/
def State.broadcast (s : State) : State := ((List.range 16).filter fun d => s.populated.getLsbD d).foldl (fun s d => s.control 0 d) s

/-- CUT: the sources switch their stamp. -/
def State.sendCut (s : State) : State :=
  match s.cut with
  | some c => if !s.mayBroadcast then s else { s with cut := some { c with sent := true } }.broadcast
  | none => s

/-- CUT_DONE: an owner reports once no write stamped G waits at it. -/
def State.cutDone (s : State) (die : Nat) : State :=
  match s.cut with
  | some c =>
    if c.sent ∧ ownerDies.contains die ∧ s.controlOpen die 0 ∧ !s.heldWrites.any (fun (h : HeldWrite) => !h.forCut && h.die == die) then
      { s with cut := some { c with done := c.done ||| (1 <<< die) } }.control die 0
    else s
  | none => s

/-- Every owner has reported. -/
def Cut.complete (c : Cut) : Bool := c.sent && ownerDies.all fun d => c.done.getLsbD d

/-- A write that was held performs, or is held on for the reserve; its bytes, and those read for it, are counted as it performs (18 R383). -/
def State.countHeld (s : State) (h : HeldWrite) : State :=
  match s.cmd h.cmd with
  | some m => s.countDone m h.reads (rangeOf h.cells)
  | none => s

/-- The writes held for the cut perform in the order of arrival. -/
def State.releaseCut (s : State) : State :=
  let held := s.heldWrites.filter fun (h : HeldWrite) => h.forCut
  held.foldl (fun t (h : HeldWrite) =>
    let t1 := t.stampedWrite h.cmd h.region h.cells h.reads
    if t1.heldWrites.length = t.heldWrites.length then t1.countHeld h else t1) { s with heldWrites := s.heldWrites.filter fun (h : HeldWrite) => !h.forCut }

/-- OPEN: GENCUR advances, the snapshot goes live, the held writes are released, and the SNAP's status lands. -/
def State.openCut (s : State) : State :=
  match s.cut with
  | some c =>
    if c.complete ∧ s.mayBroadcast then
      let s1 := ({ s with gencur := c.g + 1, live := s.live ++ [c.g], cut := none }.broadcast.releaseCut).snapDone c.k
      if (s1.ctx c.k).wait = .cut ∧ c.k ≠ noCtx then
        (s1.putS c.k (BitVec.ofNat 6 c.d) (BitVec.ofNat 64 ((c.g + 1).toNat * 65536 + c.g.toNat))).finishSlot c.k
      else s1
    else s
  | none => s

/-! ### The reserve (11 R225, R227, R228) -/

/-- The oldest write held for the reserve at a die. -/
def State.heldAt (s : State) (die : Nat) : Option HeldWrite := s.heldWrites.find? fun (h : HeldWrite) => !h.forCut && h.die == die

/-- HELD_WRITE_RELEASE: it performs once the reserve has room. -/
def State.heldRelease (s : State) (die : Nat) : State :=
  match s.heldAt die with
  | some h =>
    match h.cells with
    | [] => { s with heldWrites := dropFirst (fun (x : HeldWrite) => x == h) s.heldWrites }
    | c :: _ =>
      if s.needsVersion (granuleOf c.1) ∧ !s.versionRoom (granuleOf c.1) then s
      else ({ s with heldWrites := dropFirst (fun (x : HeldWrite) => x == h) s.heldWrites }.performGen (granuleOf c.1) h.cells).countHeld h
  | none => s

/-- Version `v` goes before `w`: the older T, then the lower address (R227). -/
def State.drainsFirst (s : State) (v w : Version) : Bool := s.age w.t < s.age v.t || (s.age v.t == s.age w.t && v.granule ≤ w.granule)

/-- The next version that Scarf moves from a die's reserve. -/
def State.scarfNext (s : State) (die : Nat) : Option Version :=
  (s.versions.filter fun (v : Version) => v.die == die && !v.stored).foldl (fun b v =>
    match b with
    | none => some v
    | some w => if s.drainsFirst w v then some w else some v) none

/-- SCARF_DRAIN (R227): into the snapshot store while it has room (R216). -/
def State.scarfDrain (s : State) (die : Nat) : State :=
  match s.scarfNext die with
  | none => s
  | some v =>
    if !s.storeRoom then s
    else
    { s with versions := updFirst (fun (x : Version) => x == v) (fun x => { x with stored := true }) s.versions, drnb := s.drnb + 65536 }

/-- A live snapshot has an undrained version on a die. -/
def State.undrained (s : State) (die : Nat) (x : BitVec 16) : Bool :=
  s.versions.any fun (v : Version) => v.die == die && !v.stored && s.age v.t ≤ s.age x && s.age x ≤ s.age v.f

/-- The oldest live snapshot with undrained versions on a die. -/
def State.oldestUndrained (s : State) (die : Nat) : Option (BitVec 16) :=
  (s.live.filter (s.undrained die)).foldl (fun b x =>
    match b with
    | none => some x
    | some y => if s.age y < s.age x then some x else some y) none

/-- Drop-oldest on a die, until the held write there has room; at most seven snapshots are live. -/
def State.dropOldest (die : Nat) : Nat → State → State
  | 0, s => s
  | n + 1, s =>
    if s.reserveRoom die then s
    else match s.oldestUndrained die with
      | some x => dropOldest die n (s.dropSnap x)
      | none => s

/-- The region has writes held for the reserve. -/
def State.holdsWrites (s : State) (r : Nat) : Bool := s.heldWrites.any fun (h : HeldWrite) => !h.forCut && h.region == r

/-- GENFULL (R228): firmware receives it and applies the region's policy. -/
def State.genfull (s : State) (r : Nat) : State :=
  let x := s.region r
  if !s.holdsWrites r ∨ x.genWait ≤ 1000 * x.rcb.stall then s
  else
    let s1 := ({ s with genfulls := s.genfulls + 1 }.report r cGENFULL none).modRegion r fun x => { x with genTold := true }
    match x.rcb.genpol with
    | .dropOldest =>
      ((s.heldWrites.filter fun (h : HeldWrite) => !h.forCut && h.region == r).map fun (h : HeldWrite) => h.die).eraseDups.foldl
        (fun t d => State.dropOldest d 7 t) s1
    | .failRegion =>
      let s2 := s1.regionFatal r cBUDGET
      { s2 with heldWrites := s2.heldWrites.filter fun (h : HeldWrite) => h.forCut || h.region != r }
    | .reset => s1.resetGens

/-! ### The timebase (01 R21; 05 R108) -/

/-- KCAL.AGE after one more nanosecond, saturating: it counts from the last completion of SCRIBE, also on from a value that firmware has written since, and does not
count while none has completed since reset (DESIGN CHOICE, log entry 84). -/
def Core.ageBy (co : Core) (time : Nat) : Core :=
  match co.calTime with
  | none => co
  | some t =>
    let age := bits co.kcal.toNat 8 32
    if time ≠ t ∧ (time - t) % 1000 = 0 ∧ age + 1 < 2 ^ 32 then { co with kcal := setBits co.kcal 8 32 (age + 1) } else co

/-- An operation is held because the overflow ring of the region is full (14 R306): a context's, a completion or a timer whose counter readies continuations, or a
pre-emption save. -/
def State.spillHeld (s : State) (r : Nat) : Bool :=
  s.ctxs.any (fun e => e.2.region == r && e.2.status != .free && ((match e.2.wait with
      | .spill => !s.canReady (s.readyOf (clusterOf e.1) e.2.record)
      | .accept => !s.canReady (s.childOf e.1 0)
      | _ => false)
    || (e.2.atBoundary && s.quiet e.1 && !s.canReady (s.savedEntry e.1))))
  || s.clusters.any fun e =>
    let blocked := fun (n : Nat) => State.heldLink e.1 (e.2.dc n).links s == some r
    let due := fun (n : Nat) => (e.2.dc n).count.toNat ≤ 1 && blocked n
    e.2.timers.any (fun t => t.2.expiry ≤ s.time && due t.2.dc)
      || s.cmds.any (fun (m : Cmd) => clusterOf m.k == e.1 && m.desc.dcen && s.piecesDone m && due m.desc.dc)
      || s.ctxs.any fun c => clusterOf c.1 == e.1 && (match c.2.wait with | .spillDc n => blocked n | _ => false)

/-- A region's waiting times after one more nanosecond: of held writes (11 R228) and of operations held on its ring (14 R306). -/
def State.regionTick (s : State) (r : Nat) (x : Region) : Region :=
  { x with genWait := if s.holdsWrites r then x.genWait + 1 else 0, genTold := x.genTold && s.holdsWrites r, spillWait := if s.spillHeld r then x.spillWait + 1 else 0 }

/-- The clusters of the compute dies that are present (00 R1, R2). -/
def State.presentClusters (s : State) : List Nat :=
  ((Config.computeSockets.filter fun d => s.populated.getLsbD d).map fun d => [2 * d, 2 * d + 1]).flatten

/-- STRETCH_END: six stretched cycles have passed, and the halved issue begins. -/
def Cluster.endStretch (cl : Cluster) : Cluster :=
  match cl.droop with
  | .stretch n => if n + 6 ≤ cl.cycle then { cl with droop := .half (n + 6) } else cl
  | _ => cl

/-- How long the cycle in progress lasts: the period of its die's clock, 0.8 ns unless firmware has lowered it, and twice that when it is stretched (01 R20; 20 R415). -/
def Cluster.length (period : Nat) (cl : Cluster) : Nat := if cl.endStretch.str then 2 * period else period

/-- The instant at which cluster `cl`'s cycle ends, in fifths of a nanosecond. -/
def State.cycleEnd (s : State) (cl : Nat) : Nat := (s.cluster cl).fifths + (s.cluster cl).length (s.die (cl / 2)).period

/-- A cluster whose clock the timebase has overtaken never runs above nominal to make up for it (01 R20). -/
def State.noCatchUp (s : State) : State :=
  s.presentClusters.foldl (fun s cl =>
    if s.cycleEnd cl < 5 * s.time then s.modCluster cl fun c => { c with fifths := 5 * s.time - c.length (s.die (cl / 2)).period } else s) s

/-- PACKAGE_TIMEBASE_TICK (01 R21). -/
def State.tick (s : State) : State :=
  let s1 := { s with
    time := s.time + 1
    genstall := if s.heldWrites.any (fun (h : HeldWrite) => !h.forCut) then s.genstall + 1 else s.genstall
    cores := s.cores.map fun (e : Nat × Core) => (e.1, e.2.ageBy (s.time + 1))
    regions := s.regions.map fun (e : Nat × Region) => (e.1, if e.2.live then s.regionTick e.1 e.2 else e.2) }
  s1.noCatchUp

/-! ### What firmware writes (00 R5) -/

/-- Every field of a resolved RCB lies in its range (R309). -/
def Rcb.inRange (r : Rcb) : Bool :=
  1 ≤ r.cores && r.cores ≤ 1536 && r.ukib ≤ 384 && r.ckib ≤ 32768 && r.dkib ≤ 131072 && 1 ≤ r.copybw && r.copybw ≤ 256 && 1 ≤ r.power
    && r.power ≤ 256 && 1 ≤ r.stall && 1 ≤ r.preempt && r.ovrBase.toNat % 64 == 0 && 1 ≤ r.ovrSlots && r.ovrSlots ≤ 2 ^ 24

/-- The sockets of a kind. -/
def socketsOf (kd : DieKind) : List Nat :=
  match kd with | .absent => [] | .compute => Config.computeSockets | .memory => Config.memorySockets | .io => Config.ioSockets

/-- A binding that R313 allows: a present entry names a populated socket of its kind, with the table root aligned, or zero for a compute die; an absent one names nothing. -/
def DieBind.allowed (populated : BitVec 16) (d : DieBind) : Bool :=
  (d.kind == .absent && d.socket == 0 && d.root == 0) || ((socketsOf d.kind).contains d.socket && populated.getLsbD d.socket && d.root % 32768 == 0 && decide (d.root < 2 ^ 52)
    && (d.kind != .compute || d.root == 0))

/-- The other fields of a resolved RCB fit their places in the record (R309; 00 R6). -/
def Rcb.storable (r : Rcb) : Bool :=
  decide (r.fdom < 2 ^ 16 ∧ r.stall < 2 ^ 32 ∧ r.preempt < 2 ^ 32 ∧ r.prio < 16 ∧ r.agecap < 16 ∧ r.cretry < 16) && r.handler &&& rpMask == r.handler

/-- No budget, right or retry exceeds the parent's (02 R24; R310). -/
def Rcb.within (r p : Rcb) : Bool :=
  r.cores ≤ p.cores && r.ukib ≤ p.ukib && r.ckib ≤ p.ckib && r.dkib ≤ p.dkib && r.copybw ≤ p.copybw && r.power ≤ p.power && r.stall ≤ p.stall
    && r.preempt ≤ p.preempt && (!r.snapRight || p.snapRight) && (!r.growRight || p.growRight) && (!r.hwin || p.hwin) && r.cretry ≤ p.cretry

/-- A binding entry in a record. -/
def DieBind.code (d : DieBind) : Nat :=
  (match d.kind with | .absent => 0 | .compute => 16 | .memory => 32 | .io => 48) + d.socket + d.root

/-- The resolved RCB as firmware writes it, with OVR 0x7ff (R309, R310). -/
def Rcb.fields (r : Rcb) (parent : Nat) : List FrameField :=
  [(0, 8, parent), (8, 4, 0x7ff), (0xc, 4, r.fdom), (0x10, 4, r.cores), (0x14, 4, r.ukib), (0x18, 4, r.ckib), (0x1c, 4, r.dkib),
    (0x20, 4, r.copybw + r.power * 65536), (0x24, 4, r.stall), (0x28, 4, r.preempt), (0x2c, 4, r.prio + 16 * r.agecap),
    (0x30, 4, ofBool r.prot + 2 * (match r.genpol with | .dropOldest => 0 | .failRegion => 1 | .reset => 2)),
    (0x34, 4, ofBool r.snapRight + 2 * ofBool r.growRight + 4 * ofBool r.hwin + 16 * r.cretry), (0x38, 8, r.handler.toNat),
    (0x40, 8, r.ovrBase.toNat), (0x48, 4, r.ovrSlots), (0x4c, 4, 0), (0x50, 8, r.colltab.toNat), (0x58, 40, 0)]
  ++ ((List.range 16).zip r.dbt).map fun x => (0x80 + 8 * x.1, 8, x.2.code)

/-- A byte of a memory that firmware can write (10 R200): not a host's. -/
def State.fwReaches (s : State) (a : Nat) : Bool :=
  let t := tagOf a
  let size := if t < 0x2000 then 0x60000 else if t < 0x3000 then 0x2000000 else if t < 0x4000 then 0x8000000 else 0x400000
  decide (0x1000 ≤ t ∧ t < 0x7000) && s.populated.getLsbD (ownerSocket a) &&
    (if t < 0x5000 then decide (offOf a < size ∧ (t < 0x2000 → t < 0x1c00) ∧ (0x2000 ≤ t ∧ t < 0x3000 → t < 0x2020) ∧ (0x4000 ≤ t → t = windowTag))
      else s.memHas a)

/-- Nothing has been launched since the reset: what firmware may set at a reset only (11 R216; 15 R312, R317). -/
def State.unlaunched (s : State) : Bool := s.grids.isEmpty && s.versions.isEmpty

/-- A pool size that R317 allows. The pool stays at the top of cluster SRAM, and aligned to its size is a size that divides 32 MiB (DESIGN CHOICE, log entry 113). -/
def poolOk (kib : Nat) : Bool := decide (64 ≤ kib ∧ kib ≤ 2048 ∧ 32768 % kib = 0)

/-- The resolved RCB of a root region, where its record lies. The pages of its ring are pinned (10 R212). -/
def State.writeRoot (s : State) (port : Nat) (rcb : Rcb) : State :=
  ((s.modRegion port fun x => { x with rcb := rcb }).firmwareWrite port
    (cellsAt (rootRcbAddr port) ((rcb.fields 0).map fun f => leBytes f.2.1 f.2.2).flatten)).pinRing port

/-- Firmware has received GENFULL, SPILLFULL or BUDGET for the region (15 R308). -/
def State.rcbDue (s : State) (r : Nat) : Bool := s.fwlog.any fun e => e.1 == r && (e.2.1 == cGENFULL || e.2.1 == cSPILLFULL || e.2.1 == cBUDGET)

/-- The resolved RCB of a region, and its record (R308). -/
def State.writeRcb (s : State) (r : Nat) (rcb : Rcb) : State :=
  let x := s.region r
  let p := s.region x.parent
  let bytes := ((rcb.fields (if p.root then 0 else p.rcbVa.toNat)).map fun f => leBytes f.2.1 f.2.2).flatten
  let place := (List.range 256).map fun i => s.vaPhys x.port (x.rcbVa + BitVec.ofNat 64 i)
  (s.modRegion r fun x => { x with rcb := rcb }).firmwareWrite x.port ((place.zip bytes).filterMap fun c => c.1.map fun a => (a, c.2))

/-- POWER shares of the regions that run on a compute die (20 R414). -/
def State.powerWeight (s : State) (d : Nat) : Nat :=
  ((s.regions.filter fun e => e.2.live && s.ctxs.any fun c => c.2.status != .free && c.2.region == e.1 && socketOf c.1 == d).map fun e => e.2.rcb.power).sum

/-- A split of the 2,400 W that weights the compute dies by those shares: none of more weight gets less (20 R414; DEDUCED, log entry 93). -/
def State.splitOk (s : State) (watts : List Nat) : Bool :=
  watts.length == 16 && decide (watts.sum ≤ 2400) && Config.computeSockets.all fun a => Config.computeSockets.all fun b =>
    decide (s.powerWeight a < s.powerWeight b → watts.getD a 0 ≤ watts.getD b 0)

/-- The cluster whose registers a write of firmware changes: it takes effect at the start of a cycle, before what cores and completions do (18 R375). -/
def FwWrite.cluster : FwWrite → Option Nat
  | .droopth cl _ => some cl
  | .dc cl .. => some cl
  | .bar cl .. => some cl
  | .traffic cl .. => some cl
  | _ => none

/-- A write of firmware takes effect; none where a continuation that it readies finds its ring full (14 R306). A value that the item's rule does not allow is not
written; the binding table and the overflow ring of a region that lives do not change (R313; 14 R305). -/
def State.fwWrite (s : State) (w : FwWrite) : Option State :=
  match w with
  | .mem r cells => some (s.firmwareWrite r (cells.filter fun c => s.fwReaches c.1))
  | .droopth cl v =>
    let x := BitVec.ofNat 7 (clamp 10 100 v.toNat)
    some (s.modCluster cl fun c => { c with droopth := x, seen := c.seen.map fun (e : Seen) => { e with droopth := x } })
  | .dc cl n count err => if n < 512 then s.setDc cl n count err else some s
  | .bar cl b x => some (if b < 32 then (s.modCluster cl fun c => { c with bars := put c.bars b x, seen := c.seen.map fun (e : Seen) => { e with bars := put e.bars b x } }).notePhases cl else s)
  | .traffic cl i v => some (if i ≤ 8 then s.modCluster cl fun c => { c with traffic := put c.traffic i v } else s)
  | .eol die v => some (s.modDie die fun d => { d with eol := v })
  | .clock die period => some (if 4 ≤ period then s.setPeriod die period else s)
  | .pool kib => some (if s.unlaunched ∧ poolOk kib then { s with poolKib := kib } else s)
  | .reserve die gib => some (if s.unlaunched ∧ !s.mem.warm ∧ gib ≤ 64 then s.modDie die fun d => { d with reserveGiB := gib } else s)
  | .store gib =>
    let fit := gib.length = 2 ∧ gib.getD 0 0 * 2 ^ 30 ≤ s.tierBytes 12 ∧ gib.getD 1 0 * 2 ^ 30 ≤ s.tierBytes 15
    some (if s.unlaunched ∧ !s.mem.warm ∧ fit then { s with storeGiB := gib } else s)
  | .root port rcb =>
    let fit := rcb.inRange ∧ rcb.storable ∧ rcb.dbt.length = 16 ∧ rcb.dbt.all (DieBind.allowed s.populated)
    some (if s.unlaunched ∧ (s.region port).root ∧ fit then s.writeRoot port rcb else s)
  | .rcb r rcb =>
    let x := s.region r
    let same := rcb.dbt = x.rcb.dbt ∧ rcb.ovrBase = x.rcb.ovrBase ∧ rcb.ovrSlots = x.rcb.ovrSlots
    some (if s.rcbDue r ∧ !x.root ∧ same ∧ rcb.inRange ∧ rcb.storable ∧ rcb.within (s.region x.parent).rcb then s.writeRcb r rcb else s)
  | .split watts =>
    some (if s.splitOk watts then ((List.range 16).zip watts).foldl (fun s x => s.modDie x.1 fun d => { d with share := x.2 }) s else s)

/-- The oldest write of firmware takes effect, when it waits for no cluster's next cycle. An image that was rejected never runs (20 R419). -/
def State.fwNext (s : State) : Option State :=
  match s.firmware with
  | [] => none
  | w :: r =>
    if !s.fwRuns then none
    else match w.cluster with
      | some cl => if s.presentClusters.contains cl then none else some { s with firmware := r }
      | none => { s with firmware := r }.fwWrite w

/-- The writes of firmware to registers of a cluster that are next take effect as its cycle begins. -/
def State.fwCluster (cl : Nat) : List FwWrite → State → State
  | [], s => { s with firmware := [] }
  | w :: r, s =>
    if w.cluster = some cl then
      match { s with firmware := r }.fwWrite w with
      | some t => fwCluster cl r t
      | none => { s with firmware := w :: r }
    else { s with firmware := w :: r }

/-! ### The arithmetic clock and the droop response (18 R381; 20 R415) -/

/-- HALF_ISSUE_END: 64 cycles of halved issue have passed. -/
def Cluster.endHalf (cl : Cluster) : Cluster :=
  match cl.droop with
  | .half n => if n + 64 ≤ cl.cycle then { cl with droop := .off } else cl
  | _ => cl

/-- The cycle that ends is counted in its phase, and its length passes (01 R20). -/
def Cluster.endCycle (period : Nat) (cl : Cluster) : Cluster :=
  { cl with
    fifths := cl.fifths + cl.length period
    strcyc := if cl.str then cl.strcyc + 1 else cl.strcyc
    halfcyc := if cl.halved then cl.halfcyc + 1 else cl.halfcyc }

/-- The next cycle begins; the response to an alarm begins exactly two cycles after it. -/
def Cluster.nextCycle (period : Nat) (cl0 : Cluster) : Cluster :=
  let cl := cl0.endStretch.endHalf.endCycle period
  let n := cl.cycle + 1
  { cl with
    cycle := n, alarms := cl.alarms.filter fun a => n < a + 2
    droop := if cl.alarms.any fun a => a + 2 ≤ n then .stretch n else cl.droop }

/-- The next bundle of context `k` would read a register whose result is late (03 R64). -/
def State.lateNext (s : State) (k : Nat) : Bool :=
  match (s.ctx k).nextBundle with
  | some x => (List.range 8).any fun n => rpSlot (s.ctx k).pc ≤ n && (match x.instr n with | .ok i => s.isLate k i | .error _ => false)
  | none => false

/-- The context waits for an engine: for an entry of its elastic buffer, or with a slot that its T engine takes later (03 R65; 17 R348). -/
def Ctx.waitsEngine (c : Ctx) : Bool :=
  match c.wait with
  | .engine => true
  | .td _ => true
  | .tdRead _ => true
  | .turn => true
  | _ => false

/-- A cycle of the core was blocked on an exhausted elastic buffer, the cycle of the acceptance included (03 R65). -/
def State.slackStall (s : State) (core : Nat) : Bool :=
  (ctxsOf core).any fun k => (s.ctx k).waitsEngine &&
    ((s.ctx k).status == .blocked || ((s.ctx k).status == .ready && (s.ctx k).since == s.cyc k))

/-- A cycle of the core was stalled on a late result (03 R64). -/
def State.lateStall (s : State) (core : Nat) : Bool :=
  (s.core core).issuedAt != some (s.cyc (4 * core)) && (ctxsOf core).any fun k => (s.ctx k).status == .running && (s.ctx k).run.isNone && s.lateNext k

/-- A core of the cluster over one cycle: the cycles stalled are counted (18 R368), firmware's writes take effect at the pass boundary they have waited for (07 R153), and a
running context is found blocked in the next cycle by a buffer that is exhausted in it (03 R65; 02 R38). -/
def State.coreCycle (s : State) (core : Nat) : State :=
  let slack := s.slackStall core
  let late := s.lateStall core
  let settles := !s.inPass core
  let follows := s.passFollows core
  let ran := s.coreBusy core
  let s1 := s.modCore core fun co =>
    let co1 := if settles then co.settleWrites else if follows then co.atBoundary else co
    { co1 with
      slackst := if slack then co1.slackst + 1 else co1.slackst
      latest := if late then co1.latest + 1 else co1.latest
      ranAt := if ran then s.cyc (4 * core) else co1.ranAt }
  (ctxsOf core).foldl (fun s k =>
    let c := s.ctx k
    if c.status = .running ∧ c.exhausted (s.cyc k + 1) then s.putCtx k { c with status := .blocked, wait := .engine, since := s.cyc k + 1 }
    else if c.status = .running ∧ c.run.isSome ∧ c.waitsEngine ∧ s.slackEnd k ≤ s.cyc k then s.putCtx k { c with status := .blocked, since := s.cyc k + 1 }
    else s) s1

/-- The cores with a context that is not free. -/
def State.activeCores (s : State) (cl : Nat) : List Nat :=
  (s.ctxs.filterMap fun e => if clusterOf e.1 = cl ∧ e.2.status ≠ .free then some (coreOf e.1) else none).eraseDups

/-- A cluster over one cycle: its cores, the barrier words that MTSRs of the cycle write (18 R380), then the next cycle. -/
def State.clockCluster (s : State) (cl : Nat) : State :=
  let s1 := (s.activeCores cl).foldl State.coreCycle s
  let s2 := if (s1.cluster cl).barPend = [] then s1 else (s1.modCluster cl Cluster.settleBars).notePhases cl
  let s3 := s2.modCluster cl (Cluster.nextCycle (s2.die (cl / 2)).period)
  let s4 := if s3.fwRuns then State.fwCluster cl s3.firmware s3 else s3
  s4.ctxs.foldl (fun s e => if clusterOf e.1 = cl then (s.holdWork e.1 (s.cyc e.1)).openPath e.1 else s) s4

/-- ARITHMETIC_CLOCK_CYCLE (18 R381). In the new cycle the cores go on in ascending order (18 R379). -/
def State.clockCycle (s : State) (mask : BitVec 32) : State :=
  (List.range 32).foldl (fun s cl => if mask.getLsbD cl then s.clockCluster cl else s) { s with cur := 0 }

/-- DROOP_ALARM (20 R415): the supply lies at least DROOPTH.MV below nominal. Every context reads STICKY 1 from then on (05 R112). -/
def State.droopAlarm (s : State) (cl : Nat) (depth : Nat) : State :=
  s.modCluster cl fun c =>
    if c.droopth.toNat ≤ depth then { c with sticky := true, seen := c.seen.map fun (e : Seen) => { e with sticky := true }, droopev := c.droopev + 1, alarms := c.alarms ++ [c.cycle] } else c

/-- POWER_GRANT (20 R414): every 2 µs each die is granted its share of firmware's split; a compute die whose measured current exceeded its grant is limited in the
next interval. -/
def State.powerGrant (s : State) (exceeded : BitVec 16) : State :=
  if s.time % 2000 ≠ 0 then s
  else ((List.range 16).filter fun d => s.populated.getLsbD d).foldl (fun s d => s.modDie d fun x =>
    { x with grant := x.share, limited := Config.computeSockets.contains d && exceeded.getLsbD d }) { s with grantAt := s.time }

/-- The power arbiter limits a die in this interval. -/
def State.limitedNow (s : State) (d : Nat) : Bool := (s.die d).limited && decide (s.time < s.grantAt + 2000)

/-! ### Links and credits (18 R384; 20 R405 to R408) -/

/-- SELECTIVE_REPEAT (20 R405): a repeat, or a correction in place, is counted. -/
def State.selectiveRepeat (s : State) (die : Nat) (fec : Bool) : State :=
  s.modDie die fun d => if fec then { d with feccor := d.feccor + 1 } else { d with repeats := d.repeats + 1 }

/-- LINK_RETRAIN (20 R406): retrainings that failed in a row. -/
def State.linkRetrain (s : State) (link : Nat) (good : Bool) : State :=
  if s.linksDown.getLsbD link then s
  else { s with retrains := if good then del s.retrains link else put s.retrains link (lookD s.retrains link 0 + 1) }.settleHost

/-- The header of a launch queue (14 R285). -/
def queueBase (port q : Nat) : Nat := windowAddr ((16 * port + q) * 65536)

/-- STATE = 2 on the enabled queues of a port (14 R287). -/
def State.stopQueues (s : State) (port : Nat) : State :=
  (List.range 16).foldl (fun s q => if s.mem.nat (queueBase port q + 0x44) 4 = 1 then { s with mem := s.mem.putNat (queueBase port q + 0x44) 4 2 } else s) s

/-- The header of a queue rewritten: LTAIL, CHEAD and LHEAD 0, STATE as given (14 R285, R287). -/
def Memory.queueHeader (m : Memory) (port q state : Nat) : Memory :=
  let b := queueBase port q
  (((m.putNat b 4 0).putNat (b + 8) 4 0).putNat (b + 0x40) 4 0).putNat (b + 0x44) 4 state

/-- The headers of a port's queues rewritten, enabled. -/
def State.enableQueues (s : State) (port : Nat) : State :=
  { s with mem := (List.range 16).foldl (fun m q => m.queueHeader port q 1) s.mem }

/-- The live regions that are not roots. -/
def State.liveRegions (s : State) : List Nat := s.regions.filterMap fun e => if e.2.live && !e.2.root then some e.1 else none

/-- LINK_DOWN (20 R407), after three failed retrainings. A cut in progress ends, and the writes held for it are discarded; no access crosses the link again, one that has
waited behind it neither; no region runs until the next reset. -/
def State.linkDown (s : State) (link : Nat) : State :=
  if s.linksDown.getLsbD link ∨ lookD s.retrains link 0 < 3 then s
  else
    let s0 := { s with linksDown := s.linksDown ||| (1 <<< link) }
    let s1 := ((s0.stopQueues 0).stopQueues 1).endRegions s.liveRegions cLINKDOWN false
    { s1.resetGens with cut := none, heldWrites := s1.heldWrites.filter (fun (h : HeldWrite) => !h.forCut), stopped := true }.settleHost

/-! ### Host ports and CXL ports (20 R410, R411) -/

/-- HOST_PORT_RESET (20 R410): the port's regions fail without a completion, and its queues stop; a launch that had already ended keeps its completion (14 R287). -/
def State.hostPortReset (s : State) (port : Nat) : State :=
  let rs := s.regions.filterMap fun e => if e.2.live && !e.2.root && e.2.port == port then some e.1 else none
  ((s.endRegions rs 0 true).stopQueues port).modPort port fun p => { p with up := false }

/-- HOST_LINK_UP (20 R410; 14 R285): the queues are enabled again, unless a Sill link has gone down since the last reset (20 R407). -/
def State.hostLinkUp (s : State) (port : Nat) : State :=
  if (s.port port).up then s
  else if (s.port port).status ≠ 1 ∨ s.stopped then s.modPort port fun p => { p with up := true }
  else (s.enableQueues port).modPort port fun p => { p with up := true }

/-- CXL_PORT_LINK_DOWN (20 R411). -/
def State.cxlPortDown (s : State) (die p : Nat) : State := { s with cxlDown := s.cxlDown ||| (1 <<< ((if die = 15 then 4 else 0) + p)) }

/-- The count of a die's ageing oscillator is due: once per second of TIME, first after its window of 1 ms (18 R385; DESIGN CHOICE, log entry 90). -/
def State.oscDue (s : State) (die : Nat) : Bool :=
  match (s.die die).oscAt with
  | none => decide (1000000 ≤ s.time)
  | some t => decide (t + 1000000000 ≤ s.time)

/-- AGEOSC_REFRESH (18 R385); firmware writes EOL from the new count. -/
def State.ageosc (s : State) (die : Nat) (count eol : Word) : State :=
  if s.oscDue die then s.modDie die fun d => { d with ageosc := count, eol := eol, oscAt := some s.time } else s

/-! ### Pages (10 R211 to R213; 15 R314) -/

/-- The granules of `n` bytes from `a`, which is aligned to 64 KiB or to a smaller `n`. -/
def granulesFrom (a n : Nat) : List Nat := (List.range ((n + 65535) / 65536)).map fun i => granuleOf a + i

/-- Fresh page tables on these granules cannot be written yet: an owner would hold a write, or the reserve has no room for all of them (11 R225, R228). -/
def State.tablesHeld (s : State) (qs : List Nat) : Bool := qs.any s.heldBehind || !s.versionsRoom qs

/-- A fresh page table: zeros, with the stamp of the current generation. -/
def State.clearTable (s : State) (a n : Nat) : State :=
  let s1 := (granulesFrom a n).foldl (fun s q => s.performGen q []) s
  { s1 with mem := s1.mem.clear a n }

/-- The leaf entry of a page (15 R314). -/
def leafEntry (frame place : Nat) (write pin : Bool) : Nat := 3 + 4 * ofBool write + 8 * place + 32 * ofBool pin + frame / 4096 * 4096

/-- A PLACE that the kind of die lists (15 R314). -/
def placeOk (d : DieBind) (place : Nat) : Bool := place ≤ (if d.kind = .io then 1 else 2)

/-- The frame lies in the memory that the leaf names. -/
def State.frameOk (s : State) (d : DieBind) (place frame size : Nat) : Bool :=
  (d.kind == .io && place == 1) || s.memHas (phys d.tag (frame + size - 1))

/-- PAGE_ALLOCATION (10 R211, 15 R314): the entry of an unmapped page is written, and the tables below level 0 that do not exist yet are made at `t1`
and `t2`. A page of the overflow ring of a region that lives is pinned (10 R212). Firmware waits while a cut or the reserve holds what it would write. -/
def State.allocate (s : State) (r v off : Nat) (big : Bool) (frame place : Nat) (write pin : Bool) (t1 t2 : Nat) : State :=
  match s.pagedDie r v with
  | none => s
  | some d =>
    let size := if big then 0x2000000 else 0x10000
    let e := leafEntry frame place write (pin || s.ringsAt d off size)
    if !placeOk d place ∨ !s.frameOk d place frame size ∨ s.cutSent then s
    else
      let path := s.ptePath d off
      let i1 := bits off 25 15
      let i2 := bits off 16 9
      match path.p1, path.p2 with
      | none, _ =>
        if !s.memHas (phys d.tag (t1 + 0x3ffff)) ∨ (!big ∧ !s.memHas (phys d.tag (t2 + 0xfff)))
            ∨ s.tablesHeld (granulesFrom (phys d.tag t1) 0x40000 ++ if big then [] else granulesFrom (phys d.tag t2) 0x1000) then s
        else
          let s1 := (s.clearTable (phys d.tag t1) 0x40000).writePte r path.p0 (t1 + 1)
          if big then s1.writePte r (phys d.tag (t1 + 8 * i1)) e
          else ((s1.clearTable (phys d.tag t2) 0x1000).writePte r (phys d.tag (t1 + 8 * i1)) (t2 + 1)).writePte r (phys d.tag (t2 + 8 * i2)) e
      | some p1, none =>
        if (s.mem.nat p1 8).testBit 0 then s
        else if big then s.writePte r p1 e
        else if !s.memHas (phys d.tag (t2 + 0xfff)) ∨ s.tablesHeld (granulesFrom (phys d.tag t2) 0x1000) then s
        else ((s.clearTable (phys d.tag t2) 0x1000).writePte r p1 (t2 + 1)).writePte r (phys d.tag (t2 + 8 * i2)) e
      | some _, some p2 => if big ∨ (s.mem.nat p2 8).testBit 0 then s else s.writePte r p2 e

/-- A granule carried to a new frame: its bytes, its birth generation and its preserved versions (10 R213, 11 R215). -/
def State.carry (s : State) (q q' : Nat) : State :=
  let moved := (s.versions.filter fun (v : Version) => v.granule == q).map fun (v : Version) =>
    { v with granule := q', cells := cellsAt (q' * 65536) ((List.range 65536).map fun i => v.byte (q * 65536 + i)) }
  { s with
    mem := s.mem.writes (cellsAt (q' * 65536) (s.mem.reads (q * 65536) 65536)), births := put s.births q' (s.birth q)
    versions := (s.versions.filter fun (v : Version) => v.granule != q') ++ moved }

/-- Writes already translated to a granule have not performed (R213, step 2). -/
def State.awaited (s : State) (q : Nat) : Bool := s.heldWrites.any fun (h : HeldWrite) => h.cells.any fun c => granuleOf c.1 == q

/-- The reserve and the snapshot store have room for the versions that granules from `q` on would take with them (R213; 11 R216). -/
def State.carryRoom (s : State) (q n : Nat) : Bool :=
  let moved := s.versions.filter fun (v : Version) => decide (q ≤ v.granule ∧ v.granule < q + n)
  let reserve := countIf moved fun v => !v.stored
  let store := countIf moved fun v => v.stored
  let d := genDie (q * 65536)
  (reserve = 0 || decide (countIf s.versions (fun (v : Version) => v.die == d && !v.stored) + reserve ≤ (s.die d).reserveGiB * 16384)) &&
    (store = 0 || decide (countIf s.versions (fun (v : Version) => v.stored) + store ≤ s.storeGiB.sum * 16384))

/-- PAGE_MIGRATION (10 R213): an unpinned page in HBM or in the second tier moves to another frame of its die, with its generations, and its entry
names the new frame; one of PLACE alone leaves the frame. The old frame keeps its bytes and versions, for reads of earlier generations through the tables as they
stood. It waits for the writes already translated to the old frame, and firmware chooses a frame that no page has, now or in a live snapshot (DEDUCED, log entry 23). -/
def State.migrate (s : State) (r v off frame place : Nat) : State :=
  match s.pagedDie r v with
  | none => s
  | some d =>
    match s.leafAt d off with
    | none => s
    | some (p, size) =>
      let e := s.mem.nat p 8
      let hostPage := d.kind == .io && bits e 3 2 == 1
      let old := granuleOf (phys d.tag (pteAddr e))
      let new := granuleOf (phys d.tag frame)
      let units := List.range (size / 65536)
      let moved := fun (t : State) => t.writePte r p (leafEntry frame place (e.testBit 2) false)
      if e.testBit 5 ∨ hostPage ∨ (d.kind = .io ∧ place ≠ 0) ∨ !placeOk d place ∨ frame % size ≠ 0 ∨ !s.memHas (phys d.tag (frame + size - 1))
          ∨ s.cutSent ∨ s.mustHold (granuleOf p) then s
      else if frame = pteAddr e then moved s
      else if !s.carryRoom old (size / 65536) ∨ units.any (fun i => s.awaited (old + i) || s.awaited (new + i) || s.frameUsed (new + i)) then s
      else moved (units.foldl (fun s i => s.carry (old + i) (new + i)) s)

/-! ### The events -/

/-- CUT (11 R221). -/
def execCut (s : State) : Res := .next s.sendCut

/-- CUT_DONE (11 R221). -/
def execCutDone (die : BitVec 4) (s : State) : Res := .next (s.cutDone die.toNat)

/-- OPEN (11 R221). -/
def execOpen (s : State) : Res := .next s.openCut

/-- HELD_WRITE_RELEASE (11 R228). -/
def execHeldWriteRelease (die : BitVec 4) (s : State) : Res := .next (s.heldRelease die.toNat)

/-- SCARF_DRAIN (11 R227). -/
def execScarfDrain (die : BitVec 4) (s : State) : Res := .next (s.scarfDrain die.toNat)

/-- GENFULL (11 R228). -/
def execGenfull (r : Nat) (s : State) : Res := .next (s.genfull r)

/-- PACKAGE_TIMEBASE_TICK (01 R21). -/
def execPackageTimebaseTick (s : State) : Res := .next s.tick

/-- ARITHMETIC_CLOCK_CYCLE (18 R381). -/
def execArithmeticClockCycle (clusters : BitVec 32) (s : State) : Res := .next (s.clockCycle clusters)

/-- DROOP_ALARM (20 R415). -/
def execDroopAlarm (cl : BitVec 5) (depth : BitVec 7) (s : State) : Res := .next (s.droopAlarm cl.toNat depth.toNat)

/-- STRETCH_END (20 R415). -/
def execStretchEnd (cl : BitVec 5) (s : State) : Res := .next (s.modCluster cl.toNat Cluster.endStretch)

/-- HALF_ISSUE_END (20 R415). -/
def execHalfIssueEnd (cl : BitVec 5) (s : State) : Res := .next (s.modCluster cl.toNat Cluster.endHalf)

/-- POWER_GRANT (20 R414). -/
def execPowerGrant (exceeded : BitVec 16) (s : State) : Res := .next (s.powerGrant exceeded)

/-- CREDIT_RETURN (18 R384). -/
def execCreditReturn (link : Nat) (vc : BitVec 2) (freed : BitVec 16) (s : State) : Res := .next (s.creditReturn link vc.toNat freed)

/-- CREDIT_AUDIT (18 R384). -/
def execCreditAudit (link : Nat) (vc : BitVec 2) (sent : BitVec 16) (s : State) : Res := .next (s.creditAudit link vc.toNat sent)

/-- SELECTIVE_REPEAT (20 R405). -/
def execSelectiveRepeat (die : BitVec 4) (fec : Bool) (s : State) : Res := .next (s.selectiveRepeat die.toNat fec)

/-- LINK_RETRAIN (20 R406). -/
def execLinkRetrain (link : BitVec 5) (good : Bool) (s : State) : Res := .next (s.linkRetrain link.toNat good)

/-- LINK_DOWN (20 R407). -/
def execLinkDown (link : BitVec 5) (s : State) : Res := .next (s.linkDown link.toNat)

/-- HOST_PORT_RESET (20 R410). -/
def execHostPortReset (port : BitVec 1) (s : State) : Res := .next (s.hostPortReset port.toNat)

/-- HOST_LINK_UP (20 R410). -/
def execHostLinkUp (port : BitVec 1) (s : State) : Res := .next (s.hostLinkUp port.toNat)

/-- CXL_PORT_LINK_DOWN (20 R411). -/
def execCxlPortLinkDown (die : BitVec 4) (p : BitVec 2) (s : State) : Res := .next (s.cxlPortDown die.toNat p.toNat)

/-- AGEOSC_REFRESH (18 R385). -/
def execAgeoscRefresh (die : BitVec 4) (count eol : BitVec 64) (s : State) : Res := .next (s.ageosc die.toNat count eol)

/-- PAGE_ALLOCATION (10 R211). -/
def execPageAllocation (r : Nat) (v : BitVec 4) (off : BitVec 52) (big : Bool) (frame : BitVec 52) (place : BitVec 2) (write pin : Bool)
    (t1 t2 : BitVec 52) (s : State) : Res :=
  .next (s.allocate r v.toNat off.toNat big frame.toNat place.toNat write pin t1.toNat t2.toNat)

/-- PAGE_MIGRATION (10 R213). -/
def execPageMigration (r : Nat) (v : BitVec 4) (off frame : BitVec 52) (place : BitVec 2) (s : State) : Res :=
  .next (s.migrate r v.toNat off.toNat frame.toNat place.toNat)

end Sys2Proof.Machine
end

