-- ==== Sys2Proof/Machine/Launch.lean ====
section
/-!
DEFINITION. The host's side: host writes (12_consistency R252, 20_boundary R416), launches and their completions (14_queues R285 to R289), region control blocks
(15_tables R309 to R313), loop records (15 R315), the mailbox and attestation (20 R416 to R420), and the resets (00 R4, 10 R200).
-/
namespace Sys2Proof.Machine

/-! ### Host writes (12 R252; 20 R416) -/

/-- Byte `i` of a number replaced. -/
def setByte {n : Nat} (w : BitVec n) (i : Nat) (b : Byte) : BitVec n := setBits w (8 * i) 8 b.toNat

/-- A host's byte in its mailbox: CMD, CSEQ and NONCE alone are the host's (R416). -/
def Port.hostByte (p : Port) (o : Nat) (b : Byte) : Port :=
  if 0x10 ≤ o ∧ o < 0x14 then { p with cmd := setByte p.cmd (o - 0x10) b }
  else if 0x14 ≤ o ∧ o < 0x18 then { p with cseq := setByte p.cseq (o - 0x14) b }
  else if 0x20 ≤ o ∧ o < 0x40 then { p with nonce := setByte p.nonce (o - 0x20) b }
  else p

/-- A host's write to the coherent window (01 R16; 12 R249): one of port 1 travels over the Sill from socket 15 to socket 12, never over a link that is down (20 R407); one that
retrains holds it (20 R406). -/
def State.hostWindow (s : State) (port off : Nat) (bytes : List Byte) : State :=
  if port = 0 then { s with mem := s.mem.writes (cellsAt (windowAddr off) bytes) }
  else { s with hostHeld := s.hostHeld ++ [(off, bytes)] }.settleHost

/-- HOST_WRITE: to the coherent window, to the port's mailbox, or to the host's own memory. -/
def State.hostWrite (s : State) (port space off : Nat) (bytes : List Byte) : State :=
  if space = 2 then { s with mem := s.mem.writes (cellsAt (phys (hostTag port) off) bytes) }
  else if !(s.port port).up then s
  else if space = 0 then
    if off + bytes.length ≤ 0x400000 then s.hostWindow port off bytes else s
  else if space = 1 then
    s.modPort port fun p => ((List.range bytes.length).zip bytes).foldl (fun p x => p.hostByte (off + x.1) x.2) p
  else s

/-! ### Launch slots (14 R286, R288) -/

/-- A launch slot's fields; `resv`: a reserved byte of the layout is not zero. -/
structure Slot where
  n : Nat
  op : Nat
  target : Nat
  loop : Nat
  groups : Nat
  csets : Nat
  user : Word
  resv : Bool
deriving DecidableEq, Repr

/-- The next launch of a queue that firmware consumes: the queue is enabled, LHEAD is behind LTAIL, and the launch has its own completion slot (R286). -/
def State.nextLaunch (s : State) (port q : Nat) : Option Slot :=
  let b := queueBase port q
  let n := s.mem.nat (b + 0x40) 4
  let room := ixSub n (s.mem.nat (b + 8) 4) < 256
  if (s.port port).status ≠ 1 ∨ s.mem.nat (b + 0x44) 4 ≠ 1 ∨ n = s.mem.nat b 4 ∨ !room then none
  else
    let a := b + 0x100 + 128 * (n % 256)
    let f := fun o => s.mem.nat (a + o) 8
    some { n := n, op := f 0, target := f 8, loop := f 0x10, groups := f 0x18, csets := f 0x20, user := BitVec.ofNat 64 (f 0x28)
           resv := s.mem.nat (a + 0x30) 80 ≠ 0 }

/-- The launch is consumed (R286). -/
def State.consume (s : State) (port q : Nat) (x : Slot) : State := { s with mem := s.mem.putNat (queueBase port q + 0x40) 4 (x.n + 1) }

/-- The launch ends with a status (R289). -/
def State.endLaunch (s : State) (port q : Nat) (x : Slot) (status : BitVec 8) : State :=
  { s with ended := s.ended ++ [{ port := port, queue := q, launch := BitVec.ofNat 32 x.n, user := x.user, status := status, detail := 0 }] }

def stDONE : BitVec 8 := 0
def stBADOP : BitVec 8 := 1
def stBADREC : BitVec 8 := 2
def stRCBREJ : BitVec 8 := 3
def stGRIDREJ : BitVec 8 := 4
def stNOSNAP : BitVec 8 := 6
def stNORIGHT : BitVec 8 := 7

/-- Bytes at a virtual address of a region, one translation a byte; none where one of them has no mapping. -/
def State.vaBytes (s : State) (r : Nat) (va : Word) (n : Nat) : Option (List Byte) :=
  let l := (List.range n).map fun i => s.vaPhys r (va + BitVec.ofNat 64 i)
  if l.any fun x => x.isNone then none else some (l.filterMap fun x => x.map s.mem.read)

/-! ### Region control blocks (15 R309, R310, R313) -/

/-- A field of a record in bytes. -/
def fieldOf (bs : List Byte) (o n : Nat) : Nat := leNat ((bs.drop o).take n)

/-- A binding entry; the kind of die it names. -/
def dieKindOf (n : Nat) : DieKind := match n with | 0 => .absent | 1 => .compute | 2 => .memory | _ => .io
def bindOf (e : Nat) : DieBind :=
  if bits e 4 2 = 0 then ⟨.absent, 0, 0⟩ else { kind := dieKindOf (bits e 4 2), socket := bits e 0 4, root := bits e 15 37 * 32768 }

/-- An entry that R313 allows. -/
def State.bindOk (s : State) (e : Nat) : Bool :=
  bits e 52 12 == 0 && bits e 6 9 == 0 && (bindOf e).allowed s.populated

/-- The template's groups over the parent's resolved RCB (R310). -/
def Rcb.resolve (p : Rcb) (bs : List Byte) : Rcb :=
  let f := fieldOf bs
  let ovr := fun (n : Nat) => (f 8 4).testBit n
  { fdom := f 0xc 2
    cores := if ovr 0 then bits (f 0x10 4) 0 11 else p.cores
    ukib := if ovr 1 then f 0x14 4 else p.ukib
    ckib := if ovr 1 then f 0x18 4 else p.ckib
    dkib := if ovr 1 then f 0x1c 4 else p.dkib
    copybw := if ovr 2 then bits (f 0x20 4) 0 9 else p.copybw
    power := if ovr 2 then bits (f 0x20 4) 16 9 else p.power
    stall := if ovr 3 then f 0x24 4 else p.stall
    preempt := if ovr 3 then f 0x28 4 else p.preempt
    prio := if ovr 4 then bits (f 0x2c 4) 0 4 else p.prio
    agecap := if ovr 4 then bits (f 0x2c 4) 4 4 else p.agecap
    prot := if ovr 5 then (f 0x30 4).testBit 0 else p.prot
    genpol := if ovr 5 then (match bits (f 0x30 4) 1 2 with | 0 => .dropOldest | 1 => .failRegion | _ => .reset) else p.genpol
    snapRight := if ovr 6 then (f 0x34 4).testBit 0 else p.snapRight
    growRight := if ovr 6 then (f 0x34 4).testBit 1 else p.growRight
    hwin := if ovr 6 then (f 0x34 4).testBit 2 else p.hwin
    cretry := if ovr 6 then bits (f 0x34 4) 4 4 else p.cretry
    handler := if ovr 7 then BitVec.ofNat 64 (f 0x38 8) &&& rpMask else p.handler
    ovrBase := if ovr 8 then BitVec.ofNat 64 (f 0x40 8) else p.ovrBase
    ovrSlots := if ovr 8 then f 0x48 4 else p.ovrSlots
    colltab := if ovr 9 then BitVec.ofNat 64 (f 0x50 8) else p.colltab
    dbt := if ovr 10 then (List.range 16).map fun v => bindOf (f (0x80 + 8 * v) 8) else p.dbt }

/-- A reserved field of the template is not zero (R309). -/
def rcbReserved (bs : List Byte) : Bool :=
  let f := fieldOf bs
  bits (f 8 4) 11 21 ≠ 0 || f 0xe 2 ≠ 0 || bits (f 0x10 4) 11 21 ≠ 0 || bits (f 0x20 4) 9 7 ≠ 0 || bits (f 0x20 4) 25 7 ≠ 0 || bits (f 0x2c 4) 8 24 ≠ 0
    || bits (f 0x30 4) 3 29 ≠ 0 || (f 0x34 4).testBit 3 || bits (f 0x34 4) 8 24 ≠ 0 || bits (f 0x38 8) 52 12 ≠ 0 || f 0x4c 4 ≠ 0 || f 0x58 40 ≠ 0

/-- A route of the region crosses a link that is down (R310, 20 R407). -/
def State.routesCut (s : State) (r : Rcb) : Bool :=
  let here := (r.dbt.filter fun (d : DieBind) => d.kind != .absent)
  here.any fun (a : DieBind) => here.any (fun (b : DieBind) => s.routeDown a.socket b.socket) ||
    (a.kind == .compute && (s.routeDown a.socket 0 || s.routeDown a.socket 12))

/-- The region that PARENT names: 0 is the root of the launching port (R310). -/
def State.parentOf (s : State) (port : Nat) (va : Nat) : Option Nat :=
  if va = 0 then some port
  else (s.regions.find? fun e => e.2.live && !e.2.root && e.2.port == port && e.2.rcbVa.toNat == va).map fun e => e.1

/-- A reserved bit of the template's binding entries is not zero (R309, R313), whether the template gives the table or inherits it. -/
def dbtReserved (bs : List Byte) : Bool :=
  (List.range 16).any fun v => let e := fieldOf bs (0x80 + 8 * v) 8; bits e 52 12 ≠ 0 || bits e 6 9 ≠ 0

/-- The resolved RCB of a template and its parent, unless firmware rejects it (R310). -/
def State.createRcb (s : State) (port : Nat) (bs : List Byte) : Option (Nat × Rcb) :=
  match s.parentOf port (fieldOf bs 0 8) with
  | none => none
  | some p =>
    let pr := (s.region p).rcb
    let r := pr.resolve bs
    let ovr := fun (n : Nat) => (fieldOf bs 8 4).testBit n
    let genpol := ovr 5 && bits (fieldOf bs 0x30 4) 1 2 == 3
    let binds := r.dbt.all (DieBind.allowed s.populated) && (!ovr 10 || (List.range 16).all fun v => s.bindOk (fieldOf bs (0x80 + 8 * v) 8))
    if rcbReserved bs ∨ dbtReserved bs ∨ genpol ∨ !binds ∨ !r.inRange ∨ !r.within pr ∨ (s.linksDown ≠ 0 ∧ s.routesCut r) then none else some (p, r)

/-! ### Loop records (15 R315) -/

/-- The cluster that bit `i` of a CSET names. -/
def Rcb.csetCluster (r : Rcb) (i : Nat) : Option Nat :=
  match r.dbt[i / 2]? with
  | some d => if d.kind = .compute then some (2 * d.socket + i % 2) else none
  | none => none

/-- The bits of a cluster set, ascending. -/
def csetBits (c : Nat) : List Nat := (List.range 32).filter fun i => c.testBit i

/-- The cluster set of a launch: CLUSTERS, else the template's CSET, else NCL clusters of the binding table in ascending order. An NCL beyond the clusters that the
table names is invalid, and so is a template with CSET 0 and an NCL of 0 or beyond 16, also where CLUSTERS gives the set (R315). The clusters are counted and taken
as pairs of virtual die and cluster, those of two virtual dies on one socket twice (DESIGN CHOICE, log entry 94). -/
def Rcb.csetOf (r : Rcb) (csets cset ncl : Nat) : Option Nat :=
  let all := (List.range 32).filter fun i => (r.csetCluster i).isSome
  if all.length < ncl ∨ (cset = 0 ∧ (ncl = 0 ∨ 16 < ncl)) then none
  else if csets ≠ 0 then some csets
  else if cset ≠ 0 then some cset
  else some ((all.take ncl).foldl (fun a i => a + 2 ^ i) 0)

/-- The clusters of a set; none where the set is not valid (R27, R315). -/
def Rcb.clustersOf (r : Rcb) (cset : Nat) : Option (List Nat) :=
  let l := (csetBits cset).map r.csetCluster
  let cs := l.filterMap id
  if l.any (fun x => x.isNone) ∨ !decide cs.Nodup ∨ cs = [] ∨ 16 < cs.length then none else some cs

/-- A loop-record template breaks R315 in a field of its own. -/
def loopReserved (bs : List Byte) : Bool :=
  let f := fieldOf bs
  let shape := f 0x1c 4
  let win := bits shape 0 4
  let nbank := bits shape 4 4
  bits (f 0 8) 52 12 ≠ 0 || bits (f 8 8) 52 12 ≠ 0 || bits (f 0x10 8) 52 12 ≠ 0 || (f 0 8 == 0 && f 8 8 == 0 && f 0x10 8 == 0) || bits shape 12 20 ≠ 0
    || win == 0 || 10 < win || 8 < nbank || (nbank != 0 && !shape.testBit 8) || f 0x25 3 ≠ 0 || 64 < f 0x34 4 || bits (f 0x38 8) 37 27 ≠ 0 || f 0x44 60 ≠ 0

/-- The grid of a valid loop record, with its cluster set; none where the launch is rejected with GRIDREJ. -/
def createGrid (port q : Nat) (x : Slot) (rcb : Rcb) (bs : List Byte) : Option (Grid × Nat) :=
  let f := fieldOf bs
  let shape := f 0x1c 4
  let groups := if x.groups ≠ 0 then x.groups else f 0x18 4
  let mapped := shape.testBit 11
  if loopReserved bs ∨ groups = 0 ∨ (mapped ∧ groups % 96 ≠ 0) then none
  else match rcb.csetOf x.csets (f 0x20 4) (f 0x24 1) with
    | none => none
    | some cset =>
      match rcb.clustersOf cset with
      | none => none
      | some cs =>
        let entry := if f 0 8 ≠ 0 then f 0 8 else if f 8 8 ≠ 0 then f 8 8 else f 0x10 8
        some ({ Grid.reset with
          live := true, entry := BitVec.ofNat 64 entry, groups := groups, win := 64 * bits shape 0 4, nbank := bits shape 4 4, kerf := shape.testBit 8
          slackc := bits shape 9 2, mapped := mapped, clusters := cs, port := port, queue := q, launch := BitVec.ofNat 32 x.n, user := x.user }, cset)

/-- A replica of the loop record (R315): the template with the fields that the launch fixes. -/
def State.putReplica (s : State) (cl : Nat) (lrec : BitVec 32) (bs : List Byte) (g : Grid) (cset : Nat) (rcbVa : Word) : State :=
  let a := clusterPhys cl lrec
  { s with mem := ((s.mem.writes (cellsAt a bs)).putFields a
      [(0x18, 4, g.groups), (0x20, 4, cset), (0x28, 8, rcbVa.toNat), (0x38, 8, g.launch.toNat + g.queue * 2 ^ 32 + g.port * 2 ^ 36), (0x40, 4, 0)]) }

/-- The barrier words of a cluster at the launch of a mapped grid (18 R380). -/
def Cluster.resetBars (cl : Cluster) : Cluster :=
  { cl with bars := (List.range 32).map fun b => (b, { Barrier.reset with phase := (cl.bar b).phase }) }

/-- A number that no entry of a table has. -/
def freshKey {α : Type} (t : Tab α) : Nat := t.foldl (fun m e => Nat.max m (e.1 + 1)) 0

/-- The address at which firmware keeps a resolved RCB is usable: mapped onto HBM for the root region (R308), and no live region's. -/
def State.rcbPlace (s : State) (port : Nat) (va : Word) : Option (List Nat) :=
  let l := (List.range 256).map fun i => s.vaPhys port (va + BitVec.ofNat 64 i)
  if va = 0 ∨ !l.all (fun x => x.any fun a => decide (0x5000 ≤ tagOf a ∧ tagOf a < 0x6000)) ∨ s.regions.any (fun e => e.2.live && e.2.rcbVa == va) then none
  else some (l.filterMap id)

/-- The offset of a loop record is usable: outside the pool, and no live grid's in the same cluster (R315). -/
def State.lrecPlace (s : State) (cs : List Nat) (lrec : BitVec 32) : Bool :=
  lrec.toNat + 128 ≤ s.poolBase && !s.grids.any fun e => e.2.live && e.2.lrec == lrec && e.2.clusters.any cs.contains

/-- A launch that firmware accepts: the region, its resolved RCB, the pins of its overflow ring (10 R212), the grid, its replicas; a mapped grid resets the barrier words of its clusters. -/
def State.startGrid (s : State) (port parent : Nat) (rcb : Rcb) (g : Grid) (cset : Nat) (tmpl : List Byte) (rcbVa : Word) (lrec : BitVec 32)
    (place : List Nat) (parentVa : Nat) : State :=
  let rid := freshKey s.regions
  let gid := freshKey s.grids
  let g1 := { g with region := rid, lrec := lrec }
  let bytes := ((rcb.fields parentVa).map fun f => leBytes f.2.1 f.2.2).flatten
  let s0 := s.firmwareWrite port (place.zip bytes)
  let s1 := { s0 with
    regions := put s0.regions rid
      { live := true, root := false, port := port, parent := parent, rcb := rcb, rcbVa := rcbVa, ring := [], ringTail := 0, genWait := 0, genTold := false, spillWait := 0 }
    grids := put s0.grids gid g1 }
  let s2 := g1.clusters.foldl (fun s cl => s.putReplica cl lrec tmpl g1 cset rcbVa) (s1.pinRing rid)
  if g1.mapped then g1.clusters.foldl (fun s cl => s.modCluster cl Cluster.resetBars) s2 else s2

/-- LAUNCH_GRID (14 R288): the next launch, when its OP is not a drop: rejected, or its region and its grid begin. An unusable choice of `rcbVa` or `lrec`,
which firmware does not make, leaves the state as it is. -/
def State.launchGrid (s : State) (port q : Nat) (rcbVa : Word) (lrec : BitVec 32) : State :=
  match s.nextLaunch port q with
  | none => s
  | some x =>
    let reject := fun (status : BitVec 8) => (s.consume port q x).endLaunch port q x status
    let op := bits x.op 0 8
    if op = 2 then s
    else if op ≠ 1 then reject stBADOP
    else if x.resv ∨ bits x.op 8 56 ≠ 0 ∨ bits x.groups 32 32 ≠ 0 ∨ bits x.csets 32 32 ≠ 0 then reject stBADREC
    else match (s.vaBytes port (BitVec.ofNat 64 x.target) 256).bind (fun bs => (s.createRcb port bs).map fun r => (bs, r)) with
      | none => reject stRCBREJ
      | some (rbs, parent, rcb) =>
        match (s.vaBytes port (BitVec.ofNat 64 x.loop) 128).bind (fun bs => (createGrid port q x rcb bs).map fun g => (bs, g)) with
        | none => reject stGRIDREJ
        | some (bs, g, cset) =>
          match s.rcbPlace port rcbVa with
          | none => s
          | some place =>
            if s.lrecPlace g.clusters lrec then
              (s.consume port q x).startGrid port parent rcb g cset bs rcbVa lrec place (fieldOf rbs 0 8)
            else s

/-- DROP_SNAPSHOT (11 R219; 14 R288). -/
def State.dropSnapshot (s : State) (port q : Nat) : State :=
  match s.nextLaunch port q with
  | none => s
  | some x =>
    let fin := fun (s : State) (status : BitVec 8) => (s.consume port q x).endLaunch port q x status
    if bits x.op 0 8 ≠ 2 then s
    else if x.resv ∨ bits x.op 8 56 ≠ 0 ∨ bits x.target 16 48 ≠ 0 ∨ x.loop ≠ 0 ∨ x.groups ≠ 0 ∨ x.csets ≠ 0 then fin s stBADREC
    else if !(s.region port).rcb.snapRight then fin s stNORIGHT
    else if !s.live.contains (BitVec.ofNat 16 x.target) then fin s stNOSNAP
    else fin (s.dropSnap (BitVec.ofNat 16 x.target)) stDONE

/-- WRITE_COMPLETION (14 R289, 20 R409): the completion slot of the oldest ended launch is written, SEQ last, and the port's vector fires. -/
def State.writeCompletion (s : State) : State :=
  match s.ended with
  | [] => s
  | e :: r =>
    let a := queueBase e.port e.queue + 0x8100 + 32 * (e.launch.toNat % 256)
    { s with
      ended := r
      mem := s.mem.putFields a [(0, 4, e.status.toNat), (4, 4, e.detail.toNat), (8, 8, e.user.toNat), (0x10, 8, s.time), (0x1c, 4, 0), (0x18, 4, e.launch.toNat)]
      }.modPort e.port fun p => { p with vectors := e.queue :: p.vectors }

/-! ### The mailbox (20 R416 to R420) -/

/-- INV (R416). -/
def State.inv (s : State) : Nat :=
  countIf Config.computeSockets (fun d => s.populated.getLsbD d) + s.populated.toNat * 2 ^ 4 + Config.pkg.toNat * 2 ^ 20 + s.linksDown.toNat * 2 ^ 36

/-- The bytes that the signature of a report covers (R420). -/
def State.reportBody (s : State) (p : Port) : List Byte :=
  leBytes 32 p.nonce.toNat ++ leBytes 32 (Config.sha256 Config.romImage).toNat ++ leBytes 32 (Config.sha256 (Config.fwImage s.mem.epoch)).toNat ++ leBytes 8 s.inv
    ++ leBytes 4 p.fwver.toNat ++ leBytes 4 Config.fusedMin.toNat ++ leBytes 32 (Config.sha256 Config.fwConfig).toNat

/-- A command is outstanding: firmware runs and DSEQ differs from CSEQ (R418). -/
def Port.pending (p : Port) : Bool := p.status == 1 && p.cseq != p.dseq

/-- ATTESTATION_REPORT (R420): the report is written before DSEQ. The bytes of REPORT above its 208 stay (DESIGN CHOICE, log entry 7). -/
def State.attest (s : State) (port : Nat) : State :=
  let p := s.port port
  if p.pending ∧ p.cmd = 1 then
    s.modPort port fun p =>
      { p with report := setBits p.report 0 1664 (leNat (s.reportBody p ++ leBytes 64 (Config.sign (s.reportBody p)).toNat)), dseq := p.cseq }
  else s

/-- MAILBOX_IGNORED (R418). -/
def State.ignoreCmd (s : State) (port : Nat) : State :=
  let p := s.port port
  if p.pending ∧ p.cmd ≠ 1 ∧ p.cmd ≠ 2 then s.modPort port fun p => { p with dseq := p.cseq } else s

/-! ### Resets (00 R4; 10 R200; 20 R418, R419) -/

/-- Host memory, which a reset does not touch. -/
def State.hostCells (s : State) : List Host.Cell := s.mem.cells.filter fun c => 0x7000 ≤ tagOf c.1

/-- The root RCB of a host port in memory (15 R308, R312). -/
def Memory.rootRcb (m : Memory) (port : Nat) (populated : BitVec 16) : Memory := m.putFields (rootRcbAddr port) ((Rcb.ofRoot port populated).fields 0)

/-- Memory after a reset: the queue headers and the root RCBs as firmware writes them, or disabled queues alone where the image is rejected (14 R285; 15 R312;
20 R419). -/
def State.resetMem (s : State) (warm good : Bool) : Memory :=
  let m : Memory := ⟨s.hostCells, s.mem.epoch + 1, warm⟩
  let m1 := (List.range 32).foldl (fun m q => m.queueHeader (q / 16) (q % 16) (ofBool good)) m
  if good then (m1.rootRcb 0 s.populated).rootRcb 1 s.populated else m1

/-- The state after a reset: every item at its reset value, the package as it is populated, the counter of free values, the moves to
come and what firmware is to write kept. -/
def State.afterReset (s : State) (warm good : Bool) : State :=
  { State.reset with
    mem := s.resetMem warm good, populated := s.populated, cxlGiB := s.cxlGiB
    regions := if good then [(0, Region.ofRoot 0 s.populated), (1, Region.ofRoot 1 s.populated)] else []
    freeIx := s.freeIx, agenda := s.agenda, firmware := s.firmware }

/-- The snapshot store that firmware sets when it enumerates the second tier: 384 GiB an I/O die, or what the die has (11 R216; DESIGN CHOICE, log entry 23). -/
def State.storeSize (s : State) : List Nat := Config.ioSockets.map fun d => Nat.min 384 (s.tierBytes d / 2 ^ 30)

/-- The links that a cold reset does not bring up again: of those that were down, the ones whose training fails, as the free value says (R407). -/
def State.untrained (s : State) : BitVec 24 := if s.linksDown = 0 then 0 else s.linksDown &&& s.freeBits.setWidth 24

/-- STATUS and FWVER after the check of the image of the `e`-th reset (R416, R419); where it is rejected no version runs, and FWVER reads zero (DESIGN CHOICE, log entry 7). -/
def Port.booted (p : Port) (e : Nat) (good : Bool) : Port := { p with status := if good then 1 else 2, fwver := if good then Config.imageVersion e else 0 }

/-- COLD_RESET (R4, R419): links and CXL ports are trained again, each die's reserve and the snapshot store are set; `signed`: the image's signature is valid. -/
def State.coldReset (s : State) (signed : Bool) (reserveGiB : Nat) : State :=
  let good := Config.imagePasses (s.mem.epoch + 1) signed
  let port := Port.reset.booted (s.mem.epoch + 1) good
  { s.afterReset false good with
    ports := [(0, port), (1, port)], dies := Config.memorySockets.map fun d => (d, { Die.reset with reserveGiB := reserveGiB })
    storeGiB := s.storeSize, linksDown := s.untrained, freeIx := if s.linksDown = 0 then s.freeIx else s.freeIx + 1 }

/-- A mailbox through a warm reset: the command that asked for it is finished once firmware runs again (R418). -/
def Port.warm (p : Port) (e : Nat) (good : Bool) : Port :=
  { p.booted e good with vectors := [], dseq := if good && p.cmd == 2 then p.cseq else p.dseq }

/-- WARM_RESET (R419), which checks the image in the same way: links that are down stay down (R407), and the reserves and the snapshot store keep their size. -/
def State.warmReset (s : State) (signed : Bool) : State :=
  let e := s.mem.epoch + 1
  let good := Config.imagePasses e signed
  { s.afterReset true good with
    ports := [(0, (s.port 0).warm e good), (1, (s.port 1).warm e good)], linksDown := s.linksDown, retrains := s.retrains, cxlDown := s.cxlDown
    storeGiB := s.storeGiB
    dies := Config.memorySockets.map fun d => (d, { Die.reset with reserveGiB := (s.die d).reserveGiB }) }

/-! ### The events -/

/-- HOST_WRITE (12 R252). -/
def execHostWrite (port : BitVec 1) (space : BitVec 2) (off : BitVec 52) (bytes : List Byte) (s : State) : Res :=
  .next (s.hostWrite port.toNat space.toNat off.toNat bytes)

/-- LAUNCH_GRID (14 R288). -/
def execLaunchGrid (port : BitVec 1) (queue : BitVec 4) (rcbVa : BitVec 64) (lrec : BitVec 28) (s : State) : Res :=
  .next (s.launchGrid port.toNat queue.toNat rcbVa (0x10000000 + lrec.setWidth 32))

/-- DROP_SNAPSHOT (11 R219). -/
def execDropSnapshot (port : BitVec 1) (queue : BitVec 4) (s : State) : Res := .next (s.dropSnapshot port.toNat queue.toNat)

/-- WRITE_COMPLETION (14 R289). -/
def execWriteCompletion (s : State) : Res := .next s.writeCompletion

/-- ATTESTATION_REPORT (20 R420). -/
def execAttestationReport (port : BitVec 1) (s : State) : Res := .next (s.attest port.toNat)

/-- MAILBOX_IGNORED (20 R418). -/
def execMailboxIgnored (port : BitVec 1) (s : State) : Res := .next (s.ignoreCmd port.toNat)

/-- COLD_RESET (00 R4). -/
def execColdReset (good : Bool) (reserveGiB : BitVec 7) (s : State) : Res := .next (s.coldReset good reserveGiB.toNat)

/-- WARM_RESET (20 R419). -/
def execWarmReset (good : Bool) (s : State) : Res := .next (s.warmReset good)

end Sys2Proof.Machine
end

