-- ==== Sys2Proof/Machine/Dispatch.lean ====
section
/-!
DEFINITION. One arm for each row of spec/opcode_table.json: its meaning.
-/
namespace Sys2Proof.Machine

/-- What a step of the table does. -/
def exec (i : Instr) (s : State) : Host.Outcome State Fault Refusal :=
  match i with
  | .nop => Sys2Proof.Machine.execNop s
  | .add g d a b => Sys2Proof.Machine.execAdd g d a b s
  | .addImm g d a imm => Sys2Proof.Machine.execAddImm g d a imm s
  | .sub g d a b => Sys2Proof.Machine.execSub g d a b s
  | .subImm g d a imm => Sys2Proof.Machine.execSubImm g d a imm s
  | .and g d a b => Sys2Proof.Machine.execAnd g d a b s
  | .andImm g d a imm => Sys2Proof.Machine.execAndImm g d a imm s
  | .or g d a b => Sys2Proof.Machine.execOr g d a b s
  | .orImm g d a imm => Sys2Proof.Machine.execOrImm g d a imm s
  | .xor g d a b => Sys2Proof.Machine.execXor g d a b s
  | .xorImm g d a imm => Sys2Proof.Machine.execXorImm g d a imm s
  | .andn g d a b => Sys2Proof.Machine.execAndn g d a b s
  | .andnImm g d a imm => Sys2Proof.Machine.execAndnImm g d a imm s
  | .shl g d a b => Sys2Proof.Machine.execShl g d a b s
  | .shlImm g d a n => Sys2Proof.Machine.execShlImm g d a n s
  | .shr g d a b => Sys2Proof.Machine.execShr g d a b s
  | .shrImm g d a n => Sys2Proof.Machine.execShrImm g d a n s
  | .sra g d a b => Sys2Proof.Machine.execSra g d a b s
  | .sraImm g d a n => Sys2Proof.Machine.execSraImm g d a n s
  | .mul g d a b => Sys2Proof.Machine.execMul g d a b s
  | .mulImm g d a imm => Sys2Proof.Machine.execMulImm g d a imm s
  | .mulh g d a b => Sys2Proof.Machine.execMulh g d a b s
  | .mulhImm g d a imm => Sys2Proof.Machine.execMulhImm g d a imm s
  | .mulhu g d a b => Sys2Proof.Machine.execMulhu g d a b s
  | .mulhuImm g d a imm => Sys2Proof.Machine.execMulhuImm g d a imm s
  | .div g d a b => Sys2Proof.Machine.execDiv g d a b s
  | .divImm g d a imm => Sys2Proof.Machine.execDivImm g d a imm s
  | .divu g d a b => Sys2Proof.Machine.execDivu g d a b s
  | .divuImm g d a imm => Sys2Proof.Machine.execDivuImm g d a imm s
  | .rem g d a b => Sys2Proof.Machine.execRem g d a b s
  | .remImm g d a imm => Sys2Proof.Machine.execRemImm g d a imm s
  | .remu g d a b => Sys2Proof.Machine.execRemu g d a b s
  | .remuImm g d a imm => Sys2Proof.Machine.execRemuImm g d a imm s
  | .min g d a b => Sys2Proof.Machine.execMin g d a b s
  | .minImm g d a imm => Sys2Proof.Machine.execMinImm g d a imm s
  | .max g d a b => Sys2Proof.Machine.execMax g d a b s
  | .maxImm g d a imm => Sys2Proof.Machine.execMaxImm g d a imm s
  | .minu g d a b => Sys2Proof.Machine.execMinu g d a b s
  | .minuImm g d a imm => Sys2Proof.Machine.execMinuImm g d a imm s
  | .maxu g d a b => Sys2Proof.Machine.execMaxu g d a b s
  | .maxuImm g d a imm => Sys2Proof.Machine.execMaxuImm g d a imm s
  | .clz g d a => Sys2Proof.Machine.execClz g d a s
  | .ctz g d a => Sys2Proof.Machine.execCtz g d a s
  | .popc g d a => Sys2Proof.Machine.execPopc g d a s
  | .mov g d a => Sys2Proof.Machine.execMov g d a s
  | .sext g d a n => Sys2Proof.Machine.execSext g d a n s
  | .zext g d a n => Sys2Proof.Machine.execZext g d a n s
  | .lea g d a b scale disp => Sys2Proof.Machine.execLea g d a b scale disp s
  | .lit g d pair ix => Sys2Proof.Machine.execLit g d pair ix s
  | .cmp g cc pd pe a b => Sys2Proof.Machine.execCmp g cc pd pe a b s
  | .cmpLit g cc pd pe a pair ix => Sys2Proof.Machine.execCmpLit g cc pd pe a pair ix s
  | .pand g pd pa pb => Sys2Proof.Machine.execPand g pd pa pb s
  | .por g pd pa pb => Sys2Proof.Machine.execPor g pd pa pb s
  | .pxor g pd pa pb => Sys2Proof.Machine.execPxor g pd pa pb s
  | .pandn g pd pa pb => Sys2Proof.Machine.execPandn g pd pa pb s
  | .pfroms g pd a => Sys2Proof.Machine.execPfroms g pd a s
  | .ptos g d pa => Sys2Proof.Machine.execPtos g d pa s
  | .pcnt g d pa => Sys2Proof.Machine.execPcnt g d pa s
  | .pfirst g d pa => Sys2Proof.Machine.execPfirst g d pa s
  | .br g off => Sys2Proof.Machine.execBr g off s
  | .bri g a => Sys2Proof.Machine.execBri g a s
  | .call g off => Sys2Proof.Machine.execCall g off s
  | .calli g d a => Sys2Proof.Machine.execCalli g d a s
  | .ret g a => Sys2Proof.Machine.execRet g a s
  | .loop g lvl a span => Sys2Proof.Machine.execLoop g lvl a span s
  | .loopx g lvl => Sys2Proof.Machine.execLoopx g lvl s
  | .mfsr g d n => Sys2Proof.Machine.execMfsr g d n s
  | .mtsr g a n => Sys2Proof.Machine.execMtsr g a n s
  | .pswWrite g a => Sys2Proof.Machine.execPswWrite g a s
  | .promoteWrite g a => Sys2Proof.Machine.execPromoteWrite g a s
  | .droopthWrite g a => Sys2Proof.Machine.execDroopthWrite g a s
  | .droopstWrite g a => Sys2Proof.Machine.execDroopstWrite g a s
  | .barvalWrite g a => Sys2Proof.Machine.execBarvalWrite g a s
  | .trap g code => Sys2Proof.Machine.execTrap g code s
  | .dhop g d a b => Sys2Proof.Machine.execDhop g d a b s
  | .vadd t o => Sys2Proof.Machine.execVadd t o s
  | .vsub t o => Sys2Proof.Machine.execVsub t o s
  | .vmul t o => Sys2Proof.Machine.execVmul t o s
  | .vfma t o => Sys2Proof.Machine.execVfma t o s
  | .vfms t o => Sys2Proof.Machine.execVfms t o s
  | .vfnma t o => Sys2Proof.Machine.execVfnma t o s
  | .vmin t o => Sys2Proof.Machine.execVmin t o s
  | .vmax t o => Sys2Proof.Machine.execVmax t o s
  | .vabs t o => Sys2Proof.Machine.execVabs t o s
  | .vneg t o => Sys2Proof.Machine.execVneg t o s
  | .vcpys t o => Sys2Proof.Machine.execVcpys t o s
  | .vclamp t o => Sys2Proof.Machine.execVclamp t o s
  | .vrnd t o => Sys2Proof.Machine.execVrnd t o s
  | .vsqrt o => Sys2Proof.Machine.execVsqrt o s
  | .vrcp o => Sys2Proof.Machine.execVrcp o s
  | .vrsq o => Sys2Proof.Machine.execVrsq o s
  | .vexp2 o => Sys2Proof.Machine.execVexp2 o s
  | .vlog2 o => Sys2Proof.Machine.execVlog2 o s
  | .vsig o => Sys2Proof.Machine.execVsig o s
  | .vtanh o => Sys2Proof.Machine.execVtanh o s
  | .viadd t o => Sys2Proof.Machine.execViadd t o s
  | .visub t o => Sys2Proof.Machine.execVisub t o s
  | .vimul t o => Sys2Proof.Machine.execVimul t o s
  | .vimulh t o => Sys2Proof.Machine.execVimulh t o s
  | .vimad t o => Sys2Proof.Machine.execVimad t o s
  | .vimin t o => Sys2Proof.Machine.execVimin t o s
  | .vimax t o => Sys2Proof.Machine.execVimax t o s
  | .viabs t o => Sys2Proof.Machine.execViabs t o s
  | .vshl t o => Sys2Proof.Machine.execVshl t o s
  | .vshr t o => Sys2Proof.Machine.execVshr t o s
  | .vsra t o => Sys2Proof.Machine.execVsra t o s
  | .vand o => Sys2Proof.Machine.execVand o s
  | .vor o => Sys2Proof.Machine.execVor o s
  | .vxor o => Sys2Proof.Machine.execVxor o s
  | .vcmp t cc o => Sys2Proof.Machine.execVcmp t cc o s
  | .vicmp t cc o => Sys2Proof.Machine.execVicmp t cc o s
  | .vsel o => Sys2Proof.Machine.execVsel o s
  | .vcvt src dst o => Sys2Proof.Machine.execVcvt src dst o s
  | .vpkbx t o => Sys2Proof.Machine.execVpkbx t o s
  | .vupbx t o => Sys2Proof.Machine.execVupbx t o s
  | .vredAdd t o => Sys2Proof.Machine.execVredAdd t o s
  | .vredMin t o => Sys2Proof.Machine.execVredMin t o s
  | .vredMax t o => Sys2Proof.Machine.execVredMax t o s
  | .vperm o => Sys2Proof.Machine.execVperm o s
  | .vbcast o lane => Sys2Proof.Machine.execVbcast o lane s
  | .vslide o n => Sys2Proof.Machine.execVslide o n s
  | .vmovs g vd a lane => Sys2Proof.Machine.execVmovs g vd a lane s
  | .vext g d a lane => Sys2Proof.Machine.execVext g d a lane s
  | .vmov o => Sys2Proof.Machine.execVmov o s
  | .vlit g vd ix => Sys2Proof.Machine.execVlit g vd ix s
  | .vrdacc g vd bank row => Sys2Proof.Machine.execVrdacc g vd bank row s
  | .vwracc g bank row a => Sys2Proof.Machine.execVwracc g bank row a s
  | .vpop g vd q => Sys2Proof.Machine.execVpop g vd q s
  | .mma g strm tda tdb acc k => Sys2Proof.Machine.execMma g strm tda tdb acc k s
  | .mmaz g strm tda tdb acc k => Sys2Proof.Machine.execMmaz g strm tda tdb acc k s
  | .rmin g tdd tda k => Sys2Proof.Machine.execRmin g tdd tda k s
  | .rmax g tdd tda k => Sys2Proof.Machine.execRmax g tdd tda k s
  | .rsort g tdd tda k => Sys2Proof.Machine.execRsort g tdd tda k s
  | .rtopk g tdd tda k1 k => Sys2Proof.Machine.execRtopk g tdd tda k1 k s
  | .wload g tdb k => Sys2Proof.Machine.execWload g tdb k s
  | .wswap g k => Sys2Proof.Machine.execWswap g k s
  | .tepi g tdd bias fn sat tdb acc k => Sys2Proof.Machine.execTepi g tdd bias fn sat tdb acc k s
  | .tew g tdd tda tdb op k => Sys2Proof.Machine.execTew g tdd tda tdb op k s
  | .tdrain g q row n1 acc k => Sys2Proof.Machine.execTdrain g q row n1 acc k s
  | .force g tdd mode acc => Sys2Proof.Machine.execForce g tdd mode acc s
  | .tstore g tdd tda bank rm sat acc k => Sys2Proof.Machine.execTstore g tdd tda bank rm sat acc k s
  | .tdrop g all kin0 => Sys2Proof.Machine.execTdrop g all kin0 s
  | .tdld g tdd base off => Sys2Proof.Machine.execTdld g tdd base off s
  | .acz g acc => Sys2Proof.Machine.execAcz g acc s
  | .scribe g => Sys2Proof.Machine.execScribe g s
  | .ldB m => Sys2Proof.Machine.execLdB m s
  | .ldBu m => Sys2Proof.Machine.execLdBu m s
  | .ldH m => Sys2Proof.Machine.execLdH m s
  | .ldHu m => Sys2Proof.Machine.execLdHu m s
  | .ldW m => Sys2Proof.Machine.execLdW m s
  | .ldWu m => Sys2Proof.Machine.execLdWu m s
  | .ldD m => Sys2Proof.Machine.execLdD m s
  | .vld m => Sys2Proof.Machine.execVld m s
  | .vldb m => Sys2Proof.Machine.execVldb m s
  | .vgath m => Sys2Proof.Machine.execVgath m s
  | .ldlW m => Sys2Proof.Machine.execLdlW m s
  | .ldlD m => Sys2Proof.Machine.execLdlD m s
  | .ldacqW m => Sys2Proof.Machine.execLdacqW m s
  | .ldacqD m => Sys2Proof.Machine.execLdacqD m s
  | .pld m => Sys2Proof.Machine.execPld m s
  | .stB m => Sys2Proof.Machine.execStB m s
  | .stH m => Sys2Proof.Machine.execStH m s
  | .stW m => Sys2Proof.Machine.execStW m s
  | .stD m => Sys2Proof.Machine.execStD m s
  | .vst m => Sys2Proof.Machine.execVst m s
  | .vscat m => Sys2Proof.Machine.execVscat m s
  | .stuW m => Sys2Proof.Machine.execStuW m s
  | .stuD m => Sys2Proof.Machine.execStuD m s
  | .strelW m => Sys2Proof.Machine.execStrelW m s
  | .strelD m => Sys2Proof.Machine.execStrelD m s
  | .aaddW m => Sys2Proof.Machine.execAaddW m s
  | .aaddD m => Sys2Proof.Machine.execAaddD m s
  | .aminW m => Sys2Proof.Machine.execAminW m s
  | .aminD m => Sys2Proof.Machine.execAminD m s
  | .amaxW m => Sys2Proof.Machine.execAmaxW m s
  | .amaxD m => Sys2Proof.Machine.execAmaxD m s
  | .axchW m => Sys2Proof.Machine.execAxchW m s
  | .axchD m => Sys2Proof.Machine.execAxchD m s
  | .acasW m => Sys2Proof.Machine.execAcasW m s
  | .acasD m => Sys2Proof.Machine.execAcasD m s
  | .stq m => Sys2Proof.Machine.execStq m s
  | .pst m => Sys2Proof.Machine.execPst m s
  | .cpy c => Sys2Proof.Machine.execCpy c s
  | .cpyil c => Sys2Proof.Machine.execCpyil c s
  | .cgath c => Sys2Proof.Machine.execCgath c s
  | .tmv c => Sys2Proof.Machine.execTmv c s
  | .ccoll c => Sys2Proof.Machine.execCcoll c s
  | .cflush c => Sys2Proof.Machine.execCflush c s
  | .cpq c => Sys2Proof.Machine.execCpq c s
  | .cpre c => Sys2Proof.Machine.execCpre c s
  | .wait g wl ws wc wt => Sys2Proof.Machine.execWait g wl ws wc wt s
  | .waitk g k => Sys2Proof.Machine.execWaitk g k s
  | .waitdc g n d => Sys2Proof.Machine.execWaitdc g n d s
  | .drain g scope => Sys2Proof.Machine.execDrain g scope s
  | .bara g b => Sys2Proof.Machine.execBara g b s
  | .barw g b => Sys2Proof.Machine.execBarw g b s
  | .bart g b p => Sys2Proof.Machine.execBart g b p s
  | .snap g d => Sys2Proof.Machine.execSnap g d s
  | .gview g d a => Sys2Proof.Machine.execGview g d a s
  | .spawn g d a b => Sys2Proof.Machine.execSpawn g d a b s
  | .grow g d a => Sys2Proof.Machine.execGrow g d a s
  | .suspend g => Sys2Proof.Machine.execSuspend g s
  | .exit g => Sys2Proof.Machine.execExit g s
  | .yield g => Sys2Proof.Machine.execYield g s
  | .qacq q => Sys2Proof.Machine.execQacq q s
  | .qcommit q => Sys2Proof.Machine.execQcommit q s
  | .qpeek q => Sys2Proof.Machine.execQpeek q s
  | .qrel q => Sys2Proof.Machine.execQrel q s
  | .eret g => Sys2Proof.Machine.execEret g s
  | .dcset g n a => Sys2Proof.Machine.execDcset g n a s
  | .timer g d a b => Sys2Proof.Machine.execTimer g d a b s
  | .brkpt g => Sys2Proof.Machine.execBrkpt g s
  | .dispatchIndex grid rec => Sys2Proof.Machine.execDispatchIndex grid rec s
  | .bind k => Sys2Proof.Machine.execBind k s
  | .resume k => Sys2Proof.Machine.execResume k s
  | .dispatcherAccept k rec => Sys2Proof.Machine.execDispatcherAccept k rec s
  | .contextUnblock k => Sys2Proof.Machine.execContextUnblock k s
  | .rendezvous k => Sys2Proof.Machine.execRendezvous k s
  | .prefetchBlock k => Sys2Proof.Machine.execPrefetchBlock k s
  | .fetchRedirect k => Sys2Proof.Machine.execFetchRedirect k s
  | .engineAccept k eng => Sys2Proof.Machine.execEngineAccept k eng s
  | .resultLands k => Sys2Proof.Machine.execResultLands k s
  | .loadRetire k => Sys2Proof.Machine.execLoadRetire k s
  | .storePerform k => Sys2Proof.Machine.execStorePerform k s
  | .lockGrant lock => Sys2Proof.Machine.execLockGrant lock s
  | .lockTimeout lock => Sys2Proof.Machine.execLockTimeout lock s
  | .ldlGrantTimeout k => Sys2Proof.Machine.execLdlGrantTimeout k s
  | .stepTrap k => Sys2Proof.Machine.execStepTrap k s
  | .preemptSave k => Sys2Proof.Machine.execPreemptSave k s
  | .copyStart id => Sys2Proof.Machine.execCopyStart id s
  | .copyPiece id good ecc => Sys2Proof.Machine.execCopyPiece id good ecc s
  | .copyComplete id => Sys2Proof.Machine.execCopyComplete id s
  | .landingRelease id => Sys2Proof.Machine.execLandingRelease id s
  | .kerfPass k good => Sys2Proof.Machine.execKerfPass k good s
  | .racePass k good => Sys2Proof.Machine.execRacePass k good s
  | .nodeRun k => Sys2Proof.Machine.execNodeRun k s
  | .nodeRetire k => Sys2Proof.Machine.execNodeRetire k s
  | .scribeComplete core codes gain temp => Sys2Proof.Machine.execScribeComplete core codes gain temp s
  | .timerExpiry cl slot => Sys2Proof.Machine.execTimerExpiry cl slot s
  | .cutDone die => Sys2Proof.Machine.execCutDone die s
  | .heldWriteRelease die => Sys2Proof.Machine.execHeldWriteRelease die s
  | .scarfDrain die => Sys2Proof.Machine.execScarfDrain die s
  | .overflowRefill r => Sys2Proof.Machine.execOverflowRefill r s
  | .arithmeticClockCycle clusters => Sys2Proof.Machine.execArithmeticClockCycle clusters s
  | .dispatchGang grid recs => Sys2Proof.Machine.execDispatchGang grid recs s
  | .coldReset good reserveGiB => Sys2Proof.Machine.execColdReset good reserveGiB s
  | .warmReset good => Sys2Proof.Machine.execWarmReset good s
  | .launchGrid port queue rcbVa lrec => Sys2Proof.Machine.execLaunchGrid port queue rcbVa lrec s
  | .dropSnapshot port queue => Sys2Proof.Machine.execDropSnapshot port queue s
  | .ueccConsumed k => Sys2Proof.Machine.execUeccConsumed k s
  | .sigmis k => Sys2Proof.Machine.execSigmis k s
  | .preemptRequest k frame => Sys2Proof.Machine.execPreemptRequest k frame s
  | .preemptBoundExpiry k => Sys2Proof.Machine.execPreemptBoundExpiry k s
  | .kerfFirmwareWrite core reg value => Sys2Proof.Machine.execKerfFirmwareWrite core reg value s
  | .droopAlarm cl depth => Sys2Proof.Machine.execDroopAlarm cl depth s
  | .powerGrant exceeded => Sys2Proof.Machine.execPowerGrant exceeded s
  | .genfull r => Sys2Proof.Machine.execGenfull r s
  | .spillfull r slots => Sys2Proof.Machine.execSpillfull r slots s
  | .pageMigration r v off frame place => Sys2Proof.Machine.execPageMigration r v off frame place s
  | .hostWrite port space off bytes => Sys2Proof.Machine.execHostWrite port space off bytes s
  | .creditReturn link vc freed => Sys2Proof.Machine.execCreditReturn link vc freed s
  | .creditAudit link vc sent => Sys2Proof.Machine.execCreditAudit link vc sent s
  | .selectiveRepeat die fec => Sys2Proof.Machine.execSelectiveRepeat die fec s
  | .linkRetrain link good => Sys2Proof.Machine.execLinkRetrain link good s
  | .linkDown link => Sys2Proof.Machine.execLinkDown link s
  | .hostPortReset port => Sys2Proof.Machine.execHostPortReset port s
  | .hostLinkUp port => Sys2Proof.Machine.execHostLinkUp port s
  | .attestationReport port => Sys2Proof.Machine.execAttestationReport port s
  | .mailboxIgnored port => Sys2Proof.Machine.execMailboxIgnored port s
  | .ageoscRefresh die count eol => Sys2Proof.Machine.execAgeoscRefresh die count eol s
  | .pageAllocation r v off big frame place write pin t1 t2 => Sys2Proof.Machine.execPageAllocation r v off big frame place write pin t1 t2 s
  | .cxlPortLinkDown die p => Sys2Proof.Machine.execCxlPortLinkDown die p s
  | .collectiveStep id good others => Sys2Proof.Machine.execCollectiveStep id good others s
  | .cut => Sys2Proof.Machine.execCut s
  | .open_ => Sys2Proof.Machine.execOpen s
  | .writeCompletion => Sys2Proof.Machine.execWriteCompletion s
  | .packageTimebaseTick => Sys2Proof.Machine.execPackageTimebaseTick s
  | .stretchEnd cl => Sys2Proof.Machine.execStretchEnd cl s
  | .halfIssueEnd cl => Sys2Proof.Machine.execHalfIssueEnd cl s
  | .agingStep ix => Sys2Proof.Machine.execAgingStep ix s
  | .landingLateFault k => Sys2Proof.Machine.execLandingLateFault k s

end Sys2Proof.Machine
end

