-- ==== Sys2Proof/Machine/Schedule.lean ====
section
/-!
DEFINITION. What happens next when the agenda is empty (02_execution R37 to R39, R44, R45; 03_bundles R63, R64, R82; 19_events R392, R393): the
internal event, the slot or the clock that the next step runs. The order among moves that the spec leaves open is the model's choice (log entry 5); what physics or
another package decides (a reference chain, a transport, a calibration code) is a free value.
-/
namespace Sys2Proof.Machine

/-- What the next step is: an instruction or event to run, or a state that an event, a fetch fault or a decoding fault leads to. -/
inductive Move where
  | run (i : Instr) (s : State)
  | to (s : State)
  | ends (r : Res)

/-! ### Slots and issue -/

/-- The slot in progress of context `k` (03 R63): decoded, or the ILL it raises. -/
def State.slotMove (s : State) (k : Nat) : Option Move :=
  match (s.ctx k).run with
  | none => none
  | some r =>
    match r.xb.instr r.slot with
    | .ok i => some (.run i { s with cur := k })
    | .error _ => some (.to ({ s with cur := k }.raise k (precise cILL (r.xb.word r.slot)) r.slot))

/-- Context `k`'s core and cluster issue no bundle in this cycle: one bundle a cycle, the halved issue of the droop response (20 R415), the limit of the power
arbiter, which the model takes as no issue in every fourth cycle (20 R414), a buffer that is exhausted (03 R65), or a context that has just become the
running one (02 R38). -/
def State.noIssue (s : State) (k : Nat) : Bool :=
  let cl := s.cluster (clusterOf k)
  (s.core (coreOf k)).issuedAt == some cl.cycle
    || (match cl.droop with | .half n => (cl.cycle - n) % 2 == 1 | _ => false)
    || (s.limitedNow (socketOf k) && cl.cycle % 4 == 3)
    || (s.ctx k).exhausted cl.cycle || cl.cycle < (s.ctx k).issueAt

/-- The next bundle of context `k`: fetched, or issued with its first slot (02 R44, R45; 03 R63; 19 R392, R393, R398). -/
def State.issueMove (s : State) (k : Nat) : Option Move :=
  let c := s.ctx k
  match c.locate with
  | .absent => none
  | .defect ready code fa epc =>
    if s.cyc k < ready then none else some (.to (({ s with cur := k }.modCtx k fun c => { c with pc := epc }).raise k ⟨code, fa, 0, false⟩ 0))
  | .at_ site b x =>
    if s.cyc k < b.readyAt x then none
    else match x.defect.or (x.pastEnd c.mapped) with
    | some t => some (.to ({ s with cur := k }.raise k t 0))
    | none =>
      if c.prot && !c.inStep && x.rdv && !c.met then some (.run (.rendezvous k) s)
      else if x.segBit && rpSlot c.pc == 0 && c.mustCommit && !c.reenters then some (.to (s.startCommit k))
      else if s.lateNext k then none
      else (s.issue k site b x).slotMove k

/-- What context `k` does next, if it can do anything now (19 R392): a held DRAIN or BARA whose turn has come acts where its slot would, so that the arrivals of a cycle come
in the order of the cores (18 R379). -/
def State.attempt (s : State) (k : Nat) : Option Move :=
  let c := s.ctx k
  if s.engineReady k 0 then some (.run (.engineAccept k 0) s)
  else if c.status ≠ .running ∨ !s.waitOver k then none
  else if c.run.isSome then s.slotMove k
  else if c.committing then none
  else if c.ending then some (.run (.exit 0) { s with cur := k })
  else if c.stepDue then some (.run (.stepTrap k) s)
  else if c.atBoundary ∨ s.noIssue k then none
  else s.issueMove k

/-- The first answer of a list of tries. -/
def firstOf {α β : Type} (f : α → Option β) : List α → Option β
  | [] => none
  | a :: r => match f a with | some b => some b | none => firstOf f r

/-! ### Internal events -/

/-- A free bit for what physics decides. -/
def State.chance (s : State) (i : Nat) : Bool := s.freeBits.getLsbD i

/-- A result of context `k` lands, or a load retires (03 R64, 13 R257). -/
def State.landMove (s : State) (k : Nat) : Option Move :=
  let c := s.ctx k
  if (landable (s.cyc k) (fun f => f.ctr == .ldc) [] c.flights).isSome then some (.run (.loadRetire k) s)
  else if (landable (s.cyc k) (fun f => f.ctr != .ldc) [] c.flights).isSome then some (.run (.resultLands k) s)
  else none

/-- An engine of context `k`'s core accepts, or its oldest store performs (03 R65, 13 R257). -/
def State.engineMove (s : State) (k : Nat) : Option Move :=
  match [1, 2, 3, 4, 5, 6].find? fun e => s.engineReady k e && !(e == 6 && s.grantsLast k) with
  | some e => some (.run (.engineAccept k (BitVec.ofNat 3 e)) s)
  | none => if s.storeReady k then some (.run (.storePerform k) s) else none

/-- A copy command queue grants a command, once the slots of the cycle have run (14 R301). -/
def State.grantMove (s : State) : Option Move :=
  firstOf (fun (e : Nat × Ctx) => if s.engineReady e.1 6 then some (.run (.engineAccept e.1 6) s) else none) s.ctxs

/-- The demands of context `k` run a node, once the run has taken its time, or retire one (16 R330, R331; 17 R350). -/
def State.demandMove (s : State) (k : Nat) : Option Move :=
  if (s.ctx k).goals.isEmpty && (s.ctx k).landGoals.isEmpty && (s.running k false).isNone && (s.running k true).isNone then none
  else if (s.nextAction k).1.leaves then some (.run (.nodeRetire k) s)
  else firstOf (fun race =>
    match s.runnable k race with
    | some (n, t, _, _) =>
      if !s.runDue k n t then none
      else some (if n.isMma then .run (.kerfPass k (s.chance 0)) s.bumpFree else if n.isRace then .run (.racePass k (s.chance 0)) s.bumpFree
        else .run (.nodeRun k) s)
    | none => none) [false, true]

/-- The first free record of a cluster's pool (15 R317). -/
def State.freeRecord (s : State) (cl : Nat) : Option (BitVec 32) :=
  firstOf (fun i => let rec_ := BitVec.ofNat 32 (s.poolBase + 64 * i); if s.recFree cl rec_ then some rec_ else none) (List.range (s.poolKib * 16))

/-- The dispatcher accepts the SPAWN or GROW of context `k` (15 R319). -/
def State.acceptMove (s : State) (k : Nat) : Option Move :=
  if (s.ctx k).wait ≠ .accept then none
  else
    let rec_ := (s.freeRecord (clusterOf k)).getD 0
    let s1 := s.dispatcherAccept k rec_
    if (s1.ctx k).wait = .accept then none else some (.run (.dispatcherAccept k rec_) s)

/-- Fetch, the selector, a landing's late fault, the pre-emption bound and the save of context `k`. -/
def State.contextMove (s : State) (k : Nat) : Option Move :=
  let c := s.ctx k
  if c.status = .free then none
  else if s.landFaultDue k then some (.to (s.landingLateFault k))
  else if c.committing ∧ c.held.isEmpty ∧ c.commitAt ≤ s.cyc k then some (.to (s.commitDone k))
  else if c.seg.isSome ∧ !c.committing ∧ !c.held.isEmpty ∧ s.needsHeld k then some (.to (s.commitNeeded k))
  else if c.status = .blocked ∧ s.waitOver k then some (.run (.contextUnblock k) s)
  else if c.status = .ready ∧ s.selects (coreOf k) then some (.run (.contextUnblock k) s)
  else if c.atBoundary ∧ ((c.seg.isSome ∧ !c.committing) ∨ (s.quiet k ∧ s.canReady (s.savedEntry k))) then
    some (.run (.preemptSave k) s)
  else if s.boundPassed k ∧ !(s.region c.region).root then
    some (.to (s.preemptBound k))
  else
    if c.wantsAhead.isSome then some (.run (.prefetchBlock k) s)
    else if c.run.isNone ∧ !c.committing ∧ !c.ending ∧ !c.stepDue ∧ !c.atBoundary ∧ c.wait ≠ .follower ∧ c.locate.isAbsent then some (.run (.fetchRedirect k) s)
    else none

/-- An event of context `k`. -/
def State.eventOf (s : State) (k : Nat) : Option Move :=
  match s.landMove k with
  | some m => some m
  | none =>
    match s.engineMove k with
    | some m => some m
    | none =>
      match s.demandMove k with
      | some m => some m
      | none => match s.acceptMove k with | some m => some m | none => s.contextMove k

/-- A lock becomes free or is granted; an LDL gives up (13 R267, R268). -/
def State.lockMove (s : State) : Option Move :=
  match s.lockReqs.find? fun (l : LockReq) => l.ldl.isSome && l.first + 256 ≤ s.cyc l.k with
  | some l => some (.run (.ldlGrantTimeout l.k) s)
  | none =>
    match s.locks.find? fun e => s.lockDue e.2 with
    | some e => some (.run (.lockTimeout e.1) s)
    | none =>
      firstOf (fun (l : LockReq) =>
        match s.lockReqs.find? fun (x : LockReq) => x.lock == l.lock with
        | some x => if !x.ring ∧ s.lockOpen x.lock x.k then some (.run (.lockGrant x.lock) s) else none
        | none => none) s.lockReqs

/-- A command starts, performs its next piece or step, or completes (13 R272 to R280; 14 R302). -/
def State.cmdMove (s : State) (m : Cmd) : Option Move :=
  if s.canStart m then some (.run (.copyStart m.id) s)
  else if s.piecesDone m then
    (if !m.desc.dcen || (s.countDown (clusterOf m.k) m.desc.dc false).isSome then some (.run (.copyComplete m.id) s) else none)
  else if !m.started || m.total ≤ m.next then none
  else if m.waitLanding then
    let s1 := s.landingRelease m.id
    if s1 = s then none else some (.run (.landingRelease m.id) s)
  else if m.kind = .ccoll then
    let s0 := if s.chance 1 then { s with badReads := [m.id] } else s
    match s0.collectiveStep m.id (s.chance 0) [] with
    | none => some (.ends (.fault .noSuchMemory))
    | some s1 => if s1 = s0 then none else some (.to s1.bumpFree)
  else if s.copyPiece m.id (s.chance 0) (s.chance 1) = some s then none
  else some (.run (.copyPiece m.id (s.chance 0) (s.chance 1)) s.bumpFree)

/-- A calibration that has run for 40,960 ns ends (07 R149). -/
def State.scribeMove (s : State) (e : Nat × Core) : Option Move :=
  match e.2.scribe with
  | some (_, t) =>
    if t + 40960 ≤ s.time then
      some (.run (.scribeComplete e.1 ((List.range 64).map fun n => s.freeBits.extractLsb' (7 * n) 7) (s.freeBits.extractLsb' 448 16)
        (s.freeBits.extractLsb' 464 8)) s.bumpFree)
    else none
  | none => none

/-- A timer expires (18 R382), or a phase of the droop response ends (20 R415). -/
def State.clusterMove (s : State) (e : Nat × Cluster) : Option Move :=
  match e.2.timers.find? fun t => t.2.expiry ≤ s.time && (s.countDown e.1 t.2.dc false).isSome with
  | some t => some (.run (.timerExpiry (BitVec.ofNat 5 e.1) (BitVec.ofNat 6 t.1)) s)
  | none =>
    match e.2.droop with
    | .stretch n => if n + 6 ≤ e.2.cycle then some (.to (s.modCluster e.1 Cluster.endStretch)) else none
    | .half n => if n + 64 ≤ e.2.cycle then some (.to (s.modCluster e.1 Cluster.endHalf)) else none
    | .off => none

/-- The dispatcher issues an index or a gang of a grid (02 R28, R29). The others of a cluster's pool are chosen in ascending order. -/
def State.gridMove (s : State) (e : Nat × Grid) : Option Move :=
  let g := e.2
  if !g.live ∨ g.groups ≤ g.issued then none
  else if g.mapped then
    match g.turns.find? fun t => s.gangRoom g t.2 with
    | some (_, cl) =>
      let recs := (((List.range (s.poolKib * 16)).map fun i => BitVec.ofNat 32 (s.poolBase + 64 * i)).filter (s.recFree cl)).take 96
      if recs.length = 96 ∧ g.issued + 96 ≤ g.groups then some (.to (s.dispatchGang e.1 recs)) else none
    | none => none
  else
    match g.turns.find? fun t => s.queueRoom t.2 (s.gridPrio g) 1 with
    | some (_, cl) => (s.freeRecord cl).map fun rec_ => .run (.dispatchIndex e.1 rec_) s
    | none => none

/-- A free context of the cluster of a ready continuation binds (02 R40, 19 R401). -/
def State.bindMove (s : State) (e : Ready) : Option Move :=
  firstOf (fun i =>
    let k := 384 * e.cluster + i
    (s.nextBinding k).map fun b => if b.1.saved then .run (.resume k) s else .run (.bind k) s) (List.range 384)

/-- A continuation ages, in its ready queue or in its overflow ring (02 R41). -/
def State.agingMove (s : State) : Option Move :=
  let ringed := s.regions.any fun e => e.2.ring.any s.ages
  if !ringed && !s.ready.any s.ages then none
  else firstOf (fun i =>
    let s1 := s.agingStep i
    if s1 = s then none else some (.to s1)) (List.range (s.ready.length + (s.regions.map fun e => e.2.ring.length).sum))

/-- A ring refills a queue (14 R304), or held writes have outlasted their region's budget (11 R228): firmware receives GENFULL once for them, and again where its
policy has something left to do. -/
def State.regionMove (s : State) (e : Nat × Region) : Option Move :=
  if !e.2.live then none
  else if s.holdsWrites e.1 && decide (1000 * e.2.rcb.stall < e.2.genWait) then
    let s1 := s.genfull e.1
    let moved := !e.2.genTold || s1.live != s.live || s1.gencur != s.gencur || !(s1.region e.1).live
    if moved then some (.to s1) else none
  else match e.2.ring with
    | [] => none
    | x :: _ => if s.refills x then some (.run (.overflowRefill e.1) s) else none

/-- The cut, held writes and the reserve (11 R221, R228). -/
def State.generationMove (s : State) : Option Move :=
  match s.cut with
  | some c =>
    if !c.sent then (if s.mayBroadcast then some (.to s.sendCut) else none)
    else if c.complete then (if s.mayBroadcast then some (.to s.openCut) else none)
    else firstOf (fun d =>
      if !c.done.getLsbD d && s.controlOpen d 0 && !s.heldWrites.any (fun (h : HeldWrite) => !h.forCut && h.die == d) then some (.run (.cutDone (BitVec.ofNat 4 d)) s) else none)
      ownerDies
  | none => none

/-- A held write proceeds (11 R228). -/
def State.heldMove (s : State) : Option Move :=
  if s.heldWrites.isEmpty then none
  else firstOf (fun d =>
    match s.heldAt d with
    | some h =>
      if s.needsVersion (granuleOf (h.cells.headD (0, 0)).1) && !s.versionRoom (granuleOf (h.cells.headD (0, 0)).1) then none else some (.run (.heldWriteRelease (BitVec.ofNat 4 d)) s)
    | none => none) ownerDies

/-- Scarf moves a version (11 R227), while the snapshot store has room. -/
def State.scarfMove (s : State) : Option Move :=
  if s.versions.isEmpty || !s.storeRoom then none
  else firstOf (fun d => if (s.scarfNext d).isSome then some (.run (.scarfDrain (BitVec.ofNat 4 d)) s) else none) Config.memorySockets

/-- The credits of a link end come back, or its channel is audited after its idle time (18 R384). -/
def State.creditMove (s : State) (e : Nat × Credit) : Option Move :=
  let link := e.1 / 4
  let vc := e.1 % 4
  let peer := peerEnd link
  if s.endsCut link || s.endsRetrain link then none
  else if s.creditDue link vc then some (.to (s.creditReturn link vc (s.credit peer vc).freed))
  else if s.auditDue link vc then some (.to (s.creditAudit peer vc e.2.sent))
  else none

/-- The power arbiter grants (20 R414), which dies exceeded their grants being a measurement; an ageing oscillator's count is refreshed (18 R385), EOL being
firmware's to write. -/
def State.dieMove (s : State) : Option Move :=
  if s.time % 2000 = 0 ∧ s.grantAt ≠ s.time then some (.to (s.bumpFree.powerGrant (s.freeBits.setWidth 16)))
  else if s.time < 1000000 then none
  else firstOf (fun d =>
    if s.populated.getLsbD d && s.oscDue d then some (.to (s.bumpFree.ageosc d (s.freeBits.setWidth 64) (s.die d).eol))
    else none) (List.range 16)

/-- Firmware's moves that leave it no choice: drops (14 R288), mailbox commands (20 R418), a link that stays down (20 R407). -/
def State.firmwareMove (s : State) : Option Move :=
  match s.retrains.find? fun e => 3 ≤ e.2 && !s.linksDown.getLsbD e.1 with
  | some e => some (.to (s.linkDown e.1))
  | none =>
    firstOf (fun p =>
      let x := s.port p
      if x.pending && x.cmd == 1 then some (.to (s.attest p))
      else if x.pending && x.cmd != 2 then some (.to (s.ignoreCmd p))
      else firstOf (fun q =>
        match s.nextLaunch p q with
        | some l => if bits l.op 0 8 = 2 then some (.to (s.dropSnapshot p q)) else none
        | none => none) (List.range 16)) [0, 1]

/-- The internal events, in the model's order. -/
def State.internalMoves : List (State → Option Move) :=
  [fun s => s.fwNext.map .to, fun s => firstOf s.creditMove (if s.time < 2048 then s.credits else s.channels),
    fun s => firstOf (fun (e : Nat × Ctx) => s.eventOf e.1) s.ctxs, State.lockMove,
    fun s => firstOf s.cmdMove s.cmds, fun s => firstOf s.scribeMove s.cores,
    fun s => firstOf s.clusterMove s.clusters, State.generationMove, State.heldMove,
    fun s => if s.ended.isEmpty then none else some (.to s.writeCompletion), fun s => firstOf s.regionMove s.regions,
    fun s => firstOf s.gridMove s.grids, fun s => firstOf s.bindMove s.ready, State.agingMove, State.dieMove,
    State.firmwareMove]

/-! ### The next move -/

/-- Time passes (01 R21, 18 R381): the cycles that end first, where they end before the timebase's next tick, or that tick, so that what runs in a cycle reads the TIME of
the instant at which it begins. -/
def State.clockMove (s : State) : Instr :=
  let due := s.presentClusters.filter fun cl => s.cycleEnd cl < 5 * (s.time + 1)
  let first := due.filter fun cl => due.all fun x => s.cycleEnd cl ≤ s.cycleEnd x
  if due.isEmpty then .packageTimebaseTick
  else .arithmeticClockCycle (BitVec.ofNat 32 (first.foldl (fun a cl => a + 2 ^ cl) 0))

/-- The contexts in the order in which their slots run: the one whose bundle has issued in this cycle first, then in ascending order (18 R379). -/
def State.slotOrder (s : State) : List Nat :=
  let ks := s.ctxs.map fun e => e.1
  if (s.ctx s.cur).run.any fun r => r.issued == s.cyc s.cur then s.cur :: ks else ks

/-- The next move when the agenda is empty: an internal event, a slot, a grant of a copy command queue, a version that Scarf moves, or time. -/
def State.pick (s : State) : Move :=
  match firstOf (fun (f : State → Option Move) => f s) State.internalMoves with
  | some m => m
  | none =>
    match firstOf s.attempt s.slotOrder with
    | some m => m
    | none =>
    match s.grantMove with
    | some m => m
    | none => match s.scarfMove with | some m => m | none => .run s.clockMove s

end Sys2Proof.Machine
end

