-- ==== Sys2Proof/Machine/Place.lean ====
section
/-!
DEFINITION. A context bound by hand, with one slot's word as its next bundle: what `State.withFetchWord` places (log entry 9).
-/
namespace Sys2Proof.Machine

/-- The slot of the row's width, coded as in 02 R43: 32 bits Y, 40 C, 44 S, 48 T, 56 VA. -/
def slotOfWidth (nbits : Nat) : Nat :=
  if nbits ≤ 32 then 7 else if nbits ≤ 40 then 6 else if nbits ≤ 44 then 0 else if nbits ≤ 48 then 3 else 1

/-- The packed bundle that holds one slot alone (03 R70). -/
def packSlot (slot w : Nat) : List Byte :=
  leBytes 4 (2 ^ (12 + slot)) ++ leBytes (slotBytes.getD slot 4) w ++
    leBytes ((4 - slotBytes.getD slot 4 % 4) % 4) 0

/-- A fetch block of one packed bundle (03 R69). -/
def packBlock (bundle : List Byte) : List Byte :=
  leBytes 16 (2 ^ 48 + 2 ^ 56 + bundle.length / 4 * 2 ^ 64) ++ bundle

/-- Where the block is placed: cluster SRAM from 0x1000_1000 on. -/
def placeAddr : BitVec 32 := 0x10001000

/-- The context that stands for a binding: a window of 64, the Kerf with eight banks, running in region 0. -/
def placeCtx (c : Ctx) (slot : Nat) (b : Block) : Ctx :=
  { c with status := .running, win := 64, nbank := 8, kown := true, pc := mkRp (placeAddr + 16) slot 4 0
           halves := (some b, none), curHalf := false, refetch := false }

/-- The word placed as the only slot of the next bundle of context `cur`. -/
def State.placeWord (s : State) (nbits w : Nat) : State :=
  let slot := slotOfWidth nbits
  let k := s.cur
  let m := s.mem.writes (cellsAt (scratchPhys false k placeAddr.toNat) (packBlock (packSlot slot w)))
  let s1 := { s with mem := m }
  (s1.modCore (coreOf k) fun co => { co with owner := some k }).modCtx k fun c => placeCtx c slot (expandBlock m false k placeAddr)

end Sys2Proof.Machine
end

