-- ==== Sys2Proof/Machine/Step.lean ====
section
/-!
DEFINITION. One step of the package: the next move of the agenda, or else what the part does by itself.
-/
namespace Sys2Proof.Machine

/-- One step. The agenda holds events; anything else in it, or an event whose operands name no part, does nothing. -/
def step (s : State) : Host.Outcome State Fault Refusal :=
  match s.agenda with
  | e :: r => if e.isSlot || !e.wf then .next { s with agenda := r } else exec e { s with agenda := r }
  | [] =>
    match s.pick with
    | .run i t => exec i t
    | .to t => .next t
    | .ends r => r

/-- The slot whose bits are `w` placed where the next step fetches (log entry 9). -/
def State.withFetchWord (s : State) (nbits w : Nat) : State := s.placeWord nbits w

end Sys2Proof.Machine
end

