-- ==== Sys2Proof/Safety.lean ====
section
/-!
DEFINITION. What a safe run is, and the terms in which the statements say what an instruction changes and what it leaves alone.
-/
namespace Sys2Proof.Machine

/-- The step from `s` has a next state. -/
def State.safe (s : State) : Prop := ∃ t, step s = .next t

/-- The value that register `d` of context `k` holds once every result on its way has landed, in the order of the bundles (R64). -/
def State.settled (s : State) (k : Nat) (d : Dest) : Vec :=
  (s.ctx k).flights.foldl (fun v f => if f.dest = d then mergeDest d f.mask f.val v else v) (s.regNow k d)

/-- Of the registers that `ws` lists, each holds the first value listed for it; every other register keeps its value. -/
def State.hasWritten (s t : State) (k : Nat) (ws : List (Dest × Vec)) : Prop :=
  ∀ d, t.settled k d = (oldOf ws d).getD (s.settled k d)

/-- Nothing of the package changes but context `k`; the counter of free values may move. -/
def State.onlyCtx (s t : State) (k : Nat) : Prop :=
  t = { s with ctxs := t.ctxs, freeIx := t.freeIx } ∧ ∀ j, j ≠ k → t.ctx j = s.ctx j

/-- Nothing of the package changes but context `k` and, on its core, the cycles from which its engines are free (R65). -/
def State.onlyCtxEng (s t : State) (k : Nat) : Prop :=
  t = { s with ctxs := t.ctxs, cores := t.cores, freeIx := t.freeIx } ∧ (∀ j, j ≠ k → t.ctx j = s.ctx j) ∧
    (∀ n, n ≠ coreOf k → t.core n = s.core n) ∧ t.core (coreOf k) = { s.core (coreOf k) with engFree := (t.core (coreOf k)).engFree }

/-- The regions that a region-fatal fault of region `r` fails (19 R402; 15 R311): itself and the others of its fault domain, with their children; no root. -/
inductive State.Fails (s : State) (r : Nat) : Nat → Prop where
  | own (n : Nat) (live : (s.region n).live = true) (child : (s.region n).root = false) (same : n = r ∨ (s.region n).rcb.fdom = (s.region r).rcb.fdom) : State.Fails s r n
  | child (n : Nat) (live : (s.region n).live = true) (child : (s.region n).root = false) (parent : State.Fails s r (s.region n).parent) : State.Fails s r n

/-- Region `n` ends in `t` with a code (19 R402): firmware has a record of it, its contexts are free, its launches have ended with FAILED and the code, and of its
continuations' records none stands in a ready queue, on a counter, in its overflow ring or in the pool; its commands that had not started are withdrawn, from the command
queue and from the buffers of the contexts. -/
def State.endsIn (s t : State) (n : Nat) (code : BitVec 8) : Prop :=
  (t.region n).live = false ∧ (n, code, none) ∈ t.fwlog ∧ (∀ j, (s.ctx j).region = n → (t.ctx j).status = .free) ∧
    (∀ e ∈ s.grids, e.2.live = true → e.2.region = n → ⟨e.2.port, e.2.queue, e.2.launch, e.2.user, 5, code⟩ ∈ t.ended) ∧
    (∀ e ∈ t.ready, e.region ≠ n) ∧ (t.region n).ring = [] ∧ (∀ e ∈ t.conts, (s.grid e.2.grid).region ≠ n) ∧
    (∀ cl d, ∀ rec_ ∈ ((t.cluster cl).dc d).links, ∀ e ∈ s.conts, e.1 = cl * 2 ^ 32 + rec_.toNat → (s.grid e.2.grid).region ≠ n) ∧
    (∀ m ∈ t.cmds, m.region = n → m.started = true) ∧ ∀ j, ∀ b ∈ (t.ctx j).buf, ∀ m, b.op = .copy m → m.region ≠ n

/-- A region-fatal fault of region `r` with a code (19 R402; 15 R311): the regions that fail have ended; of a root firmware has the record. The commands that have started
go on, and the dependence counters and the barrier words keep their values. -/
def State.failsWith (s t : State) (r : Nat) (code : BitVec 8) : Prop :=
  ((s.region r).root = true → (r, code, none) ∈ t.fwlog ∧ ((failSet s r).contains r = false → (t.region r).live = (s.region r).live)) ∧
  (∀ n, s.Fails r n → s.endsIn t n code) ∧ (∀ m ∈ s.cmds, m.started = true → m ∈ t.cmds) ∧
  ∀ cl, (t.cluster cl).bars = (s.cluster cl).bars ∧
    ∀ d, ((t.cluster cl).dc d).count = ((s.cluster cl).dc d).count ∧ ((t.cluster cl).dc d).err = ((s.cluster cl).dc d).err

/-- `w` is `m / 2^sh` rounded to an integer under a mode (06 R125); `neg`: the value is negative. -/
def RoundsTo (mode : RMode) (neg : Bool) (m sh w : Nat) : Prop :=
  let below := w * 2 ^ sh ≤ m ∧ m < (w + 1) * 2 ^ sh
  let above := m ≤ w * 2 ^ sh ∧ w * 2 ^ sh < m + 2 ^ sh
  match mode with
  | .rtz => below
  | .rdn => if neg then above else below
  | .rup => if neg then below else above
  | .rne => 2 * m ≤ (2 * w + 1) * 2 ^ sh ∧ 2 * w * 2 ^ sh ≤ 2 * m + 2 ^ sh ∧ (2 * m = (2 * w + 1) * 2 ^ sh ∨ 2 * w * 2 ^ sh = 2 * m + 2 ^ sh → w % 2 = 0)

/-- `w * 2^q` is `m * 2^e` rounded to a multiple of `2^q` (06 R125). -/
def RoundsUnit (mode : RMode) (neg : Bool) (m : Nat) (e q : Int) (w : Nat) : Prop :=
  if q ≤ e then w = m * 2 ^ (e - q).toNat else RoundsTo mode neg m (q - e).toNat w

/-- `w` is the square root of `n` rounded to an integer under a mode (06 R129). -/
def RootsTo (mode : RMode) (n w : Nat) : Prop :=
  match mode with
  | .rtz => w * w ≤ n ∧ n < (w + 1) * (w + 1)
  | .rdn => w * w ≤ n ∧ n < (w + 1) * (w + 1)
  | .rup => n ≤ w * w ∧ (w - 1) * (w - 1) < n
  | .rne => 4 * n ≤ (2 * w + 1) * (2 * w + 1) ∧ (2 * w - 1) * (2 * w - 1) ≤ 4 * n

/-- A floating-point format of 06 R114 with its widths, its bias, the significand of its largest finite value, its canonical NaN and whether it has infinities: what its
encodings are worth, and what Round gives for an exact value, rounded once to the format's precision (R125, R126). -/
def Fmt.IsFormat (f : Fmt) (eb fb bias last nan : Nat) (infs : Bool) : Prop :=
  let width := 1 + eb + fb
  let qmin : Int := 1 - (bias : Int) - fb
  let qmax : Int := ((2 ^ eb - (if infs then 2 else 1) : Nat) : Int) - bias - fb
  let largest : Bool → FVal := fun neg => .fin neg last qmax
  let infinite : Bool → Nat → Prop := fun neg x => if infs then f.val x = .inf neg else x = nan
  (∀ x : Nat, x < 2 ^ width →
    let neg := x.testBit (eb + fb)
    let ex : Nat := x / 2 ^ fb % 2 ^ eb
    let fr : Nat := x % 2 ^ fb
    f.val x = if ex = 2 ^ eb - 1 ∧ (infs = true ∨ fr = 2 ^ fb - 1) then (if infs = true ∧ fr = 0 then .inf neg else .nan)
      else if ex = 0 then .fin neg fr qmin else .fin neg (2 ^ fb + fr) ((ex : Int) - bias - fb)) ∧
  (∀ mode sat v, f.round mode sat v < 2 ^ width) ∧ (∀ mode sat, f.round mode sat .nan = nan) ∧
  (∀ mode neg, f.val (f.round mode true (.inf neg)) = largest neg ∧ infinite neg (f.round mode false (.inf neg))) ∧
  (∀ mode sat neg e, f.val (f.round mode sat (.fin neg 0 e)) = .fin neg 0 qmin) ∧
  ∀ (mode : RMode) (sat neg : Bool) (m l : Nat) (e : Int), 2 ^ l ≤ m → m < 2 ^ (l + 1) →
    let q := Max.max qmin (e + (l : Int) - fb)
    let x := f.round mode sat (.fin neg m e)
    let away := match mode with | .rne => true | .rtz => false | .rdn => neg | .rup => !neg
    ∃ w : Nat, RoundsUnit mode neg m e q w ∧
      let beyond := qmax < q ∨ (q = qmax ∧ last < w)
      (¬ beyond → ∃ (m' : Nat) (e' : Int), f.val x = .fin neg m' e' ∧ qmin ≤ e' ∧ m' * 2 ^ (e' - qmin).toNat = w * 2 ^ (q - qmin).toNat) ∧
      (beyond → sat = true ∨ away = false → f.val x = largest neg) ∧ (beyond → sat = false → away = true → infinite neg x)

/-- An FP32 encoding is the value that RNE gives for the decimal `d / 10^8`, up to its sign (06 R132). -/
def IsDecimal (x d : Nat) : Prop :=
  (x = 0 ∧ d = 0) ∨ ∃ (neg : Bool) (m : Nat) (e : Int), fp32.val x = .fin neg m e ∧ 2 ^ 23 ≤ m ∧ e ≤ 0 ∧ 2 * ((m : Int) * 10 ^ 8 - d * 2 ^ (-e).toNat).natAbs < 10 ^ 8

/-- No context has a store under way. -/
def State.noStores (s : State) : Prop := ∀ k, (s.ctx k).stq = [] ∧ ∀ b ∈ (s.ctx k).buf, ∀ o, b.op ≠ .store o

/-- A value as its register holds it (R96). -/
def Dest.holds (d : Dest) (v : Vec) : Vec :=
  match d with
  | .none => 0
  | .sreg _ => (v.setWidth 64).setWidth 1024
  | .preg _ => (v.setWidth 32).setWidth 1024
  | .td _ => (v.setWidth 256).setWidth 1024
  | _ => v

/-- What a result written to a scalar register amounts to: nothing for s0 (R97). -/
def wS (d : BitVec 6) (v : Word) : List (Dest × Vec) := if d = 0 then [] else [(.sreg d.toNat, v.setWidth 1024)]

/-- What a result written to a predicate amounts to: nothing for p0 (R98). -/
def wP (d : BitVec 6) (v : BitVec 32) : List (Dest × Vec) := if d = 0 then [] else [(.preg d.toNat, v.setWidth 1024)]

/-- Scalar and predicate operands of the current context. -/
def State.xS (s : State) (a : BitVec 6) : Word := s.readS s.cur a
def State.xP (s : State) (a : BitVec 6) : BitVec 32 := s.readP s.cur a

/-- An immediate, sign-extended (R156). -/
def sx {w : Nat} (imm : BitVec w) : Word := BitVec.ofInt 64 imm.toInt

/-- The current context's S slot, in the bundle `r`. -/
def State.atS (s : State) (r : Run) : Prop := (s.ctx s.cur).run = some r ∧ r.slot = 0

/-- Instruction `i` commits in the S slot, where `u` is the state with its effects outside the context: the registers `ws` are written; `f` says what
becomes of the rest of the context; the next slot of the bundle is in progress; nothing else changes. -/
def CommitsFrom (i : Instr) (s u : State) (ws : List (Dest × Vec)) (f : Ctx → Ctx) : Prop :=
  ∃ t o, exec i s = .next t ∧ u.onlyCtx t s.cur ∧ u.hasWritten t s.cur ws ∧
    t.ctx s.cur = { f (u.ctx s.cur) with
      sregs := (t.ctx s.cur).sregs, pregs := (t.ctx s.cur).pregs, flights := (t.ctx s.cur).flights, wait := .none
      run := (f (u.ctx s.cur)).run.map fun r => { r with slot := r.slot + 1, olds := o } }

/-- The same for an instruction without an effect outside the context. -/
def Commits (i : Instr) (s : State) (ws : List (Dest × Vec)) (f : Ctx → Ctx) : Prop := CommitsFrom i s s ws f

/-- A taken transfer: the bundle goes to `target` when it completes, and runs no back-edge test (R67, R172). -/
def Ctx.takes (c : Ctx) (target : Word) : Ctx := { c with run := c.run.map fun r => { r with xfer := some target, noBack := true } }

/-- In every S slot, `i` under guard `g` writes `v` to s_d, and runs the back-edge test of its bundle; under a false guard it writes nothing. -/
def Computes (i : Instr) (g : Guard) (d : BitVec 6) (v : State → Word) : Prop :=
  ∀ s r, s.atS r → Commits i s (if s.guard s.cur g then wS d (v s) else []) Ctx.backEdge

/-- The same for a result of which `P` says what it is. -/
def Yields (i : Instr) (g : Guard) (d : BitVec 6) (P : State → Word → Prop) : Prop :=
  ∀ s r, s.atS r → ∃ v, P s v ∧ Commits i s (if s.guard s.cur g then wS d v else []) Ctx.backEdge

/-- The same for predicates: the list of those written with their bits, the last written first. -/
def Tests (i : Instr) (g : Guard) (ws : State → List (BitVec 6 × BitVec 32)) : Prop :=
  ∀ s r, s.atS r → Commits i s (if s.guard s.cur g then ((ws s).map fun x => wP x.1 x.2).flatten else []) Ctx.backEdge

/-! ### The other slots -/

/-- The current context's slot `n`, in the bundle `r`. -/
def State.atSlot (s : State) (n : Nat) (r : Run) : Prop := (s.ctx s.cur).run = some r ∧ r.slot = n

/-- A slot between S and Y has committed: the next slot is in progress, and the counter of free values has moved. -/
def State.passed (s : State) (r : Run) : State :=
  s.bumpFree.putCtx s.cur { s.ctx s.cur with run := some { r with slot := r.slot + 1 }, wait := .none }

/-- The current context waits, blocked from this cycle on, and runs its slot again later. -/
def State.waits (s : State) (w : Wait) : State := s.modCtx s.cur fun c => { c with wait := w, status := .blocked, since := s.cyc s.cur }

/-- The current context waits and keeps the issue width. -/
def State.stalls (s : State) (w : Wait) : State := s.modCtx s.cur fun c => { c with wait := w }

/-- What a demand of these goals leaves open for the current context; a handler passes over failed nodes (R330, R339). -/
def State.demands (s : State) (gs : List Goal) : List Goal := (s.ctx s.cur).openGoals (s.ctx s.cur).inHandler gs

/-- The T slot of bundle `r`, outside a schedule segment, under a true guard, with the T engine free for it, no earlier acquire outstanding and the descriptors `tds`
loaded (R65, R265, R348). -/
def State.atT (s : State) (r : Run) (g : Guard) (tds : List (BitVec 5)) : Prop :=
  s.atSlot 3 r ∧ s.guard s.cur g = true ∧ (s.ctx s.cur).seg = none ∧ (s.ctx s.cur).waiting 3 = [] ∧ s.bufOlder s.cur 3 r.issued = false ∧
    lookD (s.core (coreOf s.cur)).engFree 3 0 ≤ s.cyc s.cur ∧ s.acquiring s.cur r.seq = false ∧ (s.ctx s.cur).tdBusy false tds = none

/-- The node that bundle `r` appends: opcode, bank or operation, tokens, descriptors, tiles, and AUX (R324). -/
def State.newNode (s : State) (r : Run) (i : Instr) (op acc : Nat) (t : Toks) (dd da db : BitVec 256) (nt : Nat) : Node :=
  let c := s.ctx s.cur
  { appc := mkRp r.xb.addr 3 r.xb.back r.xb.bidx, seq := c.seqSrc + 1, op := BitVec.ofNat 7 op, failed := false, rfast := r.sys0.psw.getLsbD 11
    bankDst := decide (op = 1 ∨ op = 2), qDst := decide (op = 0x0e), acc := acc, passes := if op = 1 ∨ op = 2 then r.promote0 else 0, toks := t
    koutBind := if t.kout = 0 then 0 else c.bindSrc + 1, kinBind := kinsOf c.tok t, fcode := 0, nt := nt, aux := BitVec.ofNat 18 (encode i / 2 ^ 14)
    done := 0, dd := dd, da := da, db := db, appSeq := r.seq }

/-- Instruction `i` of the T slot appends node `n` to the current context's table, which is not full, and its kout becomes pending (R324, R104). -/
def Appends (i : Instr) (s u : State) (r : Run) (kout : BitVec 4) (n : Node) : Prop :=
  exec i s = .next ((u.modCtx s.cur fun c => { c.bindTok kout.toNat with nodes := c.nodes ++ [n], seqSrc := c.seqSrc + 1 }).passed r)

/-! ### Memory slots -/

/-- An engine accepts the instruction of the current context's slot at once: its buffer has room, nothing of the context waits for it, it is free, no other
context is in front, and no acquire of an earlier bundle is outstanding (R65, R265). -/
def State.engineOpen (s : State) (r : Run) (eng : Nat) : Prop :=
  (s.ctx s.cur).waiting eng = [] ∧ s.bufFull s.cur eng = false ∧ s.bufOlder s.cur eng r.issued = false ∧
    lookD (s.core (coreOf s.cur)).engFree eng 0 ≤ s.cyc s.cur ∧ s.acquiring s.cur r.seq = false

/-- `n` bytes at address `x` may be accessed with this alignment: none of PRIV, ALIGN and ADDR is raised (R254, R255; 15 R311). -/
def State.legalAt (s : State) (x : Int) (n align : Nat) : Prop :=
  0 ≤ x ∧ x < 2 ^ 32 ∧ x % (align : Int) = 0 ∧ inRange (s.ctx s.cur).mapped x.toNat n = true ∧ crossesStripe (s.ctx s.cur).mapped x.toNat n = false ∧
    (spaceOf x.toNat = 14 → (s.rcb s.cur).hwin = true)

/-- The physical address of scratchpad address `x` for the current context (R201, R202). -/
def State.at (s : State) (x : Int) : Nat := scratchPhys (s.ctx s.cur).mapped s.cur x.toNat

/-- Every vector register named lies in the window. -/
def State.inWindow (s : State) (regs : List Nat) : Prop := ∀ v ∈ regs, v < (s.ctx s.cur).win

/-- What a load leaves in the L slot of bundle `r`, where `u` is the state with its effects outside the context: LDC has risen by one; the registers of `ws` get
their values once it lands, `lat` cycles from now; every other register keeps its value; the slot has committed. -/
def LoadDone (i : Instr) (s u : State) (r : Run) (lat : Nat) (ws : List (Dest × Vec)) : Prop :=
  ∃ t, exec i s = .next t ∧ u.onlyCtxEng t s.cur ∧ (∀ d, d ≠ .none → t.settled s.cur d = (oldOf ws d).getD (s.settled s.cur d)) ∧
    (∃ f ∈ (t.ctx s.cur).flights, f.ctr = .ldc ∧ f.seq = r.seq ∧ f.acc = true ∧ f.due = s.cyc s.cur + lat ∧ f.nominal = r.issued + lat) ∧
    t.ctx s.cur = { s.ctx s.cur with
      ldc := (s.ctx s.cur).ldc + 1, flights := (t.ctx s.cur).flights, wait := .none, run := some { r with slot := 5 } }

/-- A load of `n` bytes at `base + off` under guard `g` with an engine ready, no node to demand, nothing of its own in front and, for the host window, credits on
the way to it reads the bytes that the context sees, and `f` makes of their little-endian value what register `d` gets (R257, R258, R260). -/
def Loads (i : Instr) (g : Guard) (base : BitVec 6) (off : Int) (n align : Nat) (regs : List Nat) (d : Dest) (f : Nat → Vec) : Prop :=
  ∀ s r, s.atSlot 4 r → s.guard s.cur g = true → s.engineOpen r 4 → (s.ctx s.cur).ldc < 63 → s.inWindow regs →
    let x : Int := (s.readS s.cur base).toNat + off
    s.legalAt x n align → s.demands ((s.ctx s.cur).readGoals [areaOf x.toNat n]) = [] → s.mustNotRead s.cur r.seq [(s.at x, n)] = false →
    s.windowOpen (socketOf s.cur) [s.at x] = true →
    LoadDone i s (s.windowFlits (socketOf s.cur) [s.at x]) r (spaceLat (spaceOf x.toNat)) [(d, f (leNat (s.ownBytes s.cur r.seq (s.at x) n)))]

/-- The current context's ST slot commits store `o`: STC has risen by one, and it waits in the queue of the stores to perform, `fl` being what it will bring to a
register; the engine is taken for `busy` cycles; `u` is the state with its other effects (R257, R65). -/
def StoreDone (i : Instr) (s u : State) (r : Run) (o : StoreOp) (busy : Nat) (fl : List Flight) : Prop :=
  exec i s = .next (((u.modCore (coreOf s.cur) fun co => { co with engFree := put co.engFree 5 (s.cyc s.cur + busy) }).modCtx s.cur fun c =>
    { c with stc := c.stc + 1, flights := c.flights ++ fl, stq := c.stq ++ [⟨r.seq, s.cyc s.cur, o, none⟩] }).passed r)

/-- In an open segment the store is held instead (R259, R237). -/
def StoreHeld (i : Instr) (s u : State) (r : Run) (o : StoreOp) (fl : List Flight) : Prop :=
  ∃ b, b.seq = r.seq ∧ b.issued = r.issued ∧ b.op = .store o ∧ exec i s = .next ((u.modCtx s.cur fun c =>
    { c with stc := c.stc + 1, flights := c.flights ++ fl, held := c.held ++ [b], seg := c.seg.map fun (g : Seg) => { g with stores := g.stores + 1 } }).passed r)

/-- What a store will bring to a register. -/
def State.storeFlights (s : State) (kd : StoreKind) (lat : Nat) : List Flight :=
  match kd with
  | .atomic _ t _ _ => [s.flight s.cur (if t = 0 then .none else .sreg t) 0xffffffff 0 lat false .stc]
  | .unlock pd => if pd = 0 then [] else [s.flight s.cur (.preg pd) 0xffffffff 0 lat false .stp]
  | _ => []

/-- A store of the bytes `bs` at `base + off` under guard `g` enters the queue of the stores, or the open segment, as a store of kind `kd` at the physical address
of its bytes, with its effective scope (R233); a release first demands every node with a scratchpad destination (R236, R257 to R259). -/
def Stores (i : Instr) (g : Guard) (base : BitVec 6) (off : Int) (n align : Nat) (regs : List Nat) (kd : State → StoreKind) (extra : Nat)
    (named : Scope) (bs : State → List Byte) : Prop :=
  ∀ s r, s.atSlot 5 r → s.guard s.cur g = true → (s.ctx s.cur).stc < 63 → s.inWindow regs →
    let x : Int := (s.readS s.cur base).toNat + off
    let o : StoreOp := ⟨kd s, cellsAt (s.at x) (bs s), s.at x, n, [(x.toNat, n)], spaceLat (spaceOf x.toNat) + extra, effScope named (spaceOf x.toNat)⟩
    s.legalAt x n align → s.demands ((s.ctx s.cur).writeGoals [areaOf x.toNat n]) = [] →
    (kd s = .plain ∨ s.demands (s.ctx s.cur).scratchGoals = []) →
    (bs s).length = n ∧
    ((s.ctx s.cur).seg = none → s.engineOpen r 5 → StoreDone i s s r o 1 (s.storeFlights (kd s) o.lat)) ∧
    ((s.ctx s.cur).seg.isSome = true → s.bufFull s.cur 5 = false → StoreHeld i s s r o (s.storeFlights (kd s) o.lat))

/-! ### Copy commands -/

/-- The C slot commits command `m`: its counter has risen and its token waits for it. A queued one stands in the C buffer until its queue grants it (R301); any other has
entered the commands with the next number, and the engine is taken for a cycle. `u` is the state with the slot's other effects (R270). -/
def CopyDone (i : Instr) (s u : State) (r : Run) (m : Cmd) : Prop :=
  let counts : Ctx → Ctx := fun c => (match m.kind with | .tmv | .noneT => { c with tlc := c.tlc + 1 } | _ => { c with cpc := c.cpc + 1 : Ctx }).bindTok m.kout
  let taken := { u.modCore (coreOf s.cur) (fun co => { co with engFree := put co.engFree 6 (s.cyc s.cur + 1) }) with
    cmds := s.cmds ++ [{ m with id := s.cmdSrc + 1, acceptedAt := s.cyc s.cur }], cmdSrc := s.cmdSrc + 1 }
  (m.kind.queued = true → ∃ b, b.seq = r.seq ∧ b.issued = r.issued ∧ b.op = .copy m ∧
    exec i s = .next ((u.modCtx s.cur fun c => { counts c with buf := c.buf ++ [b] }).passed r)) ∧
  (m.kind.queued = false → exec i s = .next ((taken.modCtx s.cur counts).passed r))

/-- In an open segment the command is held (R270, R237). -/
def CopyHeld (i : Instr) (s u : State) (r : Run) (m : Cmd) : Prop :=
  ∃ b, b.seq = r.seq ∧ b.op = .copy m ∧ exec i s = .next ((u.modCtx s.cur fun c =>
    let c1 := (match m.kind with | .tmv | .noneT => { c with tlc := c.tlc + 1 } | _ => { c with cpc := c.cpc + 1 : Ctx }).bindTok m.kout
    { c1 with held := c1.held ++ [b] }).passed r)

/-- A command as the current context's C slot makes it: not started, nothing moved, with the context's binding, region and window mode, its kins as they stood before
the bundle, and its token's new producer; a defective descriptor moves nothing and attaches DESC (R270, R271, R277). -/
def State.fresh (s : State) (r : Run) (f : CopyF) (kd : CmdKind) (d : Desc) (total : Nat) (gv : Option (BitVec 16)) (m : Cmd) : Prop :=
  let c := s.ctx s.cur
  m.kind = kd ∧ m.k = s.cur ∧ m.gen = c.gen ∧ m.region = c.region ∧ m.mapped = c.mapped ∧ m.desc = d ∧ m.gv = gv ∧ m.seq = r.seq ∧
    m.kins = c.copyKins f.toks ∧ m.kout = f.toks.kout.toNat ∧ m.koutBind = c.bindSrc + 1 ∧ m.started = false ∧ m.next = 0 ∧ m.reads = [] ∧ m.waitLanding = false ∧
    m.tries = 0 ∧ m.total = (if d.defect then 0 else total) ∧ m.code = if d.defect then some 0x20 else none

/-! ### The Y slot -/

/-- Instruction `i` commits in the Y slot: its effects make the state `u`, in which the bundle ends as it does at a NOP. -/
def EndsIn (i : Instr) (s u : State) : Prop := ∃ t, exec i s = .next t ∧ exec .nop u = .next t

/-- An instruction that acts outside its schedule segment finds none of its operations held and no signature awaited, and where its bundle ends the segment, every store of
it performed (R94). -/
def State.alone (s : State) (r : Run) : Prop :=
  (s.ctx s.cur).held = [] ∧ (s.ctx s.cur).mustCommit = false ∧ r.ldl = none ∧ (r.segEnd = true → (s.ctx s.cur).stq = [])

/-- The release side is done: no node with a scratchpad destination is open and earlier operations have retired (R236). -/
def State.released (s : State) : Prop := s.demands (s.ctx s.cur).scratchGoals = [] ∧ s.priorDone s.cur = true

/-! ### Vector slots -/

/-- The current context's VA or VB slot, in the bundle `r`, with room in its elastic buffer and every register that is named within the window. -/
def State.atV (s : State) (r : Run) (regs : List Nat) : Prop :=
  (s.ctx s.cur).run = some r ∧ (r.slot = 1 ∨ r.slot = 2) ∧ s.bufFull s.cur r.slot = false ∧ ∀ n ∈ regs, n < (s.ctx s.cur).win

/-- Register `d` after the results `ws`, in the lanes of `mask`, of its value `old`. -/
def afterResults (ws : List (Dest × Vec)) (mask : BitVec 32) (d : Dest) (old : Vec) : Vec :=
  match oldOf ws d with
  | some v => mergeDest d mask v old
  | none => old

/-- Instruction `i` commits in a vector slot, where `u` is the state with its latches set and its effects outside the context: in the lanes of `mask` each
register of `ws` gets the value listed for it, at latency `lat`; the other lanes and every other register keep their values; the next slot is in progress;
the engine may accept what waits for it; nothing else changes. -/
def VCommits (i : Instr) (s u : State) (r : Run) (lat : Nat) (mask : BitVec 32) (ws : List (Dest × Vec)) : Prop :=
  ∃ t, exec i s = .next t ∧ u.onlyCtxEng t s.cur ∧
    (∀ d, t.settled s.cur d = afterResults ws mask d (s.settled s.cur d)) ∧
    (∀ x ∈ ws, ∃ f ∈ (t.ctx s.cur).flights, f.dest = x.1 ∧ f.seq = r.seq ∧ f.nominal = r.issued + lat) ∧
    t.ctx s.cur = { u.ctx s.cur with
      flights := (t.ctx s.cur).flights, buf := (t.ctx s.cur).buf, wait := .none, run := some { r with slot := r.slot + 1 } }

/-- Element `j` of lane `i` of `v` is `f i j`, modulo `2 ^ w`. -/
def EachElem (w : Nat) (v : Vec) (f : Nat → Nat → Nat) : Prop := ∀ i, i < 32 → ∀ j, j < 32 / w → elem w (lane v i) j = f i j % 2 ^ w

/-- An instruction of form A or F writes, in the lanes of its guard, `f` of the elements of its operands a and b and of the destination. -/
def MapsBin (i : Instr) (o : VBin) (w lat : Nat) (f : Nat → Nat → Nat → Nat) : Prop :=
  ∀ s r, s.atV r (o.vd.toNat :: VSrc.regs o.a ++ VSrcB.regs o.b) →
    let k := s.cur
    ∃ v, EachElem w v (fun i j => f (elem w (lane (s.vsrc k o.a 0) i) j) (elem w (lane (s.vsrcB k o.b) i) j) (elem w (lane (s.readV k o.vd.toNat) i) j)) ∧
      VCommits i s ((s.hold k o.a 0).holdB k o.b) r lat (s.mask k o.g) (if s.mask k o.g = 0 then [] else [(.vreg o.vd.toNat, v)])

/-- An instruction of form U writes, in the lanes of its guard, a register `v` that stands in relation `P` to its operand. -/
def MapsUn (i : Instr) (o : VUn) (lat : Nat) (P : Vec → Vec → Prop) : Prop :=
  ∀ s r, s.atV r (o.vd.toNat :: VSrc.regs o.a) →
    ∃ v, P (s.vsrc s.cur o.a 0) v ∧
      VCommits i s (s.hold s.cur o.a 0) r lat (s.mask s.cur o.g) (if s.mask s.cur o.g = 0 then [] else [(.vreg o.vd.toNat, v)])

/-- The same, element by element. -/
def MapsElems (i : Instr) (o : VUn) (w lat : Nat) (f : Nat → Nat) : Prop :=
  MapsUn i o lat fun a v => EachElem w v fun i j => f (elem w (lane a i) j)

/-- A compare writes p_pd with the condition and p_pe with its complement in the lanes of its guard, and 0 in the others. -/
def MapsCm (i : Instr) (o : VCm) (w : Nat) (f : Nat → Nat → Bool) : Prop :=
  ∀ s r, s.atV r (VSrc.regs o.a ++ VSrcB.regs o.b) →
    let k := s.cur
    ∃ c : BitVec 32, (∀ i, i < 32 → (c.getLsbD i = true ↔
        ∀ j, j < 32 / w → f (elem w (lane (s.vsrc k o.a 0) i) j) (elem w (lane (s.vsrcB k o.b) i) j) = true)) ∧
      VCommits i s ((s.hold k o.a 0).holdB k o.b) r 2 (BitVec.allOnes 32)
        (if s.mask k o.g = 0 then [] else wP o.pe (~~~ c &&& s.mask k o.g) ++ wP o.pd (c &&& s.mask k o.g))

end Sys2Proof.Machine
end

