-- ==== Sys2Proof/Certificates/Slice0/Obligations.lean ====
section
/-!
DEFINITION. The statements for the provers. Each docstring names the rules of spec/ that the statement formalises or rests on.
-/
open Sys2Proof Sys2Proof.Machine

/-- Decoding and encoding agree in every slot: a word decodes to an instruction exactly when it is that legal instruction's encoding (03_bundles, 08_scalar, 09_vector, 13_memops, 17_tile, 18_counters, 14_queues, 19_events). -/
def Obligations.SlotsDecodeToExactlyTheLegalEncodings : Prop :=
  (∀ (k : SlotKind) (n : Nat) (i : Instr),
    decode k n = .ok i ↔ (n = 0 ∧ i = .nop) ∨ (i.slotKind = some k ∧ i.wf = true ∧ encode i = n)) ∧
  ∀ (k : SlotKind) (i : Instr), i.slotKind = some k →
    encode i < 2 ^ (match k with | .s => 44 | .v => 56 | .t => 48 | .l => 48 | .st => 48 | .c => 40 | .y => 32)

/-- Words that the spec writes out decode to the instructions it names (08_scalar, 09_vector, 13_memops, 17_tile, 18_counters, 14_queues, 11_generations, 12_consistency, 19_events). -/
def Obligations.SpecWordsDecode : Prop :=
  decodeTableWord 44 0x00000c925380 = some (.shlImm 0 9 9 3) ∧ decodeTableWord 44 0x018620714e02 = some (.cmp 2 .ltu 5 6 7 8) ∧
  decodeTableWord 44 0x00004010d083 = some (.addImm 3 3 1 16) ∧ decodeTableWord 44 0x000018402a80 = some (.loop 0 0 4 6) ∧
  decodeTableWord 56 0x0000000001404d7c3 = some (.vmov ⟨0x43, .rne, false, 4, ⟨.read, 5⟩⟩) ∧
  decodeTableWord 56 0x000041e0500a1004 = some (.vfma .f32 ⟨4, .rne, false, 10, ⟨.latch, 20⟩, .reg ⟨.read, 30⟩⟩) ∧
  decodeTableWord 56 0x000800300a078d01 = some (.vcmp .f32 .lt ⟨1, 7, 40, ⟨.read, 2⟩, .reg ⟨.read, 3⟩⟩) ∧
  decodeTableWord 56 0x000001002408ab80 = some (.vcvt .f32 .bf16 ⟨0, .rne, false, 8, ⟨.read, 9⟩⟩) ∧
  decodeTableWord 48 0x00000451ca00 = some (.tdld 0 7 10 2) ∧ decodeTableWord 48 0x000645200080 = some (.mma 0 false 4 5 2 ⟨0, 0, 0, 6⟩) ∧
  decodeTableWord 48 0x00010210c300 = some (.rtopk 0 3 2 2 ⟨0, 0, 0, 1⟩) ∧ decodeTableWord 48 0x000000000c00 = some (.scribe 0) ∧
  decode .l 0x000045008280 = .ok (.ldW ⟨0, 4, 10, 2⟩) ∧ decode .l 0x240086010600 = .ok (.ldlW ⟨0, 8, 12, 4, 9⟩) ∧
  decode .st 0x000025804800 = .ok (.strelW ⟨0, 2, 11, .c, 0⟩) ∧ decodeTableWord 40 0x00000d4080 = some (.cpy ⟨0, 20, ⟨0, 0, 0, 3⟩, 0⟩) ∧
  decodeTableWord 32 0x00050800 = some (.snap 0 20) ∧ decodeTableWord 32 0x00008200 = some (.drain 0 .d) ∧
  decodeTableWord 32 0x3c3c0080 = some (.wait 0 0 15 0 15) ∧ decodeTableWord 32 0x04831480 = some (.dcset 0 12 9) ∧
  decodeTableWord 32 0x00310500 = some (.bart 0 4 6) ∧ decodeTableWord 32 0x34c15000 = some (.qacq ⟨0, 5, 12, 13⟩) ∧
  decodeTableWord 32 0x00001400 = some (.eret 0) ∧ decodeTableWord 32 0x1c615500 = some (.timer 0 5 6 7)

/-- The opcode space of the C slot (R79). -/
def Obligations.CopyOpcodesAreAssigned : Prop :=
  (∀ (n : Nat), n < 2 ^ 40 → let op := n / 2 ^ 7 % 2 ^ 5
    (∀ i, decode .c n = .ok i → (op = 0 ∧ i = .nop) ∨ ∃ c, (op = 1 ∧ i = .cpy c) ∨ (op = 2 ∧ i = .cpyil c) ∨ (op = 3 ∧ i = .cgath c) ∨
      (op = 4 ∧ i = .tmv c) ∨ (op = 5 ∧ i = .ccoll c) ∨ (op = 6 ∧ i = .cflush c) ∨ (op = 7 ∧ i = .cpq c) ∨ (op = 8 ∧ i = .cpre c)) ∧
    (9 ≤ op → decode .c n = .error .unassigned)) ∧
  decode .c 0 = .ok .nop ∧
  ∀ (c : CopyF), ∀ x ∈ [(1, Instr.cpy c), (2, .cpyil c), (3, .cgath c), (4, .tmv c), (5, .ccoll c), (6, .cflush c), (7, .cpq c), (8, .cpre c)],
    x.2.wf = true → encode x.2 / 2 ^ 7 % 2 ^ 5 = x.1 ∧ decode .c (encode x.2) = .ok x.2

/-- The conversion format codes of VCVT (R75). -/
def Obligations.ConversionFormatsAreCoded : Prop :=
  let code : CFmt → Nat := fun c => match c with
    | .f32 => 0 | .bf16 => 1 | .f16 => 2 | .i32 => 3 | .i16 => 4 | .i8 => 5 | .e4m3 => 6 | .e5m2 => 7
  (∀ (n : Nat), n < 2 ^ 56 → n / 2 ^ 7 % 2 ^ 9 = 0x157 → let s := n / 2 ^ 36 % 16; let d := n / 2 ^ 40 % 16
    (∀ i, decode .v n = .ok i → ∃ src dst o, i = .vcvt src dst o ∧ code src = s ∧ code dst = d) ∧
    (8 ≤ s ∨ 8 ≤ d ∨ s = 6 ∨ s = 7 ∨ s = d → ∃ e, decode .v n = .error e)) ∧
  (∀ (src dst : CFmt) (o : VUn), code src < 6 → src ≠ dst → o.g.ok = true →
    decode .v (encode (.vcvt src dst o)) = .ok (.vcvt src dst o) ∧ encode (.vcvt src dst o) / 2 ^ 7 % 2 ^ 9 = 0x157 ∧
    encode (.vcvt src dst o) / 2 ^ 36 % 16 = code src ∧ encode (.vcvt src dst o) / 2 ^ 40 % 16 = code dst) ∧
  ∀ (s : State) (r : Run) (e : DecodeError), (s.ctx s.cur).run = some r → r.slot = 1 ∨ r.slot = 2 → r.xb.instr r.slot = .error e →
    ∃ t, s.slotMove s.cur = some (.to t) ∧ t = s.raise s.cur ⟨0x01, BitVec.ofNat 64 (r.xb.word r.slot), 0, false⟩ r.slot

/-- A step runs the event at the head of the agenda, or the decoded instruction of the slot whose turn it is (02_execution, 03_bundles, 95_what_each_step_holds). The order of moves is the model's choice, log entry 5. -/
def Obligations.StepRunsTheNextInstruction : Prop :=
  (∀ (s : State) (e : Instr) (l : List Instr), s.agenda = e :: l → e.isSlot = false → e.wf = true → step s = exec e { s with agenda := l }) ∧
  ∀ (s : State) (k : Nat) (before after : List Nat), s.agenda = [] → firstOf (fun (f : State → Option Move) => f s) State.internalMoves = none →
    s.slotOrder = before ++ k :: after → (∀ j ∈ before, s.attempt j = none) → s.engineReady k 0 = false → (s.ctx k).status = .running → s.waitOver k = true →
    let c := s.ctx k
    (∀ r, (s.ctx s.cur).run = some r → r.issued = s.cyc s.cur → s.slotOrder = s.cur :: s.ctxs.map fun e => e.1) ∧
    (∀ r i, c.run = some r → decode (kindOfSlot r.slot) (r.xb.word r.slot) = .ok i → step s = exec i { s with cur := k }) ∧
    (∀ r e, c.run = some r → decode (kindOfSlot r.slot) (r.xb.word r.slot) = .error e →
      step s = .next ({ s with cur := k }.raise k ⟨0x01, BitVec.ofNat 64 (r.xb.word r.slot), 0, false⟩ r.slot)) ∧
    ∀ site b x i, c.run = none → c.committing = false → c.ending = false → c.stepDue = false → c.atBoundary = false → s.noIssue k = false →
      c.locate = .at_ site b x → b.readyAt x ≤ s.cyc k → x.defect = none → x.pastEnd c.mapped = none →
      (c.prot = true → c.inStep = true ∨ x.rdv = false ∨ c.met = true) →
      (x.segBit = true → rpSlot c.pc = 0 → c.mustCommit = false ∨ c.reenters = true) → s.lateNext k = false →
      decode (kindOfSlot (rpSlot c.pc)) (x.word (rpSlot c.pc)) = .ok i →
      step s = exec i { s.issue k site b x with cur := k } ∧
        ∃ r, ((s.issue k site b x).ctx k).run = some r ∧ r.xb = x ∧ r.slot = rpSlot c.pc ∧ r.seq = c.bundleSeq + 1 ∧ (r.fall, r.fallEnd) = b.after x ∧
          r.issued = s.cyc k ∧ (∀ g, c.seg = some g → g.bundles = 0 → ((s.issue k site b x).ctx k).seg = some { g with bundles := 1 }) ∧ ((s.issue k site b x).core (coreOf k)).bundles = (s.core (coreOf k)).bundles + 1

/-- A NOP passes its slot; the last slot ends the bundle and goes to the transfer's target or to the fall-through point (03_bundles, 02_execution). That a taken transfer or a redirected last bundle does not end the task body, and the resume point kept of one that does, are the model's readings, log entries 58 and 108. -/
def Obligations.NopsPassAndTheBundleEnds : Prop :=
  ∀ (s : State) (r : Run), (s.ctx s.cur).run = some r →
    let c := s.ctx s.cur
    let h := c.inHandler
    let redirected := c.sys.psw.getLsbD 3 && !h
    (0 < r.slot → r.slot < 7 → exec .nop s = .next (s.passed r)) ∧
    (r.slot = 7 → r.ldl = none → r.brk = false → r.segEnd = false → (∀ g, c.seg = some g → g.bundles < 256 ∧ g.stores < 64) →
      ∃ t, exec .nop s = .next t ∧ s.onlyCtx t s.cur ∧
        let c' := t.ctx s.cur
        c'.pc = (if redirected then c.sys.etgt else r.xfer.getD r.fall) ∧
        c'.iidx = c.iidx + (if r.xb.pfx.getLsbD 2 then 1 else 0) ∧ c'.ending = (c.ending || (r.fallEnd && r.xfer.isNone && !redirected)) ∧
        c'.stepDue = (c.sys.psw.getLsbD 10 && !h) ∧ (∀ i, i < 32 → c'.sys.psw.getLsbD i = (c.sys.psw.getLsbD i && !(redirected && i == 3))) ∧
        (∀ n, lookD c'.latches n 0 = if r.xb.pfx.getLsbD 2 then 0 else lookD c.latches n 0) ∧
        c'.inStep = (c.inStep || (c.prot && r.xb.pfx.getLsbD 1)) ∧
        c'.endRp = (if r.fallEnd && r.xfer.isNone && !redirected then some (mkRp r.xb.addr 7 r.xb.back r.xb.bidx) else c.endRp) ∧
        c' = { c with
          run := none, wait := .none, pc := c'.pc, iidx := c'.iidx, ending := c'.ending, stepDue := c'.stepDue, latches := c'.latches
          boundary := c'.boundary, redirAt := c'.redirAt, inStep := c'.inStep, endRp := c'.endRp, met := false, sys := { c.sys with psw := c'.sys.psw } })

/-- s0 reads as zero and discards what is written to it (R97). -/
def Obligations.HardwiredScalar : Prop :=
  ∀ (s : State) (k lat : Nat) (v : BitVec 64) (x : Vec),
    s.readS k 0 = (0 : BitVec 64) ∧ s.regNow k (.sreg 0) = 0 ∧ s.setReg k (.sreg 0) x = s ∧ s.postS k 0 v lat = s ∧ s.lateS k 0 v lat = s ∧
    sDest 0 = .none ∧ (∀ r, s.atS r → ∀ g b, Commits (.add g 0 b b) s [] Ctx.backEdge)

/-- A slot reads registers as they stood before its bundle; p0 reads as ones; a result that has landed replaces the value, one in its shadow may show lane by lane (03_bundles, 05_registers). -/
def Obligations.ReadsSeeTheStateBeforeTheBundle : Prop :=
  ∀ (s : State) (k : Nat) (d : Dest),
    let c := s.ctx k
    (s.readP k 0 = 0xffffffff ∧ s.setReg k (.preg 0) 0 = s) ∧
    (∀ r v, c.run = some r → oldOf r.olds d = some v → s.read k d = v) ∧
    (∀ r, c.run = some r → oldOf r.olds d = none → c.flights = [] → s.read k d = s.regNow k d) ∧
    (∀ r f, c.run = some r → oldOf r.olds d = none → c.flights = [f] → f.dest = d →
      (r.seq ≤ f.seq → s.read k d = s.regNow k d) ∧
      (f.seq < r.seq → f.acc = true → f.nominal ≤ r.issued → s.read k d = mergeDest d f.mask f.val (s.regNow k d)) ∧
      (∀ n, d = .vreg n → f.seq < r.seq → f.acc = true → r.issued < f.nominal → ∀ l, l < 32 →
        lane (s.read k d) l = lane (s.regNow k d) l ∨ lane (s.read k d) l = lane (mergeDest d f.mask f.val (s.regNow k d)) l))

/-- What reset leaves, where the spec gives the value (00_scope, 05_registers, 10_memories, 14_queues, 15_tables, 18_counters). It mentions no value that the model chose: those of log entry 1 are left out. -/
def Obligations.ResetLeavesTheStatedValues : Prop :=
  let s := State.reset
  s.mem.wf = true ∧ s.time = 0 ∧ s.gencur = 0 ∧ s.live = [] ∧ s.locks = [] ∧ s.cmds = [] ∧ s.ready = [] ∧ s.grids = [] ∧
  (∀ k, (s.ctx k).status = .free) ∧
  (∀ n, (s.core n).promote = 16 ∧ (s.core n).kgain = 0x8000 ∧ (s.core n).kcal = 0 ∧ (∀ i, lookD (s.core n).ktrim i 64 = 64) ∧ (s.core n).bundles = 0 ∧
    (s.core n).owner = none) ∧
  (∀ n, (s.cluster n).cycle = 0 ∧ (s.cluster n).droopth = 30 ∧ (s.cluster n).sticky = false ∧ (s.cluster n).droopev = 0 ∧
    (∀ i, lookD (s.cluster n).bars i Barrier.reset = ⟨96, 0, false, false, false⟩) ∧ ∀ i, lookD (s.cluster n).dcs i DepCtr.reset = ⟨0, false, []⟩) ∧
  (∀ p, p < 2 → (s.region p).live = true ∧ (s.region p).root = true ∧ (s.region p).rcb.prio = 8 ∧ (s.region p).rcb.cores = 1536 ∧ (s.port p).status = 1) ∧
  (∀ q, q < 32 → s.mem.nat (windowAddr (65536 * q + 0x44)) 4 = 1 ∧ s.mem.nat (windowAddr (65536 * q)) 4 = 0 ∧
    s.mem.nat (windowAddr (65536 * q + 0x40)) 4 = 0) ∧
  (∀ k, ∀ n ∈ [0x10d, 0x120, 0x121, 0x122, 0x123, 0x124, 0x125, 0x126, 0x127, 0x128, 0x130, 0x131, 0x132, 0x133, 0x138, 0x139, 0x13a, 0x143, 0x144, 0x150,
    0x151, 0x152, 0x153, 0x160, 0x161, 0x162, 0x163, 0x164, 0x170, 0x171], s.sysRead k n = 0) ∧
  ∀ a, 0x1000 ≤ tagOf a → tagOf a < 0x4000 → s.mem.read a = 0

/-- Every step keeps the canonical form of memory (10_memories, 13_memops, 15_tables, 00_scope). The canonical form is the model's own, log entry 6. -/
def Obligations.MemoryStaysCanonical : Prop :=
  ∀ s t : State, s.mem.wf = true → step s = .next t → t.mem.wf = true

/-- Taking an exception, in any slot, outside and inside a handler (19_events, 05_registers). -/
def Obligations.FaultsEnterTheHandler : Prop :=
  ∀ (s : State) (k slot : Nat) (r : Run) (t : Trap), (s.ctx k).run = some r → slot < 8 →
    let c := s.ctx k
    let fslot := if t.code = 0x0a then 0 else slot
    (c.inHandler = false → r.ldl = none → c.mustCommit = false → c.held = [] → c.committing = false →
      let u := s.raise k t slot
      let c' := u.ctx k
      let kept := c.sys.psw.getLsbD 3
      (s.leaveQueues k).onlyCtx u k ∧ c'.pc = c.sys.evec ∧ c'.run = none ∧ c'.refetch = true ∧ c'.wait = .none ∧
      c'.sys.fstat.toNat % 256 = t.code.toNat ∧ c'.sys.fstat.toNat / 256 % 8 = fslot ∧ (c'.sys.fstat.getLsbD 11 = t.late) ∧
      c'.sys.fstat.toNat / 4096 = c.sys.fstat.toNat / 4096 ∧ c'.sys.faddr = t.faddr ∧ c'.sys.fnode = (if t.late then t.fnode else c.sys.fnode) ∧
      c'.sys.epc = mkRp r.xb.addr slot r.xb.back r.xb.bidx ∧ c'.sys.etgt = (if kept then c.sys.etgt else r.xfer.getD c.sys.etgt) ∧ c'.latef = c.latef + (if t.late then 1 else 0) ∧
      c'.sregs = c.sregs ∧ c'.pregs = c.pregs ∧ c'.vregs = c.vregs ∧ c'.nodes = c.nodes ∧ c'.toks = c.toks ∧ c'.retStack = [] ∧
      (t.code ≠ 0x0c → c'.flights = c.flights) ∧ (c'.flights.map fun f => (f.dest, f.mask, f.val)) = (c.flights.map fun f => (f.dest, f.mask, f.val)) ∧
      c'.lcnt = c.lcnt ∧ c'.lbody = c.lbody ∧
      ∀ i, i < 32 → c'.sys.psw.getLsbD i = if i < 3 then slot.testBit i else if i = 3 then kept || r.xfer.isSome else if i = 4 then true
        else if i = 9 then c.sys.psw.getLsbD 10 else if i = 10 then false else c.sys.psw.getLsbD i) ∧
    (c.inHandler = false → c.mustCommit = true ∨ c.held ≠ [] ∨ r.ldl ≠ none ∨ c.committing = true →
      let u := s.raise k t slot
      let c' := u.ctx k
      s.onlyCtx u k ∧ c'.committing = true ∧ c'.wait = .commit ∧ c'.run = c.run ∧ c'.pc = c.pc ∧ c'.sys = c.sys ∧ c'.held = c.held ++ r.ldl.toList ∧
      c'.pendTrap = some ⟨t, mkRp r.xb.addr 0 r.xb.back r.xb.bidx, slot, fslot, if c.sys.psw.getLsbD 3 then some c.sys.etgt else r.xfer⟩) ∧
    (c.inHandler = true →
      let u := s.raise k t slot
      s.failsWith u c.region 0x3b ∧
      ∀ j, j ≠ k → (s.ctx j).ofRegions (failSet s c.region) = false → u.ctx j = s.ctx j)

/-- ERET leaves the handler and re-enters the bundle that EPC names (19_events, 05_registers). That a return to the last slot of an ended task body ends it again, and only where no transfer was taken, rests on log entries 58 and 108; that held operations go on is the model's reading, log entry 12; that EPC and PSTEP count as before the bundle is log entry 16. -/
def Obligations.EretReturns : Prop :=
  ∀ (s : State) (r : Run) (g : Guard), s.atSlot 7 r → r.brk = false → r.ldl = none →
    let c := s.ctx s.cur
    (c.inHandler = true → s.guard s.cur g = true →
      ∃ t, exec (.eret g) s = .next t ∧ s.onlyCtx t s.cur ∧
        let c' := t.ctx s.cur
        let last := if r.fallEnd && r.xfer.isNone then some (mkRp r.xb.addr 7 r.xb.back r.xb.bidx) else c.endRp
        c'.pc = r.sys0.epc ∧ c'.run = none ∧ c'.refetch = true ∧ (c'.ending = last.any fun x => x.toNat % 2 ^ 52 == r.sys0.epc.toNat % 2 ^ 52) ∧
        c'.held = c.heldBack ++ c.held ∧ c'.sys = { c.sys with psw := c'.sys.psw } ∧
        (∀ i, i < 32 → c'.sys.psw.getLsbD i = if i < 3 then false else if i = 4 then false else if i = 10 then r.sys0.psw.getLsbD 9
          else c.sys.psw.getLsbD i) ∧
        c'.sregs = c.sregs ∧ c'.pregs = c.pregs ∧ c'.vregs = c.vregs ∧ c'.flights = c.flights ∧ c'.lcnt = c.lcnt ∧ c'.lbody = c.lbody) ∧
    (c.inHandler = true → s.guard s.cur g = false → exec (.eret g) s = exec .nop s) ∧
    (c.inHandler = false → exec (.eret g) s = .next (s.raise s.cur ⟨0x02, BitVec.ofNat 64 (encode (.eret g)), 0, false⟩ 7))

/-- ADD, SUB, AND, OR, XOR, ANDN, SHL, SHR and SRA in both forms (08_scalar, 05_registers, 03_bundles). -/
def Obligations.ScalarSumsLogicAndShifts : Prop :=
  ∀ (g : Guard) (d a b n : BitVec 6) (imm : BitVec 18),
    Computes (.add g d a b) g d (fun s => BitVec.ofInt 64 ((s.xS a).toInt + (s.xS b).toInt)) ∧
    Computes (.addImm g d a imm) g d (fun s => BitVec.ofInt 64 ((s.xS a).toInt + imm.toInt)) ∧
    Computes (.sub g d a b) g d (fun s => BitVec.ofInt 64 ((s.xS a).toInt - (s.xS b).toInt)) ∧
    Computes (.subImm g d a imm) g d (fun s => BitVec.ofInt 64 ((s.xS a).toInt - imm.toInt)) ∧
    Computes (.and g d a b) g d (fun s => s.xS a &&& s.xS b) ∧ Computes (.andImm g d a imm) g d (fun s => s.xS a &&& sx imm) ∧
    Computes (.or g d a b) g d (fun s => s.xS a ||| s.xS b) ∧ Computes (.orImm g d a imm) g d (fun s => s.xS a ||| sx imm) ∧
    Computes (.xor g d a b) g d (fun s => s.xS a ^^^ s.xS b) ∧ Computes (.xorImm g d a imm) g d (fun s => s.xS a ^^^ sx imm) ∧
    Computes (.andn g d a b) g d (fun s => s.xS a &&& ~~~ s.xS b) ∧ Computes (.andnImm g d a imm) g d (fun s => s.xS a &&& ~~~ sx imm) ∧
    Computes (.shl g d a b) g d (fun s => BitVec.ofNat 64 ((s.xS a).toNat * 2 ^ ((s.xS b).toNat % 64))) ∧
    Computes (.shlImm g d a n) g d (fun s => BitVec.ofNat 64 ((s.xS a).toNat * 2 ^ n.toNat)) ∧
    Computes (.shr g d a b) g d (fun s => BitVec.ofNat 64 ((s.xS a).toNat / 2 ^ ((s.xS b).toNat % 64))) ∧
    Computes (.shrImm g d a n) g d (fun s => BitVec.ofNat 64 ((s.xS a).toNat / 2 ^ n.toNat)) ∧
    Computes (.sra g d a b) g d (fun s => BitVec.ofInt 64 ((s.xS a).toInt / 2 ^ ((s.xS b).toNat % 64))) ∧
    Computes (.sraImm g d a n) g d (fun s => BitVec.ofInt 64 ((s.xS a).toInt / 2 ^ n.toNat))

/-- MUL, MULH, MULHU, MIN, MAX, MINU and MAXU in both forms (08_scalar, 03_bundles). -/
def Obligations.ScalarProductsAndExtremes : Prop :=
  ∀ (g : Guard) (d a b : BitVec 6) (imm : BitVec 18),
    Computes (.mul g d a b) g d (fun s => BitVec.ofInt 64 ((s.xS a).toInt * (s.xS b).toInt)) ∧
    Computes (.mulImm g d a imm) g d (fun s => BitVec.ofInt 64 ((s.xS a).toInt * imm.toInt)) ∧
    Computes (.mulh g d a b) g d (fun s => BitVec.ofInt 64 ((s.xS a).toInt * (s.xS b).toInt / 2 ^ 64)) ∧
    Computes (.mulhImm g d a imm) g d (fun s => BitVec.ofInt 64 ((s.xS a).toInt * imm.toInt / 2 ^ 64)) ∧
    Computes (.mulhu g d a b) g d (fun s => BitVec.ofNat 64 ((s.xS a).toNat * (s.xS b).toNat / 2 ^ 64)) ∧
    Computes (.mulhuImm g d a imm) g d (fun s => BitVec.ofNat 64 ((s.xS a).toNat * (sx imm).toNat / 2 ^ 64)) ∧
    Computes (.min g d a b) g d (fun s => BitVec.ofInt 64 (Min.min (s.xS a).toInt (s.xS b).toInt)) ∧
    Computes (.minImm g d a imm) g d (fun s => BitVec.ofInt 64 (Min.min (s.xS a).toInt imm.toInt)) ∧
    Computes (.max g d a b) g d (fun s => BitVec.ofInt 64 (Max.max (s.xS a).toInt (s.xS b).toInt)) ∧
    Computes (.maxImm g d a imm) g d (fun s => BitVec.ofInt 64 (Max.max (s.xS a).toInt imm.toInt)) ∧
    Computes (.minu g d a b) g d (fun s => BitVec.ofNat 64 (Min.min (s.xS a).toNat (s.xS b).toNat)) ∧
    Computes (.minuImm g d a imm) g d (fun s => BitVec.ofNat 64 (Min.min (s.xS a).toNat (sx imm).toNat)) ∧
    Computes (.maxu g d a b) g d (fun s => BitVec.ofNat 64 (Max.max (s.xS a).toNat (s.xS b).toNat)) ∧
    Computes (.maxuImm g d a imm) g d (fun s => BitVec.ofNat 64 (Max.max (s.xS a).toNat (sx imm).toNat))

/-- DIV, DIVU, REM and REMU in both forms, their corner cases included (08_scalar, 06_formats). -/
def Obligations.ScalarDivisions : Prop :=
  ∀ (g : Guard) (d a b : BitVec 6) (imm : BitVec 18),
    let q : Word → Word → Word := fun x y => if y = 0 then BitVec.allOnes 64 else BitVec.ofInt 64 (x.toInt.tdiv y.toInt)
    let m : Word → Word → Word := fun x y => if y = 0 then x else BitVec.ofInt 64 (x.toInt.tmod y.toInt)
    let qu : Word → Word → Word := fun x y => if y = 0 then BitVec.allOnes 64 else BitVec.ofNat 64 (x.toNat / y.toNat)
    let mu : Word → Word → Word := fun x y => BitVec.ofNat 64 (x.toNat % y.toNat)
    Computes (.div g d a b) g d (fun s => q (s.xS a) (s.xS b)) ∧ Computes (.divImm g d a imm) g d (fun s => q (s.xS a) (sx imm)) ∧
    Computes (.divu g d a b) g d (fun s => qu (s.xS a) (s.xS b)) ∧ Computes (.divuImm g d a imm) g d (fun s => qu (s.xS a) (sx imm)) ∧
    Computes (.rem g d a b) g d (fun s => m (s.xS a) (s.xS b)) ∧ Computes (.remImm g d a imm) g d (fun s => m (s.xS a) (sx imm)) ∧
    Computes (.remu g d a b) g d (fun s => mu (s.xS a) (s.xS b)) ∧ Computes (.remuImm g d a imm) g d (fun s => mu (s.xS a) (sx imm))

/-- CLZ, CTZ, POPC, MOV, SEXT, ZEXT, LEA and LIT (08_scalar, 03_bundles). -/
def Obligations.ScalarUnary : Prop :=
  ∀ (g : Guard) (d a b : BitVec 6) (n : BitVec 7) (scale : BitVec 3) (disp : BitVec 9) (pair : Bool) (i : BitVec 2),
    Yields (.clz g d a) g d (fun s v => (s.xS a).toNat < 2 ^ (64 - v.toNat) ∧ v.toNat ≤ 64 ∧ (v.toNat < 64 → 2 ^ (63 - v.toNat) ≤ (s.xS a).toNat)) ∧
    Yields (.ctz g d a) g d (fun s v => (∀ j, j < v.toNat → (s.xS a).getLsbD j = false) ∧ v.toNat ≤ 64 ∧
      (v.toNat < 64 → (s.xS a).getLsbD v.toNat = true)) ∧
    Computes (.popc g d a) g d (fun s => BitVec.ofNat 64 ((List.range 64).countP fun j => (s.xS a).getLsbD j)) ∧
    Computes (.mov g d a) g d (fun s => s.xS a) ∧
    (Instr.wf (.sext g d a n) → Computes (.sext g d a n) g d (fun s => sx ((s.xS a).setWidth n.toNat))) ∧
    (Instr.wf (.zext g d a n) → Computes (.zext g d a n) g d (fun s => BitVec.ofNat 64 ((s.xS a).toNat % 2 ^ n.toNat))) ∧
    Computes (.lea g d a b scale disp) g d
      (fun s => BitVec.ofInt 64 ((s.xS a).toInt + (s.xS b).toInt * 2 ^ scale.toNat + disp.toInt)) ∧
    (∀ s r, s.atS r → Commits (.lit g d false i) s (if s.guard s.cur g then wS d (sx (r.xb.lits.extractLsb' (32 * i.toNat) 32)) else []) Ctx.backEdge) ∧
    ∀ s r, s.atS r → Instr.wf (.lit g d true i) →
      Commits (.lit g d true i) s (if s.guard s.cur g then wS d (r.xb.lits.extractLsb' (32 * i.toNat) 64) else []) Ctx.backEdge

/-- CMP.cc in both forms, PAND, POR, PXOR, PANDN and PFROMS write whole predicates (08_scalar, 03_bundles, 05_registers). -/
def Obligations.ComparesAndPredicates : Prop :=
  ∀ (g : Guard) (cc : Cond) (d e a b pa pb : BitVec 6) (pair : Bool) (i : BitVec 2),
    let holds : Word → Word → Bool := fun x y => match cc with
      | .eq => x.toNat = y.toNat | .ne => x.toNat ≠ y.toNat | .lt => x.toInt < y.toInt | .ge => y.toInt ≤ x.toInt
      | .le => x.toInt ≤ y.toInt | .gt => y.toInt < x.toInt | .ltu => x.toNat < y.toNat | .geu => y.toNat ≤ x.toNat
      | .leu => x.toNat ≤ y.toNat | .gtu => y.toNat < x.toNat | .tst => x &&& y ≠ 0 | .ntst => x &&& y = 0
    let all : Bool → BitVec 32 := fun c => if c then 0xffffffff else 0
    let p : State → BitVec 6 → Bool := fun s n => (s.xP n).getLsbD 0
    Tests (.cmp g cc d e a b) g (fun s => [(e, all (!holds (s.xS a) (s.xS b))), (d, all (holds (s.xS a) (s.xS b)))]) ∧
    Tests (.cmpLit g cc d e a pair i) g (fun s => [(e, all (!holds (s.xS a) (s.litWord s.cur pair i))), (d, all (holds (s.xS a) (s.litWord s.cur pair i)))]) ∧
    Tests (.pand g d pa pb) g (fun s => [(d, all (p s pa && p s pb))]) ∧ Tests (.por g d pa pb) g (fun s => [(d, all (p s pa || p s pb))]) ∧
    Tests (.pxor g d pa pb) g (fun s => [(d, all (p s pa != p s pb))]) ∧ Tests (.pandn g d pa pb) g (fun s => [(d, all (p s pa && !p s pb))]) ∧
    Tests (.pfroms g d a) g (fun s => [(d, all (s.xS a != 0))])

/-- PTOS, PCNT, PFIRST and DHOP (08_scalar, 15_tables). -/
def Obligations.PredicatesToScalars : Prop :=
  ∀ (g : Guard) (d a b pa : BitVec 6),
    Computes (.ptos g d pa) g d (fun s => BitVec.ofNat 64 (s.xP pa).toNat) ∧
    Computes (.pcnt g d pa) g d (fun s => BitVec.ofNat 64 ((List.range 32).countP fun j => (s.xP pa).getLsbD j)) ∧
    Yields (.pfirst g d pa) g d (fun s v => (∀ j, j < v.toNat → (s.xP pa).getLsbD j = false) ∧ v.toNat ≤ 32 ∧
      (v.toNat < 32 → (s.xP pa).getLsbD v.toNat = true)) ∧
    Computes (.dhop g d a b) g d (fun s =>
      let t := (s.region (s.ctx s.cur).region).rcb.dbt
      match t[(s.xS a).toNat]?, t[(s.xS b).toNat]? with
      | some p, some q =>
        if 15 < (s.xS a).toNat ∨ 15 < (s.xS b).toNat ∨ p.kind = .absent ∨ q.kind = .absent then BitVec.allOnes 64
        else BitVec.ofNat 64 (((p.socket % 4 : Int) - q.socket % 4).natAbs + ((p.socket / 4 : Int) - q.socket / 4).natAbs)
      | _, _ => BitVec.allOnes 64)

/-- BR, BRI, CALL, CALLI and RET: target, link and the transfer at the end of the bundle (08_scalar, 02_execution, 03_bundles). -/
def Obligations.TransfersTake : Prop :=
  (∀ (c : Ctx) (x : BitVec 32), rpAddr (c.resolve x) = x ∧ rpSlot (c.resolve x) = 0) ∧
  ∀ (s : State) (r : Run) (g : Guard) (off : BitVec 30) (d a : BitVec 6), s.atS r →
    let c := s.ctx s.cur
    let near := c.resolve (r.xb.addr + BitVec.ofInt 32 (4 * off.toInt))
    let push : Ctx → Ctx := fun c => { c with retStack := (r.fall :: c.retStack).take 8 }
    if s.guard s.cur g then
      Commits (.br g off) s [] (fun c => c.takes near) ∧
      Commits (.call g off) s (wS 63 r.fall) (fun c => (push c).takes near) ∧
      ∃ far, rpAddr far = rpAddr (s.xS a) ∧ rpSlot far = 0 ∧ rpBack far = rpBack (s.xS a) ∧ rpBidx far = rpBidx (s.xS a) ∧ far.toNat < 2 ^ 52 ∧
        Commits (.bri g a) s [] (fun c => c.takes far) ∧
        Commits (.calli g d a) s (wS d r.fall) (fun c => (push c).takes far) ∧
        Commits (.ret g a) s []
          (fun c => { c with retStack := c.retStack.tail, quick := decide (c.retStack.head? = some far) }.takes far)
    else ∀ i ∈ [Instr.br g off, .bri g a, .call g off, .calli g d a, .ret g a], Commits i s [] Ctx.backEdge

/-- LOOP sets up a level or passes over its body; LOOPX leaves an active level (08_scalar, 05_registers). That a LOOP under a false guard leaves the back-edge test to run is the model's reading of R172, log entry 56. -/
def Obligations.LoopsBeginAndEnd : Prop :=
  ∀ (s : State) (r : Run) (g : Guard) (lvl : BitVec 2) (a : BitVec 6) (span : BitVec 18), s.atS r →
    let c := s.ctx s.cur
    let start := rpAddr r.fall
    let count := (s.xS a).setWidth 32
    let body := lookD c.lbody lvl.toNat 0
    (∀ e from_ b x, c.resident e = some (b, x) → s.afterBundle s.cur from_ e = (b.after x).1) ∧
    if s.guard s.cur g then
      (count ≠ 0 → Commits (.loop g lvl a span) s [] (fun c => { c with
        lcnt := put c.lcnt lvl.toNat count, lbody := put c.lbody lvl.toNat (mkLb start span.toNat true), loopRp := put c.loopRp lvl.toNat r.fall
        run := c.run.map fun r => { r with noBack := true } })) ∧
      (count = 0 → Commits (.loop g lvl a span) s []
        (fun c => c.takes (s.afterBundle s.cur r.fall (start + BitVec.ofNat 32 (4 * span.toNat))))) ∧
      (lbAct body = false → Commits (.loopx g lvl) s [] Ctx.backEdge) ∧
      (lbAct body = true → ∃ bodies, Commits (.loopx g lvl) s [] (fun c => { c with lbody := bodies }.takes (s.afterBundle s.cur (c.bodyRp lvl.toNat) (lbEnd body))) ∧
        ∀ n, lookD bodies n 0 = if lvl.toNat ≤ n then lookD c.lbody n 0 &&& 0x7fffffffffffffff else lookD c.lbody n 0)
    else Commits (.loop g lvl a span) s [] Ctx.backEdge ∧ Commits (.loopx g lvl) s [] Ctx.backEdge

/-- The back-edge test when an S slot commits, seen at a NOP (08_scalar). -/
def Obligations.BackEdgeTestOfEveryBundle : Prop :=
  ∀ (s : State) (r : Run), s.atS r →
    let c := s.ctx s.cur
    let ends : Nat → Prop := fun n => lbAct (lookD c.lbody n 0) = true ∧ lbEnd (lookD c.lbody n 0) = r.xb.addr
    (c.inHandler = true ∨ r.noBack = true ∨ (∀ n, n < 4 → ¬ ends n) → Commits .nop s [] id) ∧
    (c.inHandler = false → r.noBack = false → ∀ n, n < 4 → ends n → (∀ m, n < m → m < 4 → ¬ ends m) →
      let v := lookD c.lcnt n 0 - 1
      (v ≠ 0 → Commits .nop s [] (fun c => { c with
        lcnt := put c.lcnt n v, run := c.run.map fun r => { r with xfer := some (c.resolve (lbAddr (lookD c.lbody n 0))) } })) ∧
      (v = 0 → (∀ m, m < n → ¬ ends m) → Commits .nop s [] (fun c => { c with
        lcnt := put c.lcnt n 0, lbody := put c.lbody n (lookD c.lbody n 0 &&& 0x7fffffffffffffff) })))

/-- MFSR answers the register its number names (05_registers, 08_scalar, 18_counters). That counters are exact at every read is the model's choice, log entry 75; one TIME for all dies is log entry 85. -/
def Obligations.SystemRegisterReads : Prop :=
  ∀ (g : Guard) (d : BitVec 6),
    let reads : Nat → (State → Word) → Prop := fun n v => Computes (.mfsr g d (BitVec.ofNat 12 n)) g d v
    let ctx : State → Ctx := fun s => s.ctx s.cur
    let co : State → Core := fun s => s.core (s.cur / 4)
    let cl : State → Cluster := fun s => s.cluster (s.cur / 384)
    let die : State → Die := fun s => s.die (s.cur / 768)
    let f : Nat → Nat → Nat := fun v lo => v * 2 ^ lo
    (reads 0x000 fun s => (ctx s).sys.psw.setWidth 64) ∧ (reads 0x001 fun s => (ctx s).sys.epc) ∧ (reads 0x002 fun s => (ctx s).sys.etgt) ∧
    (reads 0x003 fun s => (ctx s).sys.evec) ∧ (reads 0x004 fun s => (ctx s).sys.fstat) ∧ (reads 0x005 fun s => (ctx s).sys.faddr) ∧
    (reads 0x006 fun s => (ctx s).sys.fnode) ∧ (reads 0x008 fun s => (ctx s).sys.gvsel.setWidth 64) ∧
    (reads 0x010 fun s => BitVec.ofNat 64 (cl s).cycle) ∧ (reads 0x011 fun s => BitVec.ofNat 64 s.time) ∧
    (reads 0x018 fun s => (co s).promote.setWidth 64) ∧ (reads 0x019 fun s => (co s).kgain.setWidth 64) ∧ (reads 0x01a fun s => (co s).kcal) ∧
    (reads 0x020 fun s => s.gencur.setWidth 64) ∧
    (∀ n, n < 4 → (reads (0x030 + n) fun s => (lookD (ctx s).lcnt n 0).setWidth 64) ∧ reads (0x034 + n) fun s => lookD (ctx s).lbody n 0) ∧
    (∀ n, n < 64 → reads (0x040 + n) fun s => (lookD (co s).ktrim n 64).setWidth 64) ∧
    (reads 0x100 fun s => BitVec.ofNat 64 ((ctx s).ldc + f (ctx s).stc 8 + f (ctx s).cpc 16 + f (ctx s).tlc 24)) ∧
    (reads 0x108 fun s => (ctx s).sys.dcsel) ∧ (reads 0x10a fun s => (ctx s).sys.barsel) ∧ (reads 0x10c fun s => (ctx s).barst) ∧
    (reads 0x109 fun s =>
      let x := lookD (cl s).dcs ((ctx s).sys.dcsel.toNat % 512) DepCtr.reset
      BitVec.ofNat 64 (x.count.toNat + (if x.err then 2 ^ 16 else 0) + (if x.links = [] then 0 else 2 ^ 17))) ∧
    (reads 0x130 fun s => (co s).bundles) ∧ (reads 0x131 fun s => (co s).switches) ∧ (reads 0x132 fun s => (co s).slackst) ∧
    (reads 0x133 fun s => (co s).latest) ∧ (reads 0x138 fun s => (cl s).droopev) ∧ (reads 0x139 fun s => (cl s).strcyc) ∧
    (reads 0x13a fun s => (cl s).halfcyc) ∧ (reads 0x140 fun s => (ctx s).impld) ∧ (reads 0x141 fun s => (ctx s).ovff) ∧
    (reads 0x142 fun s => (ctx s).latef) ∧ (reads 0x143 fun s => (co s).caldr) ∧ (reads 0x144 fun s => (co s).trimf) ∧
    (reads 0x150 fun s => s.presv) ∧ (reads 0x151 fun s => s.drnb) ∧ (reads 0x152 fun s => s.genstall) ∧ (reads 0x153 fun s => s.genfulls) ∧
    (reads 0x160 fun s => (die s).audits) ∧ (reads 0x161 fun s => (die s).leaks) ∧ (reads 0x162 fun s => (die s).leakfl) ∧
    (reads 0x163 fun s => (die s).repeats) ∧ (reads 0x164 fun s => (die s).feccor) ∧ (reads 0x170 fun s => (die s).ageosc) ∧
    (reads 0x171 fun s => (die s).eol) ∧
    (reads 0x007 fun s => (BitVec.ofNat 32 (s.cur % 4 + (if (ctx s).prot then s.cur / 4 % 96 / 2 * 2 else s.cur / 4 % 96) * 4 + f (s.cur / 384 % 2) 9 + f (s.cur / 768) 10
      + f ((ctx s).win / 64 % 16) 14 + f ((ctx s).nbank % 16) 18 + (if (ctx s).kown then 2 ^ 22 else 0) + if (ctx s).prot then 2 ^ 23 else 0)).setWidth 64) ∧
    Yields (.mfsr g d 0x101) g d (fun s v => ∀ n, n < 16 → v.toNat / 2 ^ (4 * n) % 16 =
      (match ((ctx s).tok n).st with | .none => 0 | .pending => 1 | .produced => 2) + if ((ctx s).tok n).err then 4 else 0) ∧
    (reads 0x01c fun s => (match (cl s).oldFor 0x01c s.cur with | some e => e.droopth | none => (cl s).droopth).setWidth 64) ∧
    (reads 0x01d fun s => BitVec.ofNat 64 ((match (cl s).droop with | .stretch _ => 1 | .half _ => 2 | .off => 0)
      + if (match (cl s).oldFor 0x01d s.cur with | some e => e.sticky | none => (cl s).sticky) then 4 else 0)) ∧
    (reads 0x10b fun s => let b := (ctx s).sys.barsel.toNat % 32
      let w := lookD (match (cl s).oldFor (0x1000 + b) s.cur with | some e => e.bars | none => (cl s).bars) b Barrier.reset
      BitVec.ofNat 64 (w.target.toNat + f w.count.toNat 16 + (if w.phase then 2 ^ 28 else 0) + (if w.err then 2 ^ 29 else 0) + if w.perr then 2 ^ 30 else 0)) ∧
    (reads 0x10d fun s => BitVec.ofNat 64 ((cl s).timers.map fun t => 2 ^ (t.1 % 64)).sum) ∧
    ∀ n, n < 9 → reads (0x120 + n) fun s => lookD (cl s).traffic n 0

/-- MTSR writes the register its number names, with the bits it has (05_registers, 08_scalar, 18_counters). That a write to BARVAL waits for the end of its cycle is the model's reading, log entry 65. -/
def Obligations.SystemRegisterWrites : Prop :=
  (∀ (cl : Cluster) (b k : Nat) (w : Word), cl.barPend = [(b, k, w)] →
    let x := lookD cl.bars b Barrier.reset
    let y := lookD cl.settleBars.bars b Barrier.reset
    let target := if w.toNat % 512 = 0 then 1 else Nat.min 384 (w.toNat % 512)
    cl.settleBars.barPend = [] ∧ (∀ i, i ≠ b → lookD cl.settleBars.bars i Barrier.reset = lookD cl.bars i Barrier.reset) ∧ y.target.toNat = target ∧
      (x.count.toNat = 0 ∨ x.count.toNat < target → y = { x with target := y.target, err := w.getLsbD 29 }) ∧
      (x.count.toNat ≠ 0 → target ≤ x.count.toNat → y = { x with target := y.target, count := 0, perr := w.getLsbD 29, err := false, phase := !x.phase })) ∧
  (∀ (cl : Cluster) (b j k : Nat) (v w : Word), coreOf j < coreOf k → cl.barPend = [(b, j, v), (b, k, w)] ∨ cl.barPend = [(b, k, w), (b, j, v)] →
    let first := { cl with barPend := [(b, j, v)] }.settleBars
    lookD cl.settleBars.bars b Barrier.reset = lookD { first with barPend := [(b, k, w)] }.settleBars.bars b Barrier.reset) ∧
  ∀ (s : State) (r : Run) (g : Guard) (a : BitVec 6), s.atS r →
    let v := s.xS a
    let ok := s.guard s.cur g = true
    let h := (s.ctx s.cur).inHandler
    let rp := v &&& 0x000fffffffffffff
    let sets : Nat → (Sys → Sys) → Prop := fun n f =>
      Commits (.mtsr g a (BitVec.ofNat 12 n)) s [] (fun c => ({ c with sys := f c.sys } : Ctx).backEdge)
    (ok → h = true → sets 0x001 (fun x => { x with epc := rp }) ∧ sets 0x002 (fun x => { x with etgt := rp }) ∧
      sets 0x003 (fun x => { x with evec := rp }) ∧ sets 0x004 (fun x => if (s.ctx s.cur).attachAt = some (s.cyc s.cur) then x else { x with fstat := v &&& 0x000003ff01ff0fff }) ∧
      sets 0x005 (fun x => { x with faddr := v }) ∧ sets 0x006 (fun x => { x with fnode := rp })) ∧
    (ok → sets 0x108 (fun x => { x with dcsel := v &&& 0x1ff }) ∧ sets 0x10a (fun x => { x with barsel := v &&& 0x1f })) ∧
    (ok → ∀ n, n < 4 →
      Commits (.mtsr g a (BitVec.ofNat 12 (0x030 + n))) s [] (fun c => ({ c with lcnt := put c.lcnt n (v.setWidth 32) } : Ctx).backEdge) ∧
      Commits (.mtsr g a (BitVec.ofNat 12 (0x034 + n))) s [] (fun c => ({ c with lbody := put c.lbody n (v &&& 0x8003ffffffffffff) } : Ctx).backEdge)) ∧
    (ok → ∃ p : BitVec 32, Commits (.pswWrite g a) s [] (fun c => ({ c with sys := { c.sys with psw := p } } : Ctx).backEdge) ∧
      ∀ i, i < 32 → p.getLsbD i =
        if i = 5 ∨ i = 11 ∨ (h = true ∧ (i < 4 ∨ i = 9 ∨ i = 10)) then v.getLsbD i else (s.ctx s.cur).sys.psw.getLsbD i) ∧
    (ok → (s.ctx s.cur).kown = true → CommitsFrom (.promoteWrite g a) s
      (s.modCore (coreOf s.cur) fun co => { co with promote := BitVec.ofNat 7 (Max.max 1 (Min.min 64 (v.toNat % 128))) }) [] Ctx.backEdge) ∧
    (ok → h = true → (s.cluster (clusterOf s.cur)).seen = [] → ∃ seen, CommitsFrom (.droopthWrite g a) s (s.modCluster (clusterOf s.cur) fun cl =>
        { cl with droopth := BitVec.ofNat 7 (Max.max 10 (Min.min 100 (v.toNat % 128))), seen := seen }) [] Ctx.backEdge) ∧
    (ok → ∃ seen, CommitsFrom (.droopstWrite g a) s (s.modCluster (clusterOf s.cur) fun cl =>
        { cl with sticky := cl.sticky && (!v.getLsbD 2 || cl.alarms.contains cl.cycle), seen := seen }) [] Ctx.backEdge) ∧
    (ok → CommitsFrom (.barvalWrite g a) s (s.modCluster (clusterOf s.cur) fun cl =>
        { cl with barPend := cl.barPend ++ [((s.ctx s.cur).sys.barsel.toNat % 32, s.cur, v)] }) [] Ctx.backEdge) ∧
    (s.guard s.cur g = false → h = true → (s.ctx s.cur).kown = true → ∀ i ∈ [Instr.mtsr g a 0x001, .mtsr g a 0x108, .pswWrite g a,
      .promoteWrite g a, .droopthWrite g a, .droopstWrite g a, .barvalWrite g a], Commits i s [] Ctx.backEdge)

/-- MTSR to a register that may not be written raises PRIV, whatever the guard (05_registers, 03_bundles). -/
def Obligations.PrivilegedWritesTrap : Prop :=
  ∀ (s : State) (g : Guard) (a : BitVec 6) (n : BitVec 12),
    let priv : Instr → State := fun i => s.raise s.cur ⟨0x02, BitVec.ofNat 64 (encode i), 0, false⟩ (s.ctx s.cur).slotNow
    let h := (s.ctx s.cur).inHandler
    (accessOf n.toNat = .r → exec (.mtsr g a n) s = .next (priv (.mtsr g a n))) ∧
    (accessOf n.toNat = .h → h = false → exec (.mtsr g a n) s = .next (priv (.mtsr g a n))) ∧
    (∀ m ∈ [0x007, 0x008, 0x010, 0x011, 0x019, 0x01a, 0x020, 0x040, 0x07f, 0x100, 0x101, 0x109, 0x10c, 0x10d, 0x120, 0x130, 0x140, 0x150, 0x160, 0x171],
      accessOf m = .r) ∧
    (∀ m ∈ [0x001, 0x002, 0x003, 0x004, 0x005, 0x006, 0x01c], accessOf m = .h) ∧
    (h = false → exec (.droopthWrite g a) s = .next (priv (.droopthWrite g a))) ∧
    ((s.ctx s.cur).kown = false → exec (.promoteWrite g a) s = .next (priv (.promoteWrite g a))) ∧
    (h = false → exec (.eret g) s = .next (priv (.eret g))) ∧
    (h = true → exec (.suspend g) s = .next (priv (.suspend g)) ∧ exec (.yield g) s = .next (priv (.yield g)))

/-- TRAP commits and then takes the trap with its code (08_scalar, 19_events, 05_registers). -/
def Obligations.TrapInstructionEntersHandler : Prop :=
  ∀ (s : State) (r : Run) (g : Guard) (code : BitVec 12), s.atS r → r.ldl = none →
    let c := s.ctx s.cur
    c.inHandler = false → c.mustCommit = false → c.held = [] → c.committing = false →
    if s.guard s.cur g then
      ∃ t, exec (.trap g code) s = .next t ∧ (s.leaveQueues s.cur).onlyCtx t s.cur ∧ s.hasWritten t s.cur [] ∧
        let c' := t.ctx s.cur
        let kept := c.sys.psw.getLsbD 3
        let x := c.backEdge.run.bind fun r => r.xfer
        c'.pc = c.sys.evec ∧ c'.run = none ∧ c'.wait = .none ∧ c'.refetch = true ∧
        c'.sys.fstat.toNat % 256 = 0x0a ∧ c'.sys.fstat.toNat / 256 % 16 = 0 ∧ c'.sys.fstat.toNat / 4096 = c.sys.fstat.toNat / 4096 ∧
        c'.sys.faddr = BitVec.ofNat 64 code.toNat ∧ c'.sys.fnode = c.sys.fnode ∧
        c'.sys.epc = mkRp r.xb.addr 1 r.xb.back r.xb.bidx ∧ c'.sys.etgt = (if kept then c.sys.etgt else x.getD c.sys.etgt) ∧
        c'.lcnt = c.backEdge.lcnt ∧ c'.lbody = c.backEdge.lbody ∧
        ∀ i, i < 32 → c'.sys.psw.getLsbD i = if i < 3 then i == 0 else if i = 3 then kept || x.isSome else if i = 4 then true
          else if i = 9 then c.sys.psw.getLsbD 10 else if i = 10 then false else c.sys.psw.getLsbD i
    else Commits (.trap g code) s [] Ctx.backEdge

/-- VADD, VSUB, VMUL, VFMA, VFMS, VFNMA, VMIN, VMAX, VCPYS, VCLAMP, VABS, VNEG and VRND lane by lane (09_vector, 06_formats, 03_bundles). -/
def Obligations.VectorFloatArithmetic : Prop :=
  (fp32.IsFormat 8 23 127 (2 ^ 24 - 1) 0x7fc00000 true ∧ Machine.bf16.IsFormat 8 7 127 (2 ^ 8 - 1) 0x7fc0 true ∧ fp16.IsFormat 5 10 15 (2 ^ 11 - 1) 0x7e00 true) ∧
  (∀ (mode : RMode) (s t : Bool) (m n : Nat) (e g : Int),
    let signed : Bool → Nat → Int := fun neg k => if neg then -(k : Int) else k
    (FVal.fin s m e).mul (.fin t n g) = .fin (s != t) (m * n) (e + g) ∧ (FVal.fin s m e).neg = .fin (!s) m e ∧
    ∃ neg k h, (FVal.fin s m e).add mode (.fin t n g) = .fin neg k h ∧ h ≤ e ∧ h ≤ g ∧
      signed neg k = signed s m * 2 ^ (e - h).toNat + signed t n * 2 ^ (g - h).toNat ∧ (k = 0 → neg = if s = t then s else decide (mode = .rdn))) ∧
  (∀ (mode : RMode) (s t : Bool) (m : Nat) (e : Int) (v : FVal),
    FVal.nan.mul v = .nan ∧ v.mul .nan = .nan ∧ FVal.nan.add mode v = .nan ∧ v.add mode .nan = .nan ∧ FVal.nan.neg = .nan ∧ (FVal.inf s).neg = .inf (!s) ∧
    (FVal.inf s).mul (.inf t) = .inf (s != t) ∧ (FVal.inf s).mul (.fin t m e) = (if m = 0 then .nan else .inf (s != t)) ∧
    (FVal.fin t m e).mul (.inf s) = (if m = 0 then .nan else .inf (t != s)) ∧ (FVal.inf s).add mode (.inf t) = (if s = t then .inf s else .nan) ∧
    (FVal.inf s).add mode (.fin t m e) = .inf s ∧ (FVal.fin t m e).add mode (.inf s) = .inf s) ∧
  (∀ (f : Fmt) (mode : RMode) (sat : Bool) (a b c : Nat), f ∈ [fp32, Machine.bf16, fp16] →
    let x : Nat → FVal := fun a => match f.val a with | .inf neg => if sat then f.val (f.enc neg f.maxFin) else .inf neg | v => v
    let less : Nat → Nat → Bool := fun a b => if f.sign a then !f.sign b || decide (f.mag b < f.mag a) else !f.sign b && decide (f.mag a < f.mag b)
    f.add mode sat a b = f.round mode sat ((x a).add mode (x b)) ∧ f.sub mode sat a b = f.round mode sat ((x a).add mode (x b).neg) ∧
    f.mul mode sat a b = f.round mode sat ((x a).mul (x b)) ∧ f.fma mode sat a b c = f.round mode sat (((x a).mul (x b)).add mode (x c)) ∧
    f.fms mode sat a b c = f.round mode sat (((x a).mul (x b)).add mode (x c).neg) ∧
    f.fnma mode sat a b c = f.round mode sat ((x c).add mode ((x a).mul (x b)).neg) ∧
    (f.val a = .nan ∨ f.val b = .nan → f.min a b = f.nan ∧ f.max a b = f.nan) ∧
    (f.val a ≠ .nan → f.val b ≠ .nan → f.min a b = (if less b a then b else a) ∧ f.max a b = (if less a b then b else a)) ∧
    ∀ neg m e, f.val a = .fin neg m e → ∃ w, RoundsUnit mode neg m e 0 w ∧ f.rnd mode a = f.round .rne false (.fin neg w 0)) ∧
  ∀ (t : FTy) (o : VBin) (u : VUn),
    let w := match t with | .f32 => 32 | .bf16 => 16 | .f16 => 16
    let f := match t with | .f32 => fp32 | .bf16 => Machine.bf16 | .f16 => fp16
    MapsBin (.vadd t o) o w 4 (fun a b _ => f.add o.rm o.sat a b) ∧ MapsBin (.vsub t o) o w 4 (fun a b _ => f.sub o.rm o.sat a b) ∧
    MapsBin (.vmul t o) o w 4 (fun a b _ => f.mul o.rm o.sat a b) ∧ MapsBin (.vfma t o) o w 4 (fun a b c => f.fma o.rm o.sat a b c) ∧
    MapsBin (.vfms t o) o w 4 (fun a b c => f.fms o.rm o.sat a b c) ∧ MapsBin (.vfnma t o) o w 4 (fun a b c => f.fnma o.rm o.sat a b c) ∧
    MapsBin (.vmin t o) o w 2 (fun a b _ => f.min a b) ∧ MapsBin (.vmax t o) o w 2 (fun a b _ => f.max a b) ∧
    MapsBin (.vcpys t o) o w 2 (fun a b _ => if f.isNaN a then f.nan else a % 2 ^ (w - 1) + b / 2 ^ (w - 1) * 2 ^ (w - 1)) ∧
    MapsBin (.vclamp t o) o w 2 (fun a b c => f.min (f.max c a) b) ∧
    MapsElems (.vabs t u) u w 2 (fun a => if f.isNaN a then f.nan else a % 2 ^ (w - 1)) ∧
    MapsElems (.vneg t u) u w 2 (fun a => if f.isNaN a then f.nan else a + 2 ^ (w - 1)) ∧
    MapsElems (.vrnd t u) u w 4 (f.rnd u.rm)

/-- VSQRT, VRCP, VRSQ, VEXP2, VLOG2, VSIG and VTANH lane by lane (09_vector, 06_formats). That f and r of VEXP2 are exact also where FP32 cannot hold them is the model's choice, log entry 87. -/
def Obligations.VectorFunctions : Prop :=
  let nan := 0x7fc00000
  let inf := 0x7f800000
  let minusInf := 0xff800000
  let one := 0x3f800000
  let fin : Nat → FVal → Prop := fun x v => x < 2 ^ 32 ∧ fp32.val x = v
  let fmaV : FVal → FVal → FVal → Nat := fun a b c => fp32.round .rne false ((a.mul b).add .rne c)
  let mul : Nat → Nat → Nat := fun a b => fp32.round .rne false ((fp32.val a).mul (fp32.val b))
  let add : Nat → Nat → Nat := fun a b => fp32.round .rne false ((fp32.val a).add .rne (fp32.val b))
  let fma : Nat → Nat → Nat → Nat := fun a b c => fmaV (fp32.val a) (fp32.val b) (fp32.val c)
  let minus : Nat → Nat := fun a => if a < 2 ^ 31 then a + 2 ^ 31 else a - 2 ^ 31
  let scale : Nat → Int → Nat := fun y n => match fp32.val y with | .fin s m e => fp32.round .rne false (.fin s m (e + n)) | v => fp32.round .rne false v
  let at_ : List Nat → Nat → Nat := fun l j => l.getD j 0
  let thrice : (Nat → Nat) → Nat → Nat := fun f y => f (f (f y))
  (∀ l ∈ [(tabG, [100000000, 88888889, 80000000, 72727273, 66666667, 61538462, 57142857, 53333333]),
      (tabL, [0, 16992500, 32192809, 45943162, 58496250, 70043972, 80735492, 90689060]),
      (tabX, [100000000, 109050773, 118920712, 129683955, 141421356, 154221083, 168179283, 183400809]),
      (tabQ, [94280904, 85280287, 78446454, 73029674, 66666667, 60302269, 55470020, 51639778]),
      (coefB, [144269504, 72134752, 48089835, 36067376, 28853901, 24044917, 20609929, 18033688]),
      ([c1, c2, c3, c4, c5], [69314718, 24022651, 5550411, 961813, 133336]), ([a3, a5, a7], [33333333, 13333333, 5396825]), ([k1, k2], [144269504, 288539008])],
    l.1.length = l.2.length ∧ ∀ i, i < l.1.length → IsDecimal (at_ l.1 i) (at_ l.2 i)) ∧
  (∀ i, i < 8 → ((at_ coefB i).testBit 31 ↔ i % 2 = 1)) ∧ (a3.testBit 31 = true ∧ a5.testBit 31 = false ∧ a7.testBit 31 = true) ∧
  (∀ x, fin x .nan → (∀ mode, sqrt32 mode x = nan) ∧ ∀ f ∈ [rcp32, rsq32, exp232, log232, sig32, tanh32], f x = nan) ∧
  (rcp32 minusInf = 2 ^ 31 ∧ rcp32 (2 ^ 31) = minusInf ∧ rcp32 0 = inf ∧ rcp32 inf = 0 ∧ rsq32 minusInf = nan ∧ rsq32 (2 ^ 31) = minusInf ∧ rsq32 0 = inf ∧ rsq32 inf = 0 ∧
    exp232 minusInf = 0 ∧ exp232 inf = inf ∧ log232 minusInf = nan ∧ log232 (2 ^ 31) = minusInf ∧ log232 0 = minusInf ∧ log232 inf = inf ∧ tanh32 (2 ^ 31) = 2 ^ 31 ∧ tanh32 0 = 0) ∧
  (∀ (x m : Nat) (e : Int), fin x (.fin true m e) → m ≠ 0 → rsq32 x = nan ∧ log232 x = nan ∧ ∀ mode, sqrt32 mode x = nan) ∧
  (∀ mode, sqrt32 mode (2 ^ 31) = 2 ^ 31 ∧ sqrt32 mode 0 = 0 ∧ sqrt32 mode inf = inf ∧ sqrt32 mode minusInf = nan) ∧
  (∀ (mode : RMode) (x m : Nat) (e : Int), fin x (.fin false m e) → m ≠ 0 → ∃ (w : Nat) (q : Int), 2 * q ≤ e ∧ let n := m * 2 ^ (e - 2 * q).toNat
    2 ^ 46 ≤ n ∧ n < 2 ^ 48 ∧ RootsTo mode n w ∧ ∃ (m' : Nat) (e' : Int), fp32.val (sqrt32 mode x) = .fin false m' e' ∧ q ≤ e' ∧ m' * 2 ^ (e' - q).toNat = w) ∧
  (∀ (x : Nat) (s : Bool) (m k : Nat) (e : Int), fin x (.fin s m e) → 2 ^ 23 ≤ m * 2 ^ k → m * 2 ^ k < 2 ^ 24 →
    let frac := m * 2 ^ k - 2 ^ 23
    let sig := one + frac
    let ex : Int := e + 23 - k
    let top3 := frac / 2 ^ 20
    (let step := fun y => fma y (fma (minus sig) y one) y
     let y := thrice step (at_ tabG top3)
     rcp32 x = scale (if s then minus y else y) (-ex)) ∧
    (s = false →
      (let odd := ex % 2 = 1
       let h := if odd then sig + 2 ^ 23 else sig
       let step := fun y => fma (mul y 0x3f000000) (fma (minus (mul h y)) y one) y
       rsq32 x = scale (thrice step (at_ tabQ (frac / 2 ^ 21 + (if odd then 4 else 0)))) (-((if odd then ex - 1 else ex) / 2))) ∧
      (let z := fma sig (at_ tabG top3) (minus one)
       let q := [6, 5, 4, 3, 2, 1, 0].foldl (fun q i => fma q z (at_ coefB i)) (at_ coefB 7)
       log232 x = add (add (fp32.round .rne false (.fin (decide (ex < 0)) ex.natAbs 0)) (at_ tabL top3)) (mul z q)))) ∧
  (∀ (x : Nat) (s : Bool) (m : Nat) (e g : Int), fin x (.fin s m e) → g ≤ e → g ≤ 0 →
    let unit : Int := 2 ^ (-g).toNat
    let v : Int := (if s then -(m : Int) else m) * 2 ^ (e - g).toNat
    let n := v / unit
    let f := v % unit
    let j := 8 * f / unit
    let r : FVal := .fin false (8 * f - j * unit).toNat (g - 3)
    let p := [c4, c3, c2, c1, one].foldl (fun p c => fmaV (fp32.val p) r (fp32.val c)) c5
    exp232 x = if 128 * unit ≤ v then inf else if v < -150 * unit then 0 else scale (mul (at_ tabX j.toNat) p) n) ∧
  (∀ x, x < 2 ^ 32 → fp32.val x ≠ .nan →
    let rcpExt := fun y => if y = inf then 0 else rcp32 y
    let a := x % 2 ^ 31
    sig32 x = rcpExt (add one (exp232 (mul (minus x) k1))) ∧
    (a ≠ 0 → tanh32 x = if a < 0x3e000000 then
        (let w := mul x x
         fma (mul x w) (fma w (fma w a7 a5) a3) x)
      else
        (let y := fma (minus 0x40000000) (rcpExt (add one (exp232 (mul a k2)))) one
         if x < 2 ^ 31 then y else minus y))) ∧
  ∀ (o : VUn),
    MapsElems (.vsqrt o) o 32 12 (sqrt32 o.rm) ∧ MapsElems (.vrcp o) o 32 16 rcp32 ∧ MapsElems (.vrsq o) o 32 16 rsq32 ∧
    MapsElems (.vexp2 o) o 32 16 exp232 ∧ MapsElems (.vlog2 o) o 32 16 log232 ∧ MapsElems (.vsig o) o 32 24 sig32 ∧
    MapsElems (.vtanh o) o 32 24 tanh32

/-- VIADD, VISUB, VIMUL, VIMULH, VIMAD, VIMIN, VIMAX, VIABS, VSHL, VSHR and VSRA element by element (09_vector, 03_bundles). -/
def Obligations.VectorIntegers : Prop :=
  ∀ (t : ITy) (o : VBin) (u : VUn),
    let w := match t with | .i32 => 32 | .i16 => 16 | .i8 => 8
    let sg : Nat → Int := fun x => (BitVec.ofNat w x).toInt
    let un : Int → Nat := fun x => (x % 2 ^ w).toNat
    MapsBin (.viadd t o) o w 2 (fun a b _ => un (sg a + sg b)) ∧ MapsBin (.visub t o) o w 2 (fun a b _ => un (sg a - sg b)) ∧
    MapsBin (.vimul t o) o w 4 (fun a b _ => un (sg a * sg b)) ∧ MapsBin (.vimulh t o) o w 4 (fun a b _ => un (sg a * sg b / 2 ^ w)) ∧
    MapsBin (.vimad t o) o w 4 (fun a b c => un (sg a * sg b + sg c)) ∧
    MapsBin (.vimin t o) o w 2 (fun a b _ => un (Min.min (sg a) (sg b))) ∧ MapsBin (.vimax t o) o w 2 (fun a b _ => un (Max.max (sg a) (sg b))) ∧
    MapsElems (.viabs t u) u w 2 (fun a => un (sg a).natAbs) ∧
    MapsBin (.vshl t o) o w 2 (fun a b _ => a * 2 ^ (b % w)) ∧ MapsBin (.vshr t o) o w 2 (fun a b _ => a / 2 ^ (b % w)) ∧
    MapsBin (.vsra t o) o w 2 (fun a b _ => un (sg a / 2 ^ (b % w)))

/-- VAND, VOR, VXOR, VSEL, VPERM, VBCAST, VSLIDE, VMOV, VLIT, VMOVS and VEXT (09_vector, 03_bundles). -/
def Obligations.VectorBitsAndMoves : Prop :=
  ∀ (o : VBin) (u : VUn) (n : BitVec 5) (m : BitVec 6) (g : Guard) (vd : BitVec 10) (i : BitVec 2) (a d : BitVec 6) (x : VSrc),
    MapsBin (.vand o) o 32 2 (fun a b _ => a &&& b) ∧ MapsBin (.vor o) o 32 2 (fun a b _ => a ||| b) ∧
    MapsBin (.vxor o) o 32 2 (fun a b _ => a ^^^ b) ∧
    (∀ s r, s.atV r (o.vd.toNat :: VSrc.regs o.a ++ VSrcB.regs o.b) →
      let k := s.cur
      let u := (s.hold k o.a 0).holdB k o.b
      (∃ v, (∀ l, l < 32 → lane v l = lane (s.vsrc k o.a 0) ((lane (s.vsrcB k o.b) l).toNat % 32)) ∧
        VCommits (.vperm o) s u r 2 (s.mask k o.g) (if s.mask k o.g = 0 then [] else [(.vreg o.vd.toNat, v)])) ∧
      ∃ v, (∀ l, l < 32 → lane v l = if (s.mask k o.g).getLsbD l then lane (s.vsrc k o.a 0) l else lane (s.vsrcB k o.b) l) ∧
        VCommits (.vsel o) s u r 2 (BitVec.allOnes 32) [(.vreg o.vd.toNat, v)]) ∧
    MapsUn (.vbcast u n) u 2 (fun a v => ∀ l, l < 32 → lane v l = lane a n.toNat) ∧
    MapsUn (.vslide u m) u 2 (fun a v => ∀ l : Nat, l < 32 →
      lane v l = if 0 ≤ (l : Int) - m.toInt ∧ (l : Int) - m.toInt ≤ 31 then lane a ((l : Int) - m.toInt).toNat else 0) ∧
    MapsUn (.vmov u) u 2 (fun a v => v = a) ∧
    (∀ s r, s.atV r [vd.toNat] → ∃ v, (∀ l, l < 32 → lane v l = r.xb.lits.extractLsb' (32 * i.toNat) 32) ∧
      VCommits (.vlit g vd i) s s r 2 (s.mask s.cur g) (if s.mask s.cur g = 0 then [] else [(.vreg vd.toNat, v)])) ∧
    (∀ s r, s.atV r [vd.toNat] → ∃ v, lane v n.toNat = (s.xS a).setWidth 32 ∧
      VCommits (.vmovs g vd a n) s s r 2 (1 <<< n.toNat) (if (s.mask s.cur g).getLsbD n.toNat then [(.vreg vd.toNat, v)] else [])) ∧
    ∀ s r, s.atV r (VSrc.regs x) → VCommits (.vext g d x n) s (s.hold s.cur x 0) r 2 (s.mask s.cur g)
      (if (s.mask s.cur g).getLsbD n.toNat then wS d ((lane (s.vsrc s.cur x 0) n.toNat).setWidth 64) else [])

/-- VCMP and VICMP write their predicates lane by lane (09_vector, 05_registers). -/
def Obligations.VectorCompares : Prop :=
  ∀ (ft : FTy) (it : ITy) (fc : FCond) (ic : ICond) (o : VCm),
    let fw := match ft with | .f32 => 32 | .bf16 => 16 | .f16 => 16
    let iw := match it with | .i32 => 32 | .i16 => 16 | .i8 => 8
    let f := match ft with | .f32 => fp32 | .bf16 => Machine.bf16 | .f16 => fp16
    let sg : Nat → Int := fun x => (BitVec.ofNat iw x).toInt
    MapsCm (.vcmp ft fc o) o fw (f.cond fc) ∧
    MapsCm (.vicmp it ic o) o iw (fun a b => match ic with
      | .eq => a = b | .ne => a ≠ b | .lt => sg a < sg b | .le => sg a ≤ sg b | .gt => sg b < sg a | .ge => sg b ≤ sg a
      | .ltu => a < b | .geu => b ≤ a)

/-- VCVT, VPKBX, VUPBX and VRED.ADD, VRED.MIN, VRED.MAX (09_vector, 06_formats). -/
def Obligations.VectorConversionsAndReductions : Prop :=
  (e5m2.IsFormat 5 2 15 7 0x7e true ∧ e4m3.IsFormat 4 3 7 14 0x7f false) ∧
  (∀ (src dst : CFmt) (mode : RMode) (sat : Bool) (x : Nat),
    let fmt : CFmt → Option Fmt := fun c => match c with | .f32 => some fp32 | .bf16 => some Machine.bf16 | .f16 => some fp16 | .e4m3 => some e4m3 | .e5m2 => some e5m2 | _ => none
    let w : CFmt → Nat := fun c => match c with | .i32 => 32 | .i16 => 16 | _ => 8
    let int : Int := (BitVec.ofNat (w src) x).toInt
    let least : Int := -(2 ^ (w dst - 1))
    let most : Int := 2 ^ (w dst - 1) - 1
    let un : Int → Nat := fun i => (i % 2 ^ w dst).toNat
    (∀ f g, fmt src = some f → fmt dst = some g → convert src dst mode sat x = g.round mode sat (f.val x)) ∧
    (∀ g, fmt src = none → fmt dst = some g → convert src dst mode sat x = g.round mode sat (.fin (decide (int < 0)) int.natAbs 0)) ∧
    (fmt src = none → fmt dst = none → convert src dst mode sat x = if sat then un (Max.max least (Min.min most int)) else un int) ∧
    ∀ f, fmt src = some f → fmt dst = none →
      (f.val x = .nan → convert src dst mode sat x = 0) ∧
      (∀ neg, f.val x = .inf neg → convert src dst mode sat x = if sat = true ∧ neg = false then un most else un least) ∧
      ∀ neg m e, f.val x = .fin neg m e → ∃ n, RoundsUnit mode neg m e 0 n ∧ let q : Int := if neg then -(n : Int) else n
        convert src dst mode sat x = if least ≤ q ∧ q ≤ most then un q else if sat then (if q < least then un least else un most) else un least) ∧
  (∀ (t : BTy) (mode : RMode) (sat : Bool) (xs : List Nat), xs.length = 16 → (∀ x ∈ xs, x < 2 ^ 32) →
    let b := encodeBlock t mode sat xs
    let k : Int := match t with | .bx8 => 6 | .bx4 => 2
    let most := match t with | .bx8 => 127 | .bx4 => 7
    ((∃ x ∈ xs, fp32.val x = .nan ∨ (sat = false ∧ ∃ neg, fp32.val x = .inf neg)) → b = ⟨255, 0, List.replicate 16 (false, 0)⟩) ∧
    ∀ v : Nat → Bool × Nat × Int, (∀ i, i < 16 → (match fp32.val (xs.getD i 0) with
        | .fin s m e => v i = (s, m, e) | .inf s => sat = true ∧ v i = (s, 2 ^ 24 - 1, 104) | .nan => False)) →
      let size : Nat → Nat := fun i => (v i).2.1 * 2 ^ ((v i).2.2 + 149).toNat
      b.els.length = 16 ∧ b.u < 256 ∧ b.e ≤ 253 ∧ (∀ i, i < 16 → size i < 2 ^ (b.e + 24)) ∧ (b.e = 0 ∨ ∃ i, i < 16 ∧ 2 ^ (b.e + 23) ≤ size i) ∧
      (∀ p, p < 8 → b.u.testBit p = decide (2 ^ (b.e + 23) ≤ size (2 * p) ∨ 2 ^ (b.e + 23) ≤ size (2 * p + 1))) ∧
      ∀ i, i < 16 → ∃ n, RoundsUnit mode (v i).1 (v i).2.1 (v i).2.2 ((b.e : Int) - 127 + (if b.u.testBit (i / 2) then 1 else 0) - k) n ∧
        b.els.getD i (false, 0) = ((v i).1, Nat.min n most)) ∧
  (∀ (t : BTy) (plane side i : Nat), i < 16 →
    let k : Nat := match t with | .bx8 => 6 | .bx4 => 2
    let w : Nat := match t with | .bx8 => 8 | .bx4 => 4
    let b := BxBlock.ofBits t plane side
    let el := plane / 2 ^ (w * i) % 2 ^ w
    let neg := el.testBit (w - 1)
    let m : Nat := el % 2 ^ (w - 1)
    let e : Nat := side % 256
    let u : Nat := side / 2 ^ (8 + i / 2) % 2
    b.val t i = if e = 255 then .nan else if 2 ^ (255 + k) ≤ m * 2 ^ (e + u) then .inf neg else .fin neg m ((e : Int) - 127 + u - k)) ∧
  (∀ (t : BTy) (b : BxBlock), b.els.length = 16 →
    let w := match t with | .bx8 => 8 | .bx4 => 4
    b.side = b.e + 256 * b.u ∧ ((∀ x ∈ b.els, x.2 < 2 ^ (w - 1)) → ∀ i, i < 16 →
      let x := b.els.getD i (false, 0)
      b.plane t / 2 ^ (w * i) % 2 ^ w = x.2 + (if x.1 then 2 ^ (w - 1) else 0))) ∧
  ∀ (src dst : CFmt) (b : BTy) (t : RTy) (o : VUn),
    let w := fun (c : CFmt) => match c with | .f32 => 32 | .i32 => 32 | .bf16 => 16 | .f16 => 16 | .i16 => 16 | .i8 => 8 | .e4m3 => 8 | .e5m2 => 8
    let n := 1024 / Max.max (w src) (w dst)
    let at_ : Nat → Vec → Nat → Nat := fun w v e => v.toNat / 2 ^ (w * e) % 2 ^ w
    let rw_ := match t with | .f32 => 32 | .i32 => 32 | .bf16 => 16 | .f16 => 16
    let fm := match t with | .f32 => fp32 | .i32 => fp32 | .bf16 => Machine.bf16 | .f16 => fp16
    let sg : Nat → Int := fun x => (BitVec.ofNat 32 x).toInt
    let reduces : Instr → Nat → (Nat → Nat → Nat) → Prop := fun i ident f =>
      ∀ s r, s.atV r (o.vd.toNat :: VSrc.regs o.a) →
        let k := s.cur
        let m := s.mask k o.g
        let es := (List.range (1024 / rw_)).map fun e => if m.getLsbD (e / (32 / rw_)) then at_ rw_ (s.vsrc k o.a 0) e else ident
        ∃ v, EachElem rw_ v (fun _ _ => tree f 6 es) ∧ VCommits i s (s.hold k o.a 0) r (if rw_ = 32 then 8 else 10) (BitVec.allOnes 32)
          (if m = 0 then [] else [(.vreg o.vd.toNat, v)])
    MapsUn (.vcvt src dst o) o 4 (fun a v => ∀ e, e < 1024 / w dst →
      at_ (w dst) v e = if e < n then convert src dst o.rm o.sat (at_ (w src) a e) % 2 ^ w dst else 0) ∧
    MapsUn (.vpkbx b o) o 8 (fun a v => ∃ b0 b1,
      b0 = encodeBlock b o.rm o.sat ((List.range 16).map fun i => (lane a i).toNat) ∧
      b1 = encodeBlock b o.rm o.sat ((List.range 16).map fun i => (lane a (16 + i)).toNat) ∧
      let p := match b with | .bx8 => 128 | .bx4 => 64
      v = BitVec.ofNat 1024 (b0.plane b + b1.plane b * 2 ^ p + (b0.side + b1.side * 2 ^ 16) * 2 ^ (2 * p))) ∧
    MapsUn (.vupbx b o) o 4 (fun a v =>
      let p := match b with | .bx8 => 128 | .bx4 => 64
      ∀ l, l < 32 → lane v l = BitVec.ofNat 32 (fp32.round .rne false
        ((BxBlock.ofBits b (a.toNat / 2 ^ (p * (l / 16)) % 2 ^ p) (a.toNat / 2 ^ (2 * p + 16 * (l / 16)) % 2 ^ 16)).val b (l % 16)))) ∧
    reduces (.vredAdd t o) (if t = .i32 then 0 else 2 ^ (rw_ - 1)) (fun a b => if t = .i32 then (a + b) % 2 ^ 32 else fm.add o.rm false a b) ∧
    reduces (.vredMin t o) (if t = .i32 then 0x7fffffff else fm.inf) (fun a b => if t = .i32 then (if sg b < sg a then b else a) else fm.min a b) ∧
    reduces (.vredMax t o) (if t = .i32 then 0x80000000 else fm.inf + 2 ^ (rw_ - 1))
      (fun a b => if t = .i32 then (if sg a < sg b then b else a) else fm.max a b)

/-- VRDACC, VWRACC and VPOP reach the accumulator banks and the result queues of the owned Kerf (09_vector, 14_queues, 16_thunks). -/
def Obligations.BanksAndQueuesFromVectorSlots : Prop :=
  ∀ (s : State) (r : Run) (g : Guard) (vd : BitVec 10) (bank q : BitVec 3) (row : BitVec 4) (a : VSrc),
    let k := s.cur
    let c := s.ctx k
    let m := s.mask k g
    let x : Dest := .row (16 * bank.toNat + row.toNat)
    (s.atV r [vd.toNat] → c.kown = true → bank.toNat < c.nbank → c.openGoals c.skips (c.bankWriters bank.toNat) = [] →
      VCommits (.vrdacc g vd bank row) s s r (6 - s.sinceReady k) m (if m = 0 then [] else [(.vreg vd.toNat, s.read k x)])) ∧
    (s.atV r (VSrc.regs a) → c.kown = true → bank.toNat < c.nbank → c.openGoals c.skips (c.bankUsers bank.toNat) = [] →
      VCommits (.vwracc g bank row a) s (s.hold k a 0) r 2 m (if m = 0 then [] else [(x, s.vsrc k a 0)])) ∧
    (s.atV r [vd.toNat] → m ≠ 0 → c.openGoals c.skips (c.queueGoals q.toNat) = [] →
      ∀ old rest, s.rqRows k q.toNat = old :: rest →
        VCommits (.vpop g vd q) s ((s.modCore (coreOf k) fun co => { co with rq := put co.rq q.toNat rest }).modCtx k fun c =>
          { c with seg := c.seg.map fun (g : Seg) => { g with popped := (q.toNat, old) :: g.popped } }) r 3 m [(.vreg vd.toNat, old)]) ∧
    (s.atV r [vd.toNat] → m = 0 → VCommits (.vpop g vd q) s s r 3 m []) ∧
    (s.atV r [vd.toNat] → m ≠ 0 → c.openGoals c.skips (c.queueGoals q.toNat) = [] → s.rqRows k q.toNat = [] →
      exec (.vpop g vd q) s = .next (s.raise k (precise cRQUNF q.toNat) r.slot)) ∧
    (s.atV r [vd.toNat] → c.kown = false ∨ c.nbank ≤ bank.toNat →
      exec (.vrdacc g vd bank row) s = .next (s.raise k (precise cWINDOW bank.toNat) r.slot) ∧
      exec (.vwracc g bank row a) s = .next (s.raise k (precise cWINDOW bank.toNat) r.slot))

/-- A vector register at or above the window raises WINDOW with its number, and nothing is written (03_bundles, 05_registers). -/
def Obligations.RegistersOutsideTheWindowFault : Prop :=
  ∀ (s : State) (r : Run) (n : Nat), (s.ctx s.cur).run = some r →
    let c := s.ctx s.cur
    let firstOut : List Nat → Prop := fun l => l.find? (fun x => decide (c.win ≤ x)) = some n
    let out : Instr → Prop := fun i => exec i s = .next (s.raise s.cur ⟨0x03, BitVec.ofNat 64 n, 0, false⟩ r.slot)
    (∀ (t : FTy) (it : ITy) (o : VBin), firstOut (o.vd.toNat :: VSrc.regs o.a ++ VSrcB.regs o.b) →
      ∀ i ∈ [Instr.vadd t o, .vsub t o, .vmul t o, .vfma t o, .vfms t o, .vfnma t o, .vmin t o, .vmax t o, .vcpys t o, .vclamp t o, .viadd it o, .visub it o, .vimul it o,
        .vimulh it o, .vimad it o, .vimin it o, .vimax it o, .vshl it o, .vshr it o, .vsra it o, .vand o, .vor o, .vxor o, .vsel o, .vperm o], out i) ∧
    (∀ (t : FTy) (it : ITy) (rt : RTy) (bt : BTy) (src dst : CFmt) (l : BitVec 5) (d : BitVec 6) (o : VUn), firstOut (o.vd.toNat :: VSrc.regs o.a) →
      ∀ i ∈ [Instr.vabs t o, .vneg t o, .vrnd t o, .vsqrt o, .vrcp o, .vrsq o, .vexp2 o, .vlog2 o, .vsig o, .vtanh o, .viabs it o, .vcvt src dst o, .vpkbx bt o, .vupbx bt o,
        .vredAdd rt o, .vredMin rt o, .vredMax rt o, .vbcast o l, .vslide o d, .vmov o], out i) ∧
    (∀ (t : FTy) (it : ITy) (cc : FCond) (ic : ICond) (o : VCm), firstOut (VSrc.regs o.a ++ VSrcB.regs o.b) → out (.vcmp t cc o) ∧ out (.vicmp it ic o)) ∧
    (∀ (g : Guard) (vd : BitVec 10) (a : BitVec 6) (l : BitVec 5) (i : BitVec 2) (bank q : BitVec 3) (row : BitVec 4), firstOut [vd.toNat] →
      out (.vmovs g vd a l) ∧ out (.vlit g vd i) ∧ out (.vrdacc g vd bank row) ∧ out (.vpop g vd q)) ∧
    (∀ (g : Guard) (d : BitVec 6) (l : BitVec 5) (bank : BitVec 3) (row : BitVec 4) (a : VSrc), firstOut (VSrc.regs a) →
      out (.vext g d a l) ∧ (c.kown = true → bank.toNat < c.nbank → out (.vwracc g bank row a))) ∧
    (∀ m : MemP, firstOut [m.t.toNat] →
      let away : Nat → Prop := fun w => s.guard s.cur m.g = false ∨ (s.rcb s.cur).hwin = true ∨
        let x : Int := ((s.xS m.base).toNat : Int) + m.off.toInt * w
        x < 0xe0000000 ∨ 0xf0000000 ≤ x
      (away 128 → out (.vld m) ∧ out (.vst m)) ∧ (away 4 → out (.vldb m))) ∧
    ∀ m : MemG, firstOut [m.t.toNat, m.vi.toNat] → s.guard s.cur m.g = false ∨ (s.rcb s.cur).hwin = true ∨
        (∀ l, l < 32 → let x := (s.xS m.base).toNat + (lane (s.readV s.cur m.vi.toNat) l).toNat * 2 ^ m.scale.toNat
          x < 0xe0000000 ∨ 0xf0000000 ≤ x) → out (.vgath m) ∧ out (.vscat m)

/-- MMA, MMAZ, the races, WLOAD, WSWAP, TEPI, TEW and TDRAIN append their nodes (16_thunks, 17_tile, 05_registers). -/
def Obligations.TileInstructionsAppendNodes : Prop :=
  ∀ (s : State) (r : Run) (g : Guard) (strm bias sat : Bool) (d a b : BitVec 5) (acc q : BitVec 3) (op : BitVec 3) (fn : BitVec 2) (k1 : BitVec 5)
    (row n1 : BitVec 4) (t : Toks),
    let c := s.ctx s.cur
    let bits := fun (n : BitVec 5) => lookD c.tds n.toNat 0
    let D := TD.ofBits (bits d)
    let A := TD.ofBits (bits a)
    let B := TD.ofBits (bits b)
    let at_ : List (BitVec 5) → Prop := fun tds => s.atT r g tds ∧ c.nodes.length < 128
    let node := s.newNode r
    let bank := c.kown = true ∧ acc.toNat < c.nbank
    let okMma := checkDescs
      [⟨a, 1, A, A.isBx && A.e0 == 1 && A.e1 == 1 && A.e2 ≤ 16 && A.mapK, true⟩,
       ⟨b, 2, B, B.isBx && B.e0 == 1 && B.e1 == 1 && B.e2 ≤ 32 && B.e3 == A.e3 && B.mapK && (strm || B.e3 ≤ (if B.fmt = 9 then 1024 else 512)), strm⟩] = none
    let okRace := fun (n : Nat) => checkDescs
      [⟨d, 0, D, D.fmt == 3 && D.e0 == A.e0 && D.e1 == A.e1 && D.e2 == A.e2 && D.e3 == n && D.asDest, false⟩,
       ⟨a, 1, A, A.fmt == 1 && A.e3 ≤ 32 && A.kind != 1, false⟩] = none
    (at_ [a, b] → bank → okMma →
      Appends (.mma g strm a b acc t) s s r t.kout (node (.mma g strm a b acc t) 0x01 acc.toNat t 0 (bits a) (bits b) 1) ∧
      Appends (.mmaz g strm a b acc t) s s r t.kout (node (.mmaz g strm a b acc t) 0x02 acc.toNat t 0 (bits a) (bits b) 1)) ∧
    (at_ [d, a] → c.kown = true → okRace 1 →
      Appends (.rmin g d a t) s s r t.kout (node (.rmin g d a t) 0x03 0 t (bits d) (bits a) 0 D.tiles) ∧
      Appends (.rmax g d a t) s s r t.kout (node (.rmax g d a t) 0x04 0 t (bits d) (bits a) 0 D.tiles)) ∧
    (at_ [d, a] → c.kown = true → okRace A.e3 →
      Appends (.rsort g d a t) s s r t.kout (node (.rsort g d a t) 0x05 0 t (bits d) (bits a) 0 D.tiles)) ∧
    (at_ [d, a] → c.kown = true → okRace (k1.toNat + 1) →
      Appends (.rtopk g d a k1 t) s s r t.kout (node (.rtopk g d a k1 t) 0x06 0 t (bits d) (bits a) 0 D.tiles)) ∧
    (at_ [b] → c.kown = true → checkDescs [⟨b, 2, B, B.isBx && B.e0 == 1 && B.e1 == 1 && B.e2 ≤ 32 && 16 ≤ B.e3 &&
        B.e3 ≤ (if B.fmt = 9 then 1024 else 512) && B.kind == 0, true⟩] = none →
      Appends (.wload g b t) s s r t.kout (node (.wload g b t) 0x08 0 t 0 0 (bits b) 1)) ∧
    (at_ [] → c.kown = true → Appends (.wswap g t) s s r t.kout (node (.wswap g t) 0x09 0 t 0 0 0 1)) ∧
    (at_ (if bias then [d, b] else [d]) → bank →
      checkDescs (⟨d, 0, D, floatDest D && D.e0 == 1 && D.e1 == 1 && D.e2 ≤ 16 && D.e3 ≤ 32 && D.asDest, false⟩ ::
        if bias then [⟨b, 2, B, B.fmt ≤ 2 && B.sameExtents D, false⟩] else []) = none →
      Appends (.tepi g d bias fn sat b acc t) s s r t.kout
        (node (.tepi g d bias fn sat b acc t) 0x0c acc.toNat t (bits d) 0 (if bias then bits b else 0) D.tiles)) ∧
    (at_ (if op = 5 then [d, a] else [d, a, b]) →
      checkDescs (⟨d, 0, D, floatDest D && D.asDest, false⟩ :: ⟨a, 1, A, A.fmt ≤ 2 || A.isBx, false⟩ ::
        if op = 5 then [] else [⟨b, 2, B, B.fmt ≤ 2 || B.isBx, false⟩]) = none →
      Appends (.tew g d a b op t) s s r t.kout
        (node (.tew g d a b op t) 0x0d op.toNat t (bits d) (bits a) (if op = 5 then 0 else bits b) D.tiles)) ∧
    let co := s.core (coreOf s.cur)
    let n := n1.toNat + 1
    (at_ [] → bank → (lookD co.rq q.toNat []).length + lookD co.rqv q.toNat 0 + n ≤ 16 →
      Appends (.tdrain g q row n1 acc t) s (s.modCore (coreOf s.cur) fun co => { co with rqv := put co.rqv q.toNat (lookD co.rqv q.toNat 0 + n) }) r t.kout
        (node (.tdrain g q row n1 acc t) 0x0e acc.toNat t 0 0 0 1)) ∧
    (at_ [] → bank → 16 < (lookD co.rq q.toNat []).length + lookD co.rqv q.toNat 0 + n →
      exec (.tdrain g q row n1 acc t) s = .next (s.raise s.cur (precise cRQOVF q.toNat) 3))

/-- FORCE, TDROP, TDLD, ACZ and SCRIBE in the T slot (17_tile, 16_thunks, 07_kerf). -/
def Obligations.TileSlotsThatActAtOnce : Prop :=
  ∀ (s : State) (r : Run) (g : Guard) (d : BitVec 5) (mode : BitVec 2) (acc : BitVec 3) (base : BitVec 6) (off : BitVec 7),
    let c := s.ctx s.cur
    let D := TD.ofBits (lookD c.tds d.toNat 0)
    let gs := if mode = 0 then c.readGoals (D.areas D.full) else if mode = 1 then c.bankWriters acc.toNat else c.allGoals
    (s.atT r g (if mode = 0 then [d] else []) → (mode = 1 → c.kown = true ∧ acc.toNat < c.nbank) → (mode = 0 → checkDescs [⟨d, 0, D, true, false⟩] = none) →
      (c.openGoals false gs = [] → exec (.force g d mode acc) s = .next (s.passed r)) ∧
      (c.openGoals false gs ≠ [] → ∃ t, exec (.force g d mode acc) s = .next t ∧ s.onlyCtx t s.cur ∧ (t.ctx s.cur).goals = c.openGoals false gs ∧
        (t.ctx s.cur).status = .blocked ∧ (t.ctx s.cur).wait = .demand ∧ (t.ctx s.cur).impld = c.impld)) ∧
    (s.atT r g [] → (c.nodes.map Node.seq).Nodup →
      let co := s.core (coreOf s.cur)
      let removed : State → (Node → Bool) → Prop := fun t p =>
        let c' := t.ctx s.cur
        t.mem = s.mem ∧ (∀ j, j ≠ s.cur → t.ctx j = s.ctx j) ∧ c'.nodes.map Node.seq = (c.nodes.filter fun n => !p n).map Node.seq ∧
        c'.run = some { r with slot := 4 } ∧ c'.sregs = c.sregs ∧ c'.pregs = c.pregs ∧ c'.vregs = c.vregs ∧ c'.tds = c.tds ∧ c'.flights = c.flights ∧
        ∀ n ∈ c.nodes, p n = true → n.toks.kout ≠ 0 → (c.tok n.toks.kout.toNat).st = .pending → (c.tok n.toks.kout.toNat).bind = n.koutBind →
          c'.tok n.toks.kout.toNat = ⟨.produced, true, n.koutBind⟩
      (∃ t, exec (.tdrop g true 0) s = .next t ∧ removed t fun n => n.failed) ∧
      ((∀ n ∈ c.nodes, n.toks.kout = 0 ∧ n.qDst = false ∧ n.op.toNat ≠ 0x0e) →
        (∀ j, co.job = some j ∨ co.race = some j → ∀ n ∈ c.nodes, n.failed = true → n.seq ≠ j.seq) →
        ∃ t, exec (.tdrop g true 0) s = .next t ∧ t = { s with ctxs := t.ctxs, cores := t.cores, freeIx := t.freeIx } ∧ (∀ j, j ≠ s.cur → t.ctx j = s.ctx j) ∧
          (∀ n, n ≠ coreOf s.cur → t.core n = s.core n) ∧ t.core (coreOf s.cur) = { co with passCal := (t.core (coreOf s.cur)).passCal } ∧
          t.ctx s.cur = { c with
            nodes := c.nodes.filter fun n => !n.failed, begun := (t.ctx s.cur).begun, raceBegun := (t.ctx s.cur).raceBegun, wait := .none, run := some { r with slot := 4 } }) ∧
      ∀ kin0 : BitVec 4, kin0 ≠ 0 →
        let kb := (kin0.toNat, (c.tok kin0.toNat).bind)
        (c.nodeOf kb = none → exec (.tdrop g false kin0) s = .next (s.passed r)) ∧
        ∀ n, c.nodeOf kb = some n → ∃ t, exec (.tdrop g false kin0) s = .next t ∧ removed t (fun m => m.seq == n.seq) ∧
          let q := n.slotBits 14 3
          let undone : Core :=
            if 3 ≤ n.op.toNat ∧ n.op.toNat ≤ 6 then { co with race := co.race.filter fun j => !(j.k == s.cur && j.seq == n.seq) }
            else match co.job with
              | some j => if j.k = s.cur ∧ j.seq = n.seq then co.undo n j else co
              | none => if c.begun.any (fun b => b.1 == n.seq) then { co with passCal := none } else co
          t.core (coreOf s.cur) = { undone with
            rqv := if n.op.toNat = 0x0e then put co.rqv q (lookD co.rqv q 0 - (n.slotBits 24 4 + 1)) else co.rqv }) ∧
    (s.atT r g [] → c.tlc < 63 →
      let x : Int := (s.xS base).toNat + 32 * off.toInt
      x % 32 = 0 → 0 ≤ x → x < 2 ^ 32 → (spaceOf x.toNat = 0 ∨ spaceOf x.toNat = 1 ∨ spaceOf x.toNat = 3) → inRange false x.toNat 32 = true →
      s.demands (c.readGoals [areaOf x.toNat 32]) = [] → s.mustNotRead s.cur r.seq [(scratchPhys false s.cur x.toNat, 32)] = false → s.bufFull s.cur 3 = false →
      ∃ t, exec (.tdld g d base off) s = .next t ∧ s.onlyCtxEng t s.cur ∧
        (∃ f ∈ (t.ctx s.cur).flights, f.ctr = .tlc ∧ f.seq = r.seq ∧ f.dest = .td d.toNat ∧ f.acc = true ∧ f.due = s.cyc s.cur + spaceLat (spaceOf x.toNat)) ∧
        s.hasWritten t s.cur [(.td d.toNat, BitVec.ofNat 1024 (leNat (s.ownBytes s.cur r.seq (scratchPhys false s.cur x.toNat) 32)))] ∧
        t.ctx s.cur = { c with tlc := c.tlc + 1, flights := (t.ctx s.cur).flights, wait := .none, run := some { r with slot := 4 } }) ∧
    (s.atT r g [] → c.kown = true → acc.toNat < c.nbank → s.demands (c.bankUsers acc.toNat) = [] → s.drainedAll s.cur r.seq = true →
      Max.max c.demandAt r.issued + 2 ≤ s.cyc s.cur + 1 →
      ∃ rows, exec (.acz g acc) s = .next ((s.modCore (coreOf s.cur) fun co => { co with rows := rows }).passed r) ∧
        ∀ n, lookD rows n 0 = if n / 16 = acc.toNat then 0 else lookD (s.core (coreOf s.cur)).rows n 0) ∧
    (s.atT r g [] → c.kown = true → c.prot = false → s.demands c.allGoals = [] →
      ∃ kcal : Word, kcal.toNat % 4 = 2 ∧ kcal.toNat / 4 = (s.core (coreOf s.cur)).kcal.toNat / 4 ∧
        exec (.scribe g) s = .next ((s.modCore (coreOf s.cur) fun co => { co with kcal := kcal, scribe := some (s.cur, s.time) }).waits .scribe))

/-- TSTORE writes the converted elements of its source, and no other byte (17_tile, 16_thunks). -/
def Obligations.TileStoreWritesItsTiles : Prop :=
  ∀ (s : State) (r : Run) (g : Guard) (d a : BitVec 5) (bank : Bool) (rm : RMode) (sat : Bool) (acc : BitVec 3) (t : Toks),
    let c := s.ctx s.cur
    let D := TD.ofBits (lookD c.tds d.toNat 0)
    let A := TD.ofBits (lookD c.tds a.toNat 0)
    let shape := D.asDest && (if bank then D.e0 == 1 && D.e1 == 1 && D.e2 ≤ 16 && D.e3 ≤ 32 else A.sameExtents D)
    let val : Nat → Nat → Nat → Nat → FVal := fun i0 i1 i2 i3 =>
      if bank then fp32.val (lane (lookD (s.core (coreOf s.cur)).rows (16 * acc.toNat + i2) 0) i3).toNat else s.imageElem s.cur A i0 i1 i2 i3
    s.atT r g (if bank then [d] else [d, a]) → (bank = true → c.kown = true ∧ acc.toNat < c.nbank) →
    checkDescs (⟨d, 0, D, shape, false⟩ :: if bank then [] else [⟨a, 1, A, A.fmt != 6 && A.fmt != 7, false⟩]) = none →
    kinsOf c.tok t = [] → c.openGoals false (if bank then c.bankWriters acc.toNat else c.readGoals (A.areas A.full)) = [] →
    c.openGoals false (c.writeGoals (D.areas D.full)) = [] → s.drainedAll s.cur r.seq = true →
    (s.loadsUnread s.cur (r.seq - 1) = true → exec (.tstore g d a bank rm sat acc t) s = .next (s.waits (.loads r.seq))) ∧
    (s.loadsUnread s.cur (r.seq - 1) = false → Max.max c.demandAt r.issued + (D.bytes + 255) / 256 ≤ s.cyc s.cur + 1 →
    ∃ u, exec (.tstore g d a bank rm sat acc t) s = .next u ∧
      { s with mem := u.mem }.onlyCtx u s.cur ∧ (D.tiles = 1 → u.mem = s.mem.writes (D.tileCells s.cur rm sat 0 val)) ∧
      (∀ x, (∀ j, j < D.tiles → ∀ v, ∀ cell ∈ D.tileCells s.cur rm sat j v, cell.1 ≠ x) → u.mem.read x = s.mem.read x) ∧
      (t.kout ≠ 0 → (u.ctx s.cur).tok t.kout.toNat = ⟨.produced, false, c.bindSrc + 1⟩) ∧
      u.ctx s.cur = { c with toks := (u.ctx s.cur).toks, bindSrc := (u.ctx s.cur).bindSrc, wait := .none, run := some { r with slot := 4 } })

/-- A T-slot instruction under a false guard passes its token on at most; in an open segment it is held (03_bundles, 16_thunks, 17_tile, 19_events). That a held instruction keeps its bundle's RFAST and PROMOTE is the model's inference, log entry 103; that a false-guarded one is held for its kins alone is log entry 30. -/
def Obligations.TileSlotsUnderAFalseGuardOrInASegment : Prop :=
  ∀ (s : State) (r : Run) (g : Guard) (strm bias sat bank allf : Bool) (d a b k1 : BitVec 5) (acc op q : BitVec 3) (mode fn : BitVec 2) (row n1 kin0 : BitVec 4) (rm : RMode)
    (t : Toks) (base : BitVec 6) (off : BitVec 7),
    let k := s.cur
    let c := s.ctx k
    s.atSlot 3 r → c.kown = true → acc.toNat < c.nbank →
    let tdld := Instr.tdld g d base off
    let holdable := [Instr.mma g strm a b acc t, .mmaz g strm a b acc t, .rmin g d a t, .rmax g d a t, .rsort g d a t, .rtopk g d a k1 t, .wload g b t, .wswap g t,
      .tepi g d bias fn sat b acc t, .tew g d a b op t, .tdrain g q row n1 acc t, .force g d mode acc, .tstore g d a bank rm sat acc t, .tdrop g allf kin0, .acz g acc]
    let appc := mkRp r.xb.addr 3 r.xb.back r.xb.bidx
    (s.guard k g = false →
      (∀ i ∈ tdld :: .scribe g :: holdable, (tileToks i).kout = 0 → exec i s = .next (s.passed r)) ∧
      ∀ i ∈ holdable, (tileToks i).kout ≠ 0 → s.engineOpen r 3 →
        let kins := kinsOf c.tok (tileToks i)
        s.demands (c.kinGoals kins) = [] → ∃ m : Cmd, m.kind = .tok ∧ m.k = k ∧ m.gen = c.gen ∧ m.kins = kins ∧ m.kout = (tileToks i).kout.toNat ∧ m.koutBind = c.bindSrc + 1 ∧
          m.seq = r.seq ∧ m.code = none ∧
          (c.heldKin kins = false → exec i s = .next (({ s.modCore (coreOf k) (fun co => { co with engFree := put co.engFree 3 (s.cyc k + 1) }) with
            cmds := s.cmds ++ [{ m with id := s.cmdSrc + 1, acceptedAt := s.cyc k }], cmdSrc := s.cmdSrc + 1 }.modCtx k fun c => c.bindTok (tileToks i).kout.toNat).passed r)) ∧
          (c.heldKin kins = true → ∃ e, e.op = .copy m ∧
            exec i s = .next ((s.modCtx k fun c => { c.bindTok (tileToks i).kout.toNat with held := c.held ++ [e] }).passed r))) ∧
    (s.guard k g = true → c.seg.isSome = true →
      (∀ i ∈ holdable, ∃ e, exec i s = .next ((s.modCtx k fun c => { c.bindTok (tileToks i).kout.toNat with held := c.held ++ [e] }).passed r) ∧
        e.seq = r.seq ∧ e.op = .tile i appc 0
          (match i with | .tdrop .. => (if kin0 = 0 then [] else [(kin0.toNat, (c.tok kin0.toNat).bind)]) | _ => kinsOf c.tok (tileToks i))
          (if (tileToks i).kout = 0 then 0 else c.bindSrc + 1) (r.sys0.psw.getLsbD 11) r.promote0) ∧
      let x : Int := (s.xS base).toNat + 32 * off.toInt
      x % 32 = 0 → 0 ≤ x → x < 2 ^ 32 → (spaceOf x.toNat = 0 ∨ spaceOf x.toNat = 1 ∨ spaceOf x.toNat = 3) → inRange false x.toNat 32 = true → c.tlc < 63 →
      ∃ e, exec tdld s = .next ((s.modCtx k fun c => { c.bindTok 0 with tlc := c.tlc + 1, held := c.held ++ [e] }).passed r) ∧
        e.seq = r.seq ∧ e.op = .tile tdld appc (s.xS base) (kinsOf c.tok ⟨0, 0, 0, 0⟩) 0 (r.sys0.psw.getLsbD 11) r.promote0)

/-- LD.B to LD.D, VLD, VLDB, PLD, LDACQ, VGATH and LDL read the bytes that the context sees (13_memops, 12_consistency, 03_bundles, 18_counters). -/
def Obligations.LoadsReadWhatTheContextSees : Prop :=
  (∀ (m : MemP) (a : MemS),
    let ext : (w : Nat) → Nat → Vec := fun w v => (sx (BitVec.ofNat w v)).setWidth 1024
    let raw : Nat → Vec := fun v => BitVec.ofNat 1024 v
    let d : BitVec 10 → Dest := fun t => if t = 0 then .none else .sreg t.toNat
    let off : Nat → Int := fun n => m.off.toInt * n
    Loads (.ldB m) m.g m.base (off 1) 1 1 [] (d m.t) (ext 8) ∧ Loads (.ldBu m) m.g m.base (off 1) 1 1 [] (d m.t) raw ∧
    Loads (.ldH m) m.g m.base (off 2) 2 2 [] (d m.t) (ext 16) ∧ Loads (.ldHu m) m.g m.base (off 2) 2 2 [] (d m.t) raw ∧
    Loads (.ldW m) m.g m.base (off 4) 4 4 [] (d m.t) (ext 32) ∧ Loads (.ldWu m) m.g m.base (off 4) 4 4 [] (d m.t) raw ∧
    Loads (.ldD m) m.g m.base (off 8) 8 8 [] (d m.t) raw ∧ Loads (.vld m) m.g m.base (off 128) 128 4 [m.t.toNat] (.vreg m.t.toNat) raw ∧
    Loads (.vldb m) m.g m.base (off 4) 4 4 [m.t.toNat] (.vreg m.t.toNat) (fun v => ofLanes fun _ => BitVec.ofNat 32 v) ∧
    Loads (.pld m) m.g m.base (off 4) 4 4 [] (if m.t = 0 then .none else .preg m.t.toNat) raw ∧
    Loads (.ldacqW a) a.g a.base (a.off.toInt * 4) 4 4 [] (d a.t) (ext 32) ∧ Loads (.ldacqD a) a.g a.base (a.off.toInt * 8) 8 8 [] (d a.t) raw) ∧
  (∀ (m : MemG) (s : State) (r : Run), s.atSlot 4 r → s.guard s.cur m.g = true → s.engineOpen r 4 → (s.ctx s.cur).ldc < 63 →
    s.inWindow [m.t.toNat, m.vi.toNat] →
    let x : Nat → Int := fun l => (s.readS s.cur m.base).toNat + ((lane (s.readV s.cur m.vi.toNat) l).toNat * 2 ^ m.scale.toNat : Nat)
    (∀ l, l < 32 → s.legalAt (x l) 4 4) → s.demands ((s.ctx s.cur).readGoals ((List.range 32).map fun l => areaOf (x l).toNat 4)) = [] →
    s.mustNotRead s.cur r.seq ((List.range 32).map fun l => (s.at (x l), 4)) = false →
    let as := (List.range 32).map fun l => s.at (x l)
    s.windowOpen (socketOf s.cur) as = true →
    ∃ v lat, (∀ l, l < 32 → lane v l = BitVec.ofNat 32 (leNat (s.ownBytes s.cur r.seq (s.at (x l)) 4)) ∧ spaceLat (spaceOf (x l).toNat) ≤ lat) ∧
      LoadDone (.vgath m) s (s.windowFlits (socketOf s.cur) as) r lat [(.vreg m.t.toNat, v)]) ∧
  (∀ (m : MemL) (s : State) (r : Run) (wide : Bool), s.atSlot 4 r → s.guard s.cur m.g = true → s.engineOpen r 4 → (s.ctx s.cur).ldc < 63 →
    (s.ctx s.cur).seg = none →
    let n : Nat := if wide then 8 else 4
    let i := if wide then Instr.ldlD m else .ldlW m
    let x : Int := (s.readS s.cur m.base).toNat + m.off.toInt * n
    let l := lockOf (s.at x)
    let v := leNat (s.ownBytes s.cur r.seq (s.at x) n)
    s.legalAt x n n → s.demands ((s.ctx s.cur).readGoals [areaOf x.toNat n]) = [] → s.mustNotRead s.cur r.seq [(s.at x, n)] = false →
    s.windowOpen (socketOf s.cur) [s.at x] = true →
    (s.lockMine l s.cur = true →
      LoadDone i s ({ s with locks := put s.locks l ⟨s.cur, ownerSocket (s.at x), (s.cluster (clusterOf s.cur)).fifths, 0⟩ }.windowFlits (socketOf s.cur) [s.at x]) r (spaceLat (spaceOf x.toNat))
        ((if m.pd = 0 then [] else [(.preg m.pd.toNat, BitVec.allOnes 1024)]) ++
          [(if m.t = 0 then .none else .sreg m.t.toNat, if wide then BitVec.ofNat 1024 v else (sx (BitVec.ofNat 32 v)).setWidth 1024)])) ∧
    (s.lockMine l s.cur = false → ∃ t o, exec i s = .next t ∧ t.lockReqs = s.lockReqs ++ [⟨l, s.cur, false, some (o, r.seq), s.cyc s.cur⟩] ∧
      o.parts = [(s.at x, n)] ∧ t.mem = s.mem ∧ t.locks = s.locks ∧ (t.ctx s.cur).ldc = (s.ctx s.cur).ldc + 1)) ∧
  ∀ (s : State) (k seq a n : Nat), (s.ownBytes k seq a n) = (List.range n).map (fun i => s.ownByte k seq (a + i)) ∧
    (((s.ctx k).ownCells seq).all (fun x => decide (x.1 ≠ a)) = true → s.ownByte k seq a = s.mem.read a) ∧
    ∀ l1 l2 b, (s.ctx k).ownCells seq = l1 ++ (a, b) :: l2 → (∀ x ∈ l2, x.1 ≠ a) → s.ownByte k seq a = b

/-- ST.B to ST.D, VST, PST, VSCAT, STQ, STREL, STU and the atomics enter the queue of stores, or an open segment (13_memops, 12_consistency, 14_queues, 19_events). -/
def Obligations.StoresEnterTheirQueue : Prop :=
  (∀ (m : MemP) (q : MemS) (l : MemL),
    let lo : BitVec 10 → Nat → State → List Byte := fun t n s => leBytes n (s.readS s.cur (t.setWidth 6)).toNat
    let off : Nat → Int := fun n => m.off.toInt * n
    let plain : State → StoreKind := fun _ => .plain
    let atom : AtomOp → State → StoreKind := fun op s =>
      .atomic op q.t.toNat (s.readS s.cur (q.t.setWidth 6)) (if op = .cas then s.readS s.cur (q.t.setWidth 6 + 1) else 0)
    Stores (.stB m) m.g m.base (off 1) 1 1 [] plain 0 .u (lo m.t 1) ∧ Stores (.stH m) m.g m.base (off 2) 2 2 [] plain 0 .u (lo m.t 2) ∧
    Stores (.stW m) m.g m.base (off 4) 4 4 [] plain 0 .u (lo m.t 4) ∧ Stores (.stD m) m.g m.base (off 8) 8 8 [] plain 0 .u (lo m.t 8) ∧
    Stores (.vst m) m.g m.base (off 128) 128 4 [m.t.toNat] plain 0 .u (fun s => leBytes 128 (s.readV s.cur m.t.toNat).toNat) ∧
    Stores (.pst m) m.g m.base (off 4) 4 4 [] plain 0 .u (fun s => leBytes 4 (s.readP s.cur (m.t.setWidth 6)).toNat) ∧
    Stores (.strelW q) q.g q.base (q.off.toInt * 4) 4 4 [] (fun _ => .release) 0 q.scope (lo q.t 4) ∧
    Stores (.strelD q) q.g q.base (q.off.toInt * 8) 8 8 [] (fun _ => .release) 0 q.scope (lo q.t 8) ∧
    Stores (.stuW l) l.g l.base (l.off.toInt * 4) 4 4 [] (fun _ => .unlock l.pd.toNat) 0 .u (lo l.t 4) ∧
    Stores (.stuD l) l.g l.base (l.off.toInt * 8) 8 8 [] (fun _ => .unlock l.pd.toNat) 0 .u (lo l.t 8) ∧
    ∀ x ∈ ([(Instr.aaddW q, 4, AtomOp.add), (.aaddD q, 8, .add), (.aminW q, 4, .min), (.aminD q, 8, .min), (.amaxW q, 4, .max), (.amaxD q, 8, .max),
        (.axchW q, 4, .xch), (.axchD q, 8, .xch), (.acasW q, 4, .cas), (.acasD q, 8, .cas)] : List (Instr × Nat × AtomOp)),
      Stores x.1 q.g q.base (q.off.toInt * x.2.1) x.2.1 x.2.1 [] (atom x.2.2) 4 q.scope (lo q.t x.2.1)) ∧
  (∀ (m : MemG) (s : State) (r : Run), s.atSlot 5 r → s.guard s.cur m.g = true → s.engineOpen r 5 → (s.ctx s.cur).stc < 63 → (s.ctx s.cur).seg = none →
    s.inWindow [m.t.toNat, m.vi.toNat] →
    let x : Nat → Int := fun l => (s.readS s.cur m.base).toNat + ((lane (s.readV s.cur m.vi.toNat) l).toNat * 2 ^ m.scale.toNat : Nat)
    (∀ l, l < 32 → s.legalAt (x l) 4 4) → s.demands ((s.ctx s.cur).writeGoals ((List.range 32).map fun l => areaOf (x l).toNat 4)) = [] →
    ∃ lat busy, StoreDone (.vscat m) s s r ⟨.plain, ((List.range 32).map fun l => cellsAt (s.at (x l)) (leBytes 4 (lane (s.readV s.cur m.t.toNat) l).toNat)).flatten,
      0, 4, (List.range 32).map fun l => ((x l).toNat, 4), lat, .u⟩ busy []) ∧
  ∀ (m : MemP) (s : State) (r : Run), s.atSlot 5 r → s.guard s.cur m.g = true → s.engineOpen r 5 → (s.ctx s.cur).stc < 63 → (s.ctx s.cur).seg = none →
    let q := m.t.toNat % 8
    let x : Int := (s.readS s.cur m.base).toNat + m.off.toInt * 128
    s.legalAt x 128 4 → s.demands ((s.ctx s.cur).queueGoals q) = [] → s.demands ((s.ctx s.cur).writeGoals [areaOf x.toNat 128]) = [] →
    (∀ row rest, s.rqRows s.cur q = row :: rest →
      StoreDone (.stq m) s (s.modCore (coreOf s.cur) fun co => { co with rq := put co.rq q rest }) r
        ⟨.plain, cellsAt (s.at x) (leBytes 128 row.toNat), s.at x, 128, [(x.toNat, 128)], spaceLat (spaceOf x.toNat), effScope .u (spaceOf x.toNat)⟩ 1 []) ∧
    (s.rqRows s.cur q = [] → exec (.stq m) s = .next (s.raise s.cur ⟨0x08, BitVec.ofNat 64 q, 0, false⟩ 5))

/-- Misaligned and illegal addresses fault at the L and ST slots; a false guard only counts and retires (13_memops, 03_bundles, 15_tables, 10_memories). That FADDR holds the low 64 bits of a sum outside them is the model's choice, log entry 110; the lane whose latency counts under a false guard is log entry 95. -/
def Obligations.AccessesThatMayNotHappenFault : Prop :=
  ∀ (s : State) (r : Run) (m : MemP) (q : MemS) (l : MemL) (v : MemG), (s.ctx s.cur).run = some r →
    let k := s.cur
    let faults : Instr → Nat → Word → Prop := fun i code a => exec i s = .next (s.raise k ⟨BitVec.ofNat 8 code, a, 0, false⟩ r.slot)
    let p : Nat → List Int := fun n => [(s.readS k m.base).toNat + m.off.toInt * n]
    let qs : Nat → List Int := fun n => [(s.readS k q.base).toNat + q.off.toInt * n]
    let ls : Nat → List Int := fun n => [(s.readS k l.base).toNat + l.off.toInt * n]
    let gs : List Int := (List.range 32).map fun i => ((s.readS k v.base).toNat + ((lane (s.readV k v.vi.toNat) i).toNat * 2 ^ v.scale.toNat : Nat) : Int)
    let loads : List (Instr × Guard × List Nat × List Int × Nat × Nat) :=
      [(.ldB m, m.g, [], p 1, 1, 1), (.ldBu m, m.g, [], p 1, 1, 1), (.ldH m, m.g, [], p 2, 2, 2), (.ldHu m, m.g, [], p 2, 2, 2), (.ldW m, m.g, [], p 4, 4, 4),
        (.ldWu m, m.g, [], p 4, 4, 4), (.ldD m, m.g, [], p 8, 8, 8), (.pld m, m.g, [], p 4, 4, 4), (.vld m, m.g, [m.t.toNat], p 128, 128, 4),
        (.vldb m, m.g, [m.t.toNat], p 4, 4, 4), (.ldacqW q, q.g, [], qs 4, 4, 4), (.ldacqD q, q.g, [], qs 8, 8, 8), (.ldlW l, l.g, [], ls 4, 4, 4),
        (.ldlD l, l.g, [], ls 8, 8, 8), (.vgath v, v.g, [v.t.toNat, v.vi.toNat], gs, 4, 4)]
    let stores : List (Instr × Guard × List Nat × List Int × Nat × Nat) :=
      [(.stB m, m.g, [], p 1, 1, 1), (.stH m, m.g, [], p 2, 2, 2), (.stW m, m.g, [], p 4, 4, 4), (.stD m, m.g, [], p 8, 8, 8), (.pst m, m.g, [], p 4, 4, 4),
        (.vst m, m.g, [m.t.toNat], p 128, 128, 4), (.stq m, m.g, [], p 128, 128, 4), (.strelW q, q.g, [], qs 4, 4, 4), (.strelD q, q.g, [], qs 8, 8, 8),
        (.stuW l, l.g, [], ls 4, 4, 4), (.stuD l, l.g, [], ls 8, 8, 8), (.aaddW q, q.g, [], qs 4, 4, 4), (.aaddD q, q.g, [], qs 8, 8, 8),
        (.aminW q, q.g, [], qs 4, 4, 4), (.aminD q, q.g, [], qs 8, 8, 8), (.amaxW q, q.g, [], qs 4, 4, 4), (.amaxD q, q.g, [], qs 8, 8, 8),
        (.axchW q, q.g, [], qs 4, 4, 4), (.axchD q, q.g, [], qs 8, 8, 8), (.acasW q, q.g, [], qs 4, 4, 4), (.acasD q, q.g, [], qs 8, 8, 8),
        (.vscat v, v.g, [v.t.toNat, v.vi.toNat], gs, 4, 4)]
    ∀ i g regs xs n align, (i, g, regs, xs, n, align) ∈ loads ++ stores →
      let windowed : Int → Prop := fun x => 0 ≤ x ∧ x < 2 ^ 32 ∧ spaceOf x.toNat = 14
      let skew : Int → Prop := fun x => x % (align : Int) ≠ 0 ∨ (0 ≤ x ∧ x < 2 ^ 32 ∧ crossesStripe (s.ctx k).mapped x.toNat n = true)
      let out : Int → Prop := fun x => x < 0 ∨ 2 ^ 32 ≤ x ∨ inRange (s.ctx k).mapped x.toNat n = false
      let first := xs.headD 0
      let lat := if 0 ≤ first ∧ first < 2 ^ 32 then spaceLat (spaceOf first.toNat) else 4
      let retires : State → Ctr → Flight → Prop := fun t ctr f =>
        exec i s = .next t ∧ s.onlyCtxEng t k ∧ f.ctr = ctr ∧ f.dest = .none ∧ f.seq = r.seq ∧ f.acc = true ∧ f.due = s.cyc k + lat
      (s.guard k g = true →
        ((∃ x ∈ xs, windowed x) → (s.rcb k).hwin = false → faults i 0x02 (BitVec.ofNat 64 (encode i))) ∧
        ((s.rcb k).hwin = true ∨ (∀ x ∈ xs, ¬ windowed x) → s.inWindow regs → ∀ before x rest, xs = before ++ x :: rest →
          ((∀ y ∈ before, ¬ skew y) → skew x → faults i 0x05 (BitVec.ofInt 64 x)) ∧
          ((∀ y ∈ xs, ¬ skew y) → (∀ y ∈ before, ¬ out y) → out x → faults i 0x06 (BitVec.ofInt 64 x)))) ∧
      (s.guard k g = false → s.inWindow regs → r.slot = 4 → (i, g, regs, xs, n, align) ∈ loads → s.engineOpen r 4 → (s.ctx k).ldc < 63 → ∃ t f, retires t .ldc f ∧
        t.ctx k = { s.ctx k with
          ldc := (s.ctx k).ldc + 1, flights := (s.ctx k).flights ++ [f], wait := .none, run := some { r with slot := 5 } }) ∧
      (s.guard k g = false → s.inWindow regs → r.slot = 5 → (i, g, regs, xs, n, align) ∈ stores → s.engineOpen r 5 → (s.ctx k).stc < 63 → ∃ t f, retires t .stc f ∧
        t.ctx k = { s.ctx k with
          stc := (s.ctx k).stc + 1, flights := (s.ctx k).flights ++ [f], wait := .none, run := some { r with slot := 6 } })

/-- STORE_PERFORM: the oldest accepted store reaches memory, whole, and no other byte changes (13_memops, 12_consistency). -/
def Obligations.StoresPerformAtMemory : Prop :=
  (∀ (m : Memory) (cs : List Host.Cell) (a : Nat), ((∀ c ∈ cs, c.1 ≠ a) → (m.writes cs).read a = m.read a) ∧
    ∀ b l1 l2, cs = l1 ++ (a, b) :: l2 → (∀ c ∈ l2, c.1 ≠ a) → (m.writes cs).read a = b) ∧
  ∀ (s : State) (k : Nat) (p : PendStore) (rest : List PendStore), (s.ctx k).stq = p :: rest → s.storeReady k = true →
    let pop : Ctx → Ctx := fun c => { c with stq := rest, stc := c.stc - 1 }
    let o := p.op
    let u := s.windowFlits (socketOf k) o.places
    (o.kind = .plain ∨ o.kind = .release → exec (.storePerform k) s = .next ({ u with mem := s.mem.writes o.bytes }.modCtx k pop)) ∧
    (∀ pd, o.kind = .unlock pd →
      let own := (look? s.locks (lockOf o.addr)).any fun (h : Lock) => h.k == k
      ∃ t, exec (.storePerform k) s = .next t ∧ t.mem = (if own then s.mem.writes o.bytes else s.mem) ∧
        t.locks = (if own then del s.locks (lockOf o.addr) else s.locks) ∧
        t = { u with mem := t.mem, locks := t.locks }.modCtx k (fun c => { pop c with flights := (t.ctx k).flights }) ∧
        (pd ≠ 0 → (t.ctx k).flights = fillFlight .stp (.preg pd) p.seq (if own then BitVec.allOnes 1024 else 0) (s.cyc k + o.lat) (s.ctx k).flights)) ∧
    (∀ op d x y, o.kind = .atomic op d x y → o.size = 4 ∨ o.size = 8 → s.lockMine (lockOf o.addr) k = true →
      let w := 8 * o.size
      let old := s.mem.nat o.addr o.size
      let sg : Nat → Int := fun v => (BitVec.ofNat w v).toInt
      let new : Nat := match op with
        | .add => (old + x.toNat) % 2 ^ w
        | .min => if sg x.toNat < sg old then x.toNat % 2 ^ w else old
        | .max => if sg old < sg x.toNat then x.toNat % 2 ^ w else old
        | .xch => x.toNat % 2 ^ w
        | .cas => if old = x.toNat % 2 ^ w then y.toNat % 2 ^ w else old
      exec (.storePerform k) s = .next ({ u with mem := s.mem.writes (cellsAt o.addr (leBytes o.size new)) }.modCtx k fun c => { c with
        stq := rest
        flights := fillFlight .stc (if d = 0 then .none else .sreg d) p.seq ((BitVec.ofInt 64 (sg old)).setWidth 1024) (s.cyc k + o.lat) c.flights }))

/-- ENGINE_ACCEPT, RESULT_LANDS, LOAD_RETIRE, LOCK_GRANT, LOCK_TIMEOUT and LDL_GRANT_TIMEOUT (03_bundles, 13_memops, 17_tile, 18_counters). That a grant and a timeout act at the first step that finds them due is the model's choice, log entry 72. -/
def Obligations.EnginesAcceptAndResultsLand : Prop :=
  (∀ (cyc issued : Nat) (fs : List Flight) (e : Flight),
    (e ∈ fs → (∀ f ∈ fs, f.nominal = e.nominal) → startFlight cyc issued fs e = { e with acc := true, due := cyc + (e.nominal - issued) }) ∧
    ((∀ f ∈ fs, { f with nominal := e.nominal } ≠ e) → startFlight cyc issued fs e = e)) ∧
  ∀ (s : State) (k : Nat),
    let c := s.ctx k
    (∀ b, (c.buf.find? fun (x : BufOp) => x.eng == b.eng) = some b → b.eng < 8 → s.canAccept k b = true →
      let go := exec (.engineAccept k (BitVec.ofNat 3 b.eng)) s
      let u := (s.modCore (coreOf k) fun co => { co with engFree := put co.engFree b.eng (s.cyc k + b.op.interval) }).modCtx k fun c =>
        { c with buf := dropFirst (fun e => e == b) c.buf }
      (∀ m, b.op = .copy m →
        let w := { u with cmds := s.cmds ++ [{ m with id := s.cmdSrc + 1, acceptedAt := s.cyc k }], cmdSrc := s.cmdSrc + 1 }
        go = .next (if m.kind.queued then w.modCluster (clusterOf k) fun cl => cl.granted (coreOf k) else w)) ∧
      (∀ o, b.op = .store o → o.kind ≠ .none → go = .next (u.modCtx k fun c => { c with stq := c.stq ++ [⟨b.seq, s.cyc k, o, none⟩] })) ∧
      (∀ vb fs n, b.op = .result vb fs n → go = .next (u.modCtx k fun c => { c with flights := c.flights.map (startFlight (s.cyc k) b.issued fs) })) ∧
      (∀ o, b.op = .load o → (∀ pd, o.kind ≠ .lock pd) →
        go = .next ((u.windowFlits (socketOf k) (o.parts.map fun (p : Nat × Nat) => p.1)).modCtx k fun c => { c with
          flights := fillFlight .ldc o.dest b.seq (o.kind.value (o.parts.map fun (p : Nat × Nat) => s.ownBytes k b.seq p.1 p.2).flatten) (s.cyc k + o.lat) c.flights })) ∧
      (∀ td a lat, b.op = .tdld td a lat → go = .next (u.modCtx k fun c => { c with
        flights := fillFlight .tlc (.td td) b.seq (BitVec.ofNat 1024 (leNat (s.ownBytes k b.seq a 32))) (s.cyc k + lat) c.flights })) ∧
      (∀ q tds, b.op = .append q tds → go = .next u)) ∧
    (∀ (f : Flight) (before rest : List Flight), c.flights = before ++ f :: rest → f.acc = true → f.due ≤ s.cyc k →
      (∀ e ∈ before, (e.acc = false ∨ s.cyc k < e.due ∨ (e.ctr == .ldc) ≠ (f.ctr == .ldc)) ∧ (e.dest ≠ f.dest ∨ f.dest = .none)) →
      let go := exec (if f.ctr = .ldc then .loadRetire k else .resultLands k) s
      ∃ t, go = .next t ∧ (t.ctx k).flights = before ++ rest ∧
        (∀ d, d ≠ .none → t.regNow k d = if d = f.dest ∧ d ≠ .sreg 0 ∧ d ≠ .preg 0 then d.holds (mergeDest d f.mask f.val (s.regNow k d)) else s.regNow k d) ∧
        (t.ctx k).ldc = c.ldc - (if f.ctr = .ldc then 1 else 0) ∧ (t.ctx k).stc = c.stc - (if f.ctr = .stc then 1 else 0) ∧
        (t.ctx k).tlc = c.tlc - (if f.ctr = .tlc then 1 else 0) ∧ t.mem = s.mem ∧ (∀ j, j ≠ k → t.ctx j = s.ctx j)) ∧
    (∀ l (ldl : Option (LoadOp × Nat)) first before rest, s.lockReqs = before ++ ⟨l, k, false, ldl, first⟩ :: rest → (∀ x ∈ before, x.lock ≠ l) → s.lockOpen l k = true →
      let u := { s with lockReqs := before ++ rest }
      (∀ o seq pd, ldl = some (o, seq) → o.kind = .lock pd → o.lock = l →
        let read := fillFlight .ldc o.dest seq (o.kind.value (o.parts.map fun (p : Nat × Nat) => s.ownBytes k seq p.1 p.2).flatten) (s.cyc k + o.lat) c.flights
        exec (.lockGrant l) s = .next ({ u.windowFlits (socketOf k) (o.parts.map fun (p : Nat × Nat) => p.1) with
            locks := put s.locks l ⟨k, ownerSocket (o.parts.headD (0, 0)).1, (s.cluster (clusterOf k)).fifths, 0⟩ }.modCtx k fun c => { c with
          flights := if pd = 0 then read else fillFlight .ldp (.preg pd) seq (BitVec.allOnes 1024) (s.cyc k + o.lat) read })) ∧
      ∀ p st op d x y, ldl = none → c.stq = p :: st → p.op.kind = .atomic op d x y →
        exec (.lockGrant l) s = .next ((u.popStore k).atomic k p.seq p.op op d x y)) ∧
    (∀ l h, look? s.locks l = some h → h.since + (64 - h.spent) * (s.die h.die).period ≤ (s.cluster (clusterOf h.k)).fifths →
      exec (.lockTimeout l) s = .next { s with locks := del s.locks l }) ∧
    (∀ l h die p, look? s.locks l = some h → h.die = die → 0 < (s.die die).period → 4 ≤ p →
      let now := (s.cluster (clusterOf h.k)).fifths
      let n := (now - h.since) / (s.die die).period
      ∃ t, s.fwWrite (.clock die p) = some t ∧ (t.die die).period = p ∧
        look? t.locks l = some { h with since := h.since + n * (s.die die).period, spent := h.spent + n }) ∧
    ∀ l o seq pd first before rest, s.lockReqs = before ++ ⟨l, k, false, some (o, seq), first⟩ :: rest → o.kind = .lock pd → first + 256 ≤ s.cyc k →
      (∀ x ∈ before, x.k = k → x.ldl = none ∨ s.cyc k < x.first + 256) →
      let void := updFirst (fun (f : Flight) => f.ctr == .ldc && f.dest == o.dest && f.seq == seq && !f.acc)
        (fun f => { f with dest := .none, acc := true, due := s.cyc k + o.lat }) c.flights
      exec (.ldlGrantTimeout k) s = .next ({ s with lockReqs := before ++ rest }.modCtx k fun c => { c with
        flights := if pd = 0 then void else fillFlight .ldp (.preg pd) seq 0 (s.cyc k + o.lat) void })

/-- CPY, CPYIL, CGATH, TMV, CCOLL, CPRE, CFLUSH and CPQ begin their command at the C slot (13_memops, 14_queues, 03_bundles, 12_consistency). That a segment holds a false-guarded command for its kins alone is the model's reading, log entry 30. -/
def Obligations.CopyCommandsEnterTheQueue : Prop :=
  ∀ (s : State) (r : Run) (f : CopyF), s.atSlot 6 r →
    let k := s.cur
    let c := s.ctx k
    let v := (s.readS k f.a).toNat
    let d0 := Desc.ofBytes (s.ownBytes k r.seq (scratchPhys false k v) 128)
    let roomy := s.engineOpen r 6 ∧ c.cpc < 63 ∧ c.tlc < 63
    let begins : Instr → CmdKind → State → Desc → Nat → Option (BitVec 16) → List Host.Cell → Prop := fun i kd u d total gv data =>
      ∃ m, s.fresh r f kd d total gv m ∧ m.data = data ∧ (c.seg = none → CopyDone i s u r m) ∧ (c.seg.isSome = true → CopyHeld i s u r m)
    (s.guard k f.g = true →
      (∀ x ∈ ([(.cpy f, .cpy, true), (.cpyil f, .cpyil, true), (.cgath f, .cgath, true), (.tmv f, .tmv, false), (.ccoll f, .ccoll, false), (.cpre f, .cpre, false),
          (.cflush f, .cflush, false)] : List (Instr × CmdKind × Bool)),
        (x.2.1 = .cflush → f.flags.getLsbD 0 = false) →
        let d := { d0 with defect := d0.bad x.2.1 }
        let total := match x.2.1 with | .cflush => 0 | .cpre => 0 | .ccoll => 1 | kd => d.pieces kd
        let gv := c.sys.gvsel.setWidth 16
        (v % 128 = 0 → v < 0x60000 → roomy → s.demands (c.readGoals [areaOf v 128]) = [] → s.mustNotRead k r.seq [(scratchPhys false k v, 128)] = false →
          s.demands (c.kinGoals (c.copyKins f.toks) ++ c.readGoals (d.srcAreas x.2.1 (s.collBlocks c.region d))) = [] →
          begins x.1 x.2.1 s d total (if !(x.2.2 && f.flags.getLsbD 0) && c.sys.gvsel.getLsbD 16 && gv != s.gencur then some gv else none) []) ∧
        (v % 128 ≠ 0 → exec x.1 s = .next (s.raise k ⟨0x05, BitVec.ofNat 64 v, 0, false⟩ 6)) ∧
        (v % 128 = 0 → 0x60000 ≤ v → exec x.1 s = .next (s.raise k ⟨0x06, BitVec.ofNat 64 v, 0, false⟩ 6))) ∧
      (f.flags.getLsbD 0 = true → roomy → s.demands (c.kinGoals (c.copyKins f.toks)) = [] → begins (.cflush f) .cflush s Desc.blank 0 none []) ∧
      (roomy → s.demands (c.kinGoals (c.copyKins f.toks)) = [] → s.demands (c.queueGoals (f.flags.toNat % 8)) = [] →
        (∀ row rest, s.rqRows k (f.flags.toNat % 8) = row :: rest →
          begins (.cpq f) .cpq ((s.modCore (coreOf k) fun co => { co with rq := put co.rq (f.flags.toNat % 8) rest }).modCtx k fun c =>
              { c with seg := c.seg.map fun (g : Seg) => { g with popped := (f.flags.toNat % 8, row) :: g.popped } })
            { Desc.blank with dst := s.readS k f.a, dvirt := f.flags.getLsbD 3, esize := 4 } 1
            (if c.sys.gvsel.getLsbD 16 && c.sys.gvsel.setWidth 16 != s.gencur then some (c.sys.gvsel.setWidth 16) else none) (cellsAt 0 (leBytes 128 row.toNat))) ∧
        (s.rqRows k (f.flags.toNat % 8) = [] → exec (.cpq f) s = .next (s.raise k ⟨0x08, BitVec.ofNat 64 (f.flags.toNat % 8), 0, false⟩ 6)))) ∧
    (s.guard k f.g = false → roomy → s.demands (c.kinGoals (c.copyKins f.toks)) = [] →
      let held := c.heldKin (c.copyKins f.toks)
      let passes : Instr → CmdKind → Prop := fun i kd =>
        ∃ m, s.fresh r f kd Desc.blank 0 none m ∧ (held = false → CopyDone i s s r m) ∧ (held = true → CopyHeld i s s r m)
      (∀ i ∈ [Instr.cpy f, .cpyil f, .cgath f, .ccoll f, .cpre f, .cflush f, .cpq f], passes i .none) ∧ passes (.tmv f) .noneT)

/-- COPY_START, COPY_PIECE, LANDING_RELEASE, COLLECTIVE_STEP and COPY_COMPLETE (13_memops, 14_queues, 16_thunks, 18_counters, 20_boundary). Pieces in ascending order, each one step, are log entry 71; a collective as one step once every member has arrived is log entry 26. -/
def Obligations.CopiesStartMoveAndComplete : Prop :=
  ∀ (s : State) (id : Nat) (m : Cmd), s.cmds.find? (fun (x : Cmd) => x.id == id) = some m →
    let set : Cmd → List Cmd := fun m' => s.cmds.map fun (x : Cmd) => if x.id == m.id then m' else x
    let bad := m.kins.any fun kb => kb == errKin || ((s.ctx m.k).gen == m.gen && (s.ctx m.k).kinErr kb)
    let active := m.started = true ∧ m.waitLanding = false ∧ m.next < m.total
    (s.canStart m = true → exec (.copyStart id) s =
      .next { s with cmds := set (if bad then { m with started := true, total := 0, code := minCode m.code 0x29 } else { m with started := true }) }) ∧
    (∀ good, active → m.kind = .cpy ∨ m.kind = .tmv → m.desc.svirt = false → m.desc.dvirt = false → s.cut = none → m.desc.esize ≤ 9 → m.k < 12288 →
      let e := m.desc.piece m.kind (fun _ => 0) m.next
      let n := 8 * 2 ^ m.desc.esize
      ∀ src, e.1 = some src → src.toNat < 2 ^ 32 → e.2.toNat < 2 ^ 32 → src.toNat % 8 = 0 → e.2.toNat % 8 = 0 →
      (spaceOf src.toNat ≠ 14 ∧ spaceOf e.2.toNat ≠ 14) → inRange m.mapped src.toNat n = true → inRange m.mapped e.2.toNat n = true →
      crossesStripe m.mapped src.toNat n = false → crossesStripe m.mapped e.2.toNat n = false →
      (s.ctx m.k).openGoals false ((s.ctx m.k).touchGoals (m.ownLanding e.2 n)) = [] →
      ∃ t, exec (.copyPiece id good false) s = .next t ∧
        t.mem = s.mem.writes (cellsAt (scratchPhys m.mapped m.k e.2.toNat) (s.mem.reads (scratchPhys m.mapped m.k src.toNat) n)) ∧
        t = { s with mem := t.mem, clusters := t.clusters, cmds := set { m with next := m.next + 1, tries := 0, data := [] } } ∧
        (m.kind = .tmv → t.clusters = s.clusters)) ∧
    (active → m.kind = .cpy → m.desc.svirt = true → (∀ src, (m.desc.piece .cpy (fun _ => 0) m.next).1 = some src →
      let p := s.piece m (some src) (m.desc.piece .cpy (fun _ => 0) m.next).2
      p.nowhere = false → p.parts ≠ [] → s.canTravel m (touchedBytes (p.reads ++ p.writes)) = true →
        (m.tries < m.desc.retry → exec (.copyPiece id false false) s = .next { s with cmds := set { m with tries := m.tries + 1 } }) ∧
        (m.desc.retry ≤ m.tries → p.codes = [] → m.code = none → exec (.copyPiece id false false) s =
          .next { s with cmds := set { m with next := m.next + 1, code := some 0x27, tries := 0, data := [] } }))) ∧
    (∀ c rest, m.waitLanding = true → m.kind = .cpy → m.data = c :: rest → isGen c.1 = false → s.cut = none → ownerSocket c.1 = socketOf m.k → s.landingGoals m = [] →
      ∃ t, exec (.landingRelease id) s = .next t ∧ t.mem = s.mem.writes m.data ∧ t.cmds = set { m with next := m.next + 1, waitLanding := false, tries := 0, data := [], reads := [] } ∧
        t = { s with mem := t.mem, clusters := t.clusters, cmds := t.cmds }.modCtx m.k fun c =>
          { c with landGoals := c.openGoals false c.landGoals, landImpl := c.landImpl.filter fun e => e.1 != id }) ∧
    (∀ good others, active → m.kind = .ccoll →
      let fail : Cmd → List (BitVec 8) → Cmd := fun x codes => { x with next := x.next + 1, code := minCodes x.code codes, tries := 0, data := [] }
      (s.membersOf m = none → exec (.collectiveStep id good others) s = .next { s with cmds := set (fail m [0x20]) }) ∧
      ∀ ws found, s.membersOf m = some ws →
        ((localMembers ws).map fun p => (p.1, s.instanceOf m.region (collGroup m.desc.aux) p.2)) = found.map (fun p => (p.1, some p.2)) →
        (∀ p ∈ found, p.2.started = true ∧ (s.membersOf p.2).isSome = true) → (∃ p ∈ found, p.2.id = id) →
        let out : Nat × Cmd → Option (List Byte) := fun p => collResult m.desc.aux (m.desc.cnt.headD 0) p.1 (s.collAll found ws.length others)
        let src : Nat × Cmd → List (Sum (Nat × Nat) (Option (BitVec 8))) := fun p => s.collSrc p.2 ws.length p.1
        let dst : Nat × Cmd → List (Nat × Nat) := fun p => partRanges (s.collDst p.2 (out p))
        let failed : (Nat × Cmd → List (BitVec 8)) → State := fun codes => found.foldl (fun t p => t.setCmd (fail p.2 (codes p))) s
        let bad : Nat × Cmd → List (BitVec 8) := fun p => (if s.badReads.contains p.2.id = true ∧ partRanges (src p) ≠ [] then [0x2a] else []) ++ partCodes (src p)
        let cut : Nat × Cmd → Bool := fun p => s.collCut ws.length dst p
        ((∃ p ∈ found, collKey p.2 ≠ collKey m) → exec (.collectiveStep id good others) s = .next (failed fun _ => [0x28])) ∧
        ((∀ p ∈ found, collKey p.2 = collKey m ∧ partsGone (src p) = false) → (∃ p ∈ found, bad p ≠ []) →
          exec (.collectiveStep id good others) s = .next { failed (fun p => if bad p = [] then [0x28] else bad p) with badReads := [] }) ∧
        ((∀ p ∈ found, collKey p.2 = collKey m ∧ partsGone (src p) = false ∧ bad p = [] ∧ partsGone (s.collDst p.2 (out p)) = false) →
          (good = true → (∀ p ∈ found, cut p = false) → (∀ p ∈ found, s.canTravel p.2 (touchedBytes (partRanges (src p) ++ dst p)) = true) →
            exec (.collectiveStep id good others) s = .next (found.foldl (fun t p => t.collDeliver p.2 ws.length p.1 (out p)) s)) ∧
          (good = false ∨ (∃ p ∈ found, cut p = true) →
            let limit := Nat.min m.desc.retry (s.region m.region).rcb.cretry
            (m.tries < limit → exec (.collectiveStep id good others) s = .next { s with cmds := set { m with tries := m.tries + 1 } }) ∧
            (limit ≤ m.tries → exec (.collectiveStep id good others) s =
              .next (failed fun p => if cut p = true ∨ (good = false ∧ p.2.id = id) then [0x27, 0x28] else [0x28]))))) ∧
    (∀ n rank bs, m.kind = .ccoll → m.desc.dvirt = false → s.cut = none → 8 ≤ bs.length → bs.length % 8 = 0 → m.desc.dst.toNat % 8 = 0 → m.desc.dst.toNat < 2 ^ 32 →
      spaceOf m.desc.dst.toNat ≠ 14 → inRange m.mapped m.desc.dst.toNat bs.length = true → crossesStripe m.mapped m.desc.dst.toNat bs.length = false →
      (s.ctx m.k).openGoals false ((s.ctx m.k).touchGoals (m.ownLanding m.desc.dst bs.length)) = [] →
      (s.collDeliver m n rank (some bs)).mem = s.mem.writes (cellsAt (scratchPhys m.mapped m.k m.desc.dst.toNat) bs)) ∧
    (∀ code, s.piecesDone m = true → m.kind = .cpy ∨ m.kind = .tmv → (s.ctx m.k).gen = m.gen → m.code = some code →
      let x := lookD (s.cluster (clusterOf m.k)).dcs m.desc.dc DepCtr.reset
      (m.desc.dcen = true → x.count ≠ 0 ∧ x.links = []) →
      ∃ t, exec (.copyComplete id) s = .next t ∧ t.cmds.map Cmd.id = (dropFirst (fun (x : Cmd) => x.id == id) s.cmds).map Cmd.id ∧ t.mem = s.mem ∧
        (m.desc.dcen = true → lookD (t.cluster (clusterOf m.k)).dcs m.desc.dc DepCtr.reset = { x with count := x.count - 1, err := true }) ∧
        (∃ target, (m.region, code, some target) ∈ t.fwlog) ∧
        (m.kout ≠ 0 → ((s.ctx m.k).tok m.kout).st = .pending → ((s.ctx m.k).tok m.kout).bind = m.koutBind → (t.ctx m.k).tok m.kout = ⟨.produced, true, m.koutBind⟩)) ∧
    (s.piecesDone m = true → m.kind = .cpy ∨ m.kind = .tmv → m.desc.dcen = true →
      let cl := clusterOf m.k
      let x := lookD (s.cluster cl).dcs m.desc.dc DepCtr.reset
      let err := x.err || m.code.isSome
      let zero := (s.modCluster cl fun c => { c with decAt := put c.decAt m.desc.dc c.cycle, dcs := put c.dcs m.desc.dc ⟨0, err, []⟩ }).noteDc cl m.desc.dc
      x.count = 1 → (State.readyLinks cl err x.links zero = none → exec (.copyComplete id) s = .next s) ∧
        ∀ u, State.readyLinks cl err x.links zero = some u → ∃ t, exec (.copyComplete id) s = .next t ∧ t.ready = u.ready ∧ t.regions = u.regions ∧ t.conts = u.conts ∧
          t.mem = u.mem ∧ lookD (t.cluster cl).dcs m.desc.dc DepCtr.reset = lookD (u.cluster cl).dcs m.desc.dc DepCtr.reset) ∧
    (s.piecesDone m = true → m.kind = .cpy ∨ m.kind = .tmv → (s.ctx m.k).gen = m.gen → m.code = none →
      let tok := (s.ctx m.k).tok m.kout
      let x := lookD (s.cluster (clusterOf m.k)).dcs m.desc.dc DepCtr.reset
      (m.desc.dcen = true → x.count ≠ 0 ∧ x.links = []) →
      ∃ t, exec (.copyComplete id) s = .next t ∧ t.cmds = dropFirst (fun (x : Cmd) => x.id == id) s.cmds ∧ t.mem = s.mem ∧
        (m.desc.dcen = true → lookD (t.cluster (clusterOf m.k)).dcs m.desc.dc DepCtr.reset = { x with count := x.count - 1 }) ∧
        (m.desc.dcen = false → t.clusters = s.clusters) ∧
        t.ctx m.k = { s.ctx m.k with
          cpc := (s.ctx m.k).cpc - (if m.kind = .cpy then 1 else 0), tlc := (s.ctx m.k).tlc - (if m.kind = .tmv then 1 else 0), toks := (t.ctx m.k).toks, wait := (t.ctx m.k).wait } ∧
        (m.kout ≠ 0 → tok.st = .pending → tok.bind = m.koutBind → (t.ctx m.k).tok m.kout = ⟨.produced, false, m.koutBind⟩) ∧
        (m.kout ≠ 0 → tok.bind ≠ m.koutBind → (t.ctx m.k).tok m.kout = tok))

/-- WAIT, WAITK, WAITDC, DRAIN and BRKPT; Y slots under a false guard and in a segment (18_counters, 12_consistency, 03_bundles, 04_segments, 19_events). R388 names the bundle that would issue next; that BRK in a bundle that ends the task body has EPC and SLOTRES name that bundle's last slot is the model's choice, log entry 108. -/
def Obligations.WaitsEndWhenTheirConditionHolds : Prop :=
  ∀ (s : State) (r : Run) (g : Guard) (wl ws wc wt n : BitVec 4) (dn : BitVec 9) (b : BitVec 5) (sc : Scope) (d a e p : BitVec 6) (q : RingF), s.atSlot 7 r → q.g = g →
    let k := s.cur
    let c := s.ctx k
    let x := lookD (s.cluster (clusterOf k)).dcs dn.toNat DepCtr.reset
    (s.guard k g = false → ∀ i ∈ [Instr.wait g wl ws wc wt, .waitk g n, .waitdc g dn d, .drain g sc, .dcset g dn a, .timer g d a e, .bara g b, .barw g b, .bart g b p,
      .snap g d, .gview g d a, .spawn g d a e, .grow g d a, .exit g, .qacq q, .qcommit q, .qpeek q, .qrel q, .brkpt g], EndsIn i s s) ∧
    (s.guard k g = true → c.mustCommit = true → (c.held ≠ [] ∨ c.committing = false) → ∀ i ∈ [Instr.dcset g dn a, .timer g d a e, .snap g d, .gview g d a, .spawn g d a e, .grow g d a, .exit g],
      exec i s = .next ((s.modCtx k fun c => c.commits (s.cyc k)).stalls .commit)) ∧
    (s.guard k g = true →
      let low := c.ldc ≤ wl.toNat ∧ c.stc ≤ ws.toNat ∧ c.cpc ≤ wc.toNat ∧ c.tlc ≤ wt.toNat
      (low → EndsIn (.wait g wl ws wc wt) s s) ∧
      (¬ low → exec (.wait g wl ws wc wt) s = .next (s.waits (.limits wl.toNat ws.toNat wc.toNat wt.toNat))) ∧
      let kb := (n.toNat, (c.tok0 n.toNat).bind)
      ((c.tok0 n.toNat).st ≠ .pending → EndsIn (.waitk g n) s s) ∧
      ((c.tok0 n.toNat).st = .pending → s.demands (c.kinGoals [kb]) = [] →
        (s.kinOpen k kb = false → EndsIn (.waitk g n) s s) ∧ (s.kinOpen k kb = true → exec (.waitk g n) s = .next (s.waits (.kin n.toNat (c.tok0 n.toNat).bind)))) ∧
      (∀ m e, c.wait = .dcMet m e → EndsIn (.waitdc g dn d) s (s.putS k d (if e then 1 else 0))) ∧
      ((∀ m e, c.wait ≠ .dcMet m e) → (x.count = 0 → EndsIn (.waitdc g dn d) s (s.putS k d (if x.err then 1 else 0))) ∧
        (x.count ≠ 0 → exec (.waitdc g dn d) s = .next (s.waits (.dcZero dn.toNat)))) ∧
      (s.demands c.scratchGoals = [] → c.held ≠ [] → c.countersDone = true → (∃ y, c.wait = .pathCycle y ∨ c.wait = .pathTime y) →
        ∃ e, e.seq = r.seq ∧ e.op = .sync none ∧ EndsIn (.drain g sc) s (s.modCtx k fun c => { c with held := c.held ++ [e] })) ∧
      (s.demands c.scratchGoals = [] → c.held = [] → r.ldl = none →
        let zero := c.ldc = 0 ∧ c.stc = 0 ∧ c.cpc = 0 ∧ c.tlc = 0
        (¬ zero → exec (.drain g sc) s = .next (s.waits .counters)) ∧
        (zero → (∃ y, c.wait = .pathCycle y ∨ c.wait = .pathTime y) → EndsIn (.drain g sc) s s) ∧
        (zero → (∀ y, c.wait ≠ .pathTime y ∧ c.wait ≠ .pathCycle y) → match sc with
          | .u => EndsIn (.drain g sc) s s
          | .c => exec (.drain g sc) s = .next (s.waits (.pathCycle (s.cyc k + 1)))
          | .d => exec (.drain g sc) s = .next (s.waits (.pathCycle (s.cyc k + 4)))
          | .p => ∃ y, y ≤ 40 ∧ exec (.drain g sc) s = .next (s.waits (.pathTime (s.time + y)))
          | .s => ∃ y, y ≤ 80 ∧ exec (.drain g sc) s = .next (s.waits (.pathTime (s.time + y))))) ∧
      (c.inHandler = false → r.ldl = none → c.mustCommit = false → c.held = [] → c.committing = false →
        ∃ t, exec (.brkpt g) s = .next t ∧ (s.leaveQueues k).onlyCtx t k ∧
          let c' := t.ctx k
          let next := if c.sys.psw.getLsbD 3 then c.sys.etgt else r.xfer.getD r.fall
          c'.pc = c.sys.evec ∧ c'.run = none ∧ c'.sys.fstat.toNat % 256 = 0x0b ∧ c'.sys.fstat.toNat / 256 % 16 = 7 ∧
          (if r.fallEnd = true ∧ r.xfer = none ∧ c.sys.psw.getLsbD 3 = false then c'.sys.epc = mkRp r.xb.addr 7 r.xb.back r.xb.bidx
            else rpAddr c'.sys.epc = rpAddr next ∧ rpSlot c'.sys.epc = 0 ∧ rpBack c'.sys.epc = rpBack next ∧ rpBidx c'.sys.epc = rpBidx next) ∧
          c'.sys.psw.getLsbD 4 = true ∧ c'.sys.psw.getLsbD 3 = false ∧
          c'.sregs = c.sregs ∧ c'.pregs = c.pregs ∧ c'.vregs = c.vregs ∧ c'.flights = c.flights))

/-- DCSET, TIMER and TIMER_EXPIRY; results that the Y slot writes (18_counters, 04_segments, 14_queues). -/
def Obligations.CountersAndTimersAct : Prop :=
  (∀ (s : State) (k lat : Nat) (d : BitVec 6) (v : Word) (m : BitVec 32),
    (s.hasWritten (s.putS k d v) k (wS d v) ∧ s.onlyCtx (s.putS k d v) k ∧
      ∃ o, (s.putS k d v).ctx k = { s.ctx k with sregs := ((s.putS k d v).ctx k).sregs, flights := ((s.putS k d v).ctx k).flights, run := o }) ∧
    (s.hasWritten (s.postP k d m lat) k (wP d m) ∧ s.onlyCtx (s.postP k d m lat) k ∧
      ∃ o, (s.postP k d m lat).ctx k = { s.ctx k with pregs := ((s.postP k d m lat).ctx k).pregs, flights := ((s.postP k d m lat).ctx k).flights, run := o }) ∧
    s.hasWritten (s.lateS k d v lat) k (wS d v) ∧ s.onlyCtx (s.lateS k d v lat) k ∧
    (s.lateS k d v lat).ctx k = { s.ctx k with flights := ((s.lateS k d v lat).ctx k).flights } ∧
    s.hasWritten (s.lateP k d m lat) k (wP d m) ∧ s.onlyCtx (s.lateP k d m lat) k ∧
    (s.lateP k d m lat).ctx k = { s.ctx k with flights := ((s.lateP k d m lat).ctx k).flights }) ∧
  (∀ (s : State) (r : Run) (g : Guard) (n : BitVec 9) (d a b : BitVec 6), s.atSlot 7 r → s.guard s.cur g = true → s.alone r →
    let k := s.cur
    let cl := clusterOf k
    let x := lookD (s.cluster cl).dcs n.toNat DepCtr.reset
    let v := (s.readS k a).setWidth 16
    let set : List (BitVec 32) → State := fun l => (s.closeSeg k).modCluster cl fun c => { c with dcs := put c.dcs n.toNat ⟨v, false, l⟩ }
    let span := (s.readS k a).toNat % 2 ^ 32
    let now := s.time % 2 ^ 63
    let zero := (set []).noteDc cl n.toNat
    (look? (s.cluster cl).decAt n.toNat = some (s.cyc k) → exec (.dcset g n a) s = .next ((s.closeSeg k).stalls (.pathCycle (s.cyc k + 1)))) ∧
    (look? (s.cluster cl).decAt n.toNat ≠ some (s.cyc k) →
      (v ≠ 0 → EndsIn (.dcset g n a) s (set x.links)) ∧ (v = 0 → x.links = [] → EndsIn (.dcset g n a) s zero) ∧
      (∀ t, v = 0 → State.readyLinks cl false x.links zero = some t → EndsIn (.dcset g n a) s t) ∧
      (v = 0 → State.readyLinks cl false x.links zero = none → exec (.dcset g n a) s = .next ((s.closeSeg k).stalls (.spillDc n.toNat)))) ∧
    (span = 0 → EndsIn (.timer g d a b) s ((s.closeSeg k).putS k d (BitVec.ofNat 64 now))) ∧
    (span ≠ 0 → (∃ i, i < 64 ∧ look? (s.cluster cl).timers i = none) → ∃ i, i < 64 ∧ look? (s.cluster cl).timers i = none ∧
      EndsIn (.timer g d a b) s (((s.closeSeg k).modCluster cl fun c =>
        { c with timers := put c.timers i ⟨now + span, (s.readS k b).toNat % 512⟩ }).putS k d (BitVec.ofNat 64 now))) ∧
    (span ≠ 0 → (∀ i, i < 64 → look? (s.cluster cl).timers i ≠ none) → EndsIn (.timer g d a b) s ((s.closeSeg k).putS k d 0x8000000000000000))) ∧
  (∀ (s : State) (cl n j : Nat), let x := lookD (s.cluster cl).dcs n DepCtr.reset
    x.count = 0 → (s.noteDc cl n).ctx j =
      { s.ctx j with wait := if clusterOf j = cl ∧ (s.ctx j).wait = .dcZero n then .dcMet n x.err else (s.ctx j).wait }) ∧
  (∀ (s : State) (cl : Nat) (err : Bool) (rec_ : BitVec 32) (rest : List (BitVec 32)),
    State.readyLinks cl err (rec_ :: rest) s = (State.readyLinks cl err [rec_] s).bind (State.readyLinks cl err rest) ∧
    ∀ c, look? s.conts (contKey cl rec_) = some c →
      let e : Ready := ⟨cl, rec_, (s.grid c.grid).region, c.grid, 0, s.stamp + 1, s.time, c.core, c.saved⟩
      let p := clusterPhys cl rec_
      s.mustSpill e = false → ∃ m : Memory, State.readyLinks cl err [rec_] s = some { s with
          ready := s.ready ++ [e], stamp := s.stamp + 1, mem := m, conts := put s.conts (contKey cl rec_) { c with err := err }, freeIx := s.freeIx + 1 } ∧
        m.nat (p + 0x28) 4 = s.mem.nat (p + 0x28) 4 % 2 ^ 10 + (if err then 2 ^ 10 else 0) ∧ m.nat (p + 0x30) 8 = s.time % 2 ^ 64) ∧
  ∀ (s : State) (cl : BitVec 5) (i : BitVec 6) (t : Timer), look? (s.cluster cl.toNat).timers i.toNat = some t →
    let x := lookD (s.cluster cl.toNat).dcs t.dc DepCtr.reset
    (s.time < t.expiry → exec (.timerExpiry cl i) s = .next s) ∧
    (t.expiry ≤ s.time →
      let after : DepCtr → State := fun y => s.modCluster cl.toNat fun c => { c with decAt := put c.decAt t.dc c.cycle, dcs := put c.dcs t.dc y }
      let free : State → State := fun u => u.modCluster cl.toNat fun c => { c with timers := del c.timers i.toNat }
      (1 < x.count → exec (.timerExpiry cl i) s = .next (free (after ⟨x.count - 1, x.err, x.links⟩))) ∧
      (x.count = 1 → x.links = [] → exec (.timerExpiry cl i) s = .next (free ((after ⟨0, x.err, []⟩).noteDc cl.toNat t.dc))) ∧
      (x.count = 1 → (∀ u, State.readyLinks cl.toNat x.err x.links ((after ⟨0, x.err, []⟩).noteDc cl.toNat t.dc) = some u → exec (.timerExpiry cl i) s = .next (free u)) ∧
        (State.readyLinks cl.toNat x.err x.links ((after ⟨0, x.err, []⟩).noteDc cl.toNat t.dc) = none → exec (.timerExpiry cl i) s = .next s)) ∧
      (x.count = 0 → exec (.timerExpiry cl i) s = .next (free (after { x with err := true }))))

/-- BARA arrives after its release, BARW waits for the phase it arrived in, BART reads PERR (18_counters, 12_consistency). That a BARA of an open segment is held whatever the segment holds is the model's choice, log entry 36. -/
def Obligations.BarriersArriveWaitAndTest : Prop :=
  ∀ (s : State) (r : Run) (g : Guard) (b : BitVec 5) (p : BitVec 6), s.atSlot 7 r → s.guard s.cur g = true →
    let k := s.cur
    let c := s.ctx k
    let n := b.toNat
    let w := lookD (s.cluster (clusterOf k)).bars n Barrier.reset
    let arrives : Barrier → Barrier := fun w =>
      let err := w.err || r.sys0.fstat.getLsbD 24
      if w.target ≤ w.count + 1 then ⟨w.target, 0, !w.phase, false, err⟩ else ⟨w.target, w.count + 1, w.phase, err, w.perr⟩
    let own := c.held.any fun (x : BufOp) => x.op == .sync (some n)
    let ended := c.wait = .phaseMet ∨ w.phase ≠ c.barst.getLsbD (32 + n)
    (c.seg = none → s.released → ∃ (st : Word) (t : State), (∀ i, i < 64 → st.getLsbD i = if i = n then true else if i = 32 + n then w.phase else c.barst.getLsbD i) ∧
      exec (.bara g b) s = .next t ∧
      exec .nop (((s.modCtx k fun c => { c with barst := st }).modCluster (clusterOf k) fun cl => { cl with
        bars := put cl.bars n (arrives w), seen := cl.seen.map fun (e : Seen) => { e with bars := put e.bars n (arrives (lookD e.bars n Barrier.reset)) } }).notePhases (clusterOf k)) = .next t) ∧
    (c.seg = none → s.demands c.scratchGoals = [] → s.priorDone k = false → exec (.bara g b) s = .next (s.stalls (.earlier r.seq))) ∧
    (c.seg.isSome = true → ∃ (e : BufOp) (t : State), e.seq = r.seq ∧ e.op = .sync (some n) ∧ exec (.bara g b) s = .next t ∧
      exec .nop (s.modCtx k fun c => { c with held := c.held ++ [e] }) = .next t) ∧
    (own = false → c.barst.getLsbD n = false → ∃ t, exec (.barw g b) s = .next t ∧ exec .nop s = .next t) ∧
    (own = true ∨ (c.barst.getLsbD n = true ∧ ¬ ended) → exec (.barw g b) s = .next (s.waits (.phase n))) ∧
    (own = false → c.barst.getLsbD n = true → ended → ∃ (st : Word) (t : State), (∀ i, i < 64 → st.getLsbD i = (c.barst.getLsbD i && i != n)) ∧
      exec (.barw g b) s = .next t ∧ exec .nop (s.modCtx k fun c => { c with barst := st }) = .next t) ∧
    (∃ t, exec (.bart g b p) s = .next t ∧ exec .nop (s.postP k p (if w.perr then 0xffffffff else 0) 4) = .next t) ∧
    ∀ (u : State) (cl j : Nat), (u.notePhases cl).ctx j = { u.ctx j with wait := match (u.ctx j).wait with
      | .phase i => if clusterOf j = cl ∧ (u.ctx j).held.any (fun (x : BufOp) => x.op == .sync (some i)) = false ∧ (lookD (u.cluster cl).bars i Barrier.reset).phase ≠ (u.ctx j).barst.getLsbD (32 + i) then .phaseMet else .phase i
      | x => x }

/-- SNAP answers a failure or begins a cut; GVIEW selects what later reads see (11_generations, 12_consistency, 04_segments). The order in which the coordinator serves SNAPs is the model's reading, log entry 39. -/
def Obligations.SnapshotsBeginAndViewsAreSelected : Prop :=
  ∀ (s : State) (r : Run) (g : Guard) (d a : BitVec 6), s.atSlot 7 r → s.guard s.cur g = true → s.alone r →
    let k := s.cur
    let c := s.ctx k
    let u := s.closeSeg k
    let v := u.snapAsk k
    let kept := { v with snapQ := v.snapQ.map fun (x : Nat × Bool) => if x.1 = k then (k, true) else x }
    let cuts : State → State := fun t => { t with cut := some ⟨s.gencur, k, d.toNat, false, 0⟩ }.waits .cut
    let fails : Nat → Prop := fun why => EndsIn (.snap g d) s ((v.snapDone k).putS k d (BitVec.ofNat 64 (2 ^ 63 + why * 2 ^ 56 + s.gencur.toNat * 2 ^ 16)))
    let right := (s.region c.region).rcb.snapRight
    let old_ := ∃ x ∈ s.live, 2 ^ 15 ≤ (s.gencur + 1 - x).toNat
    (v.snapQ = if s.snapQ.any (fun x => x.1 == k) then s.snapQ else s.snapQ ++ [(k, false)]) ∧
    (s.snapPath k = false → exec (.snap g d) s = .next (u.waits .cut)) ∧
    (s.snapPath k = true → s.cut ≠ none ∨ (∀ x rest, v.snapQ = x :: rest → x.1 ≠ k) → exec (.snap g d) s = .next (v.waits .cut)) ∧
    (∀ x rest, s.snapPath k = true → s.cut = none → v.snapQ = x :: rest → x.1 = k →
      ((k, true) ∉ v.snapQ →
        (right = false → fails 1) ∧ (right = true → s.linksDown ≠ 0 → fails 4) ∧
        (right = true → s.linksDown = 0 → s.live.length = 7 → fails 2) ∧
        (right = true → s.linksDown = 0 → s.live.length ≠ 7 → old_ → fails 3) ∧
        (right = true → s.linksDown = 0 → s.live.length ≠ 7 → ¬ old_ → u.demands c.scratchGoals = [] → c.ldc = 0 ∧ c.stc = 0 ∧ c.cpc = 0 ∧ c.tlc = 0 →
          ((∀ y, c.wait ≠ .pathTime y ∧ c.wait ≠ .pathCycle y) → ∃ y, y ≤ 40 ∧ exec (.snap g d) s = .next (kept.waits (.pathTime (s.time + y)))) ∧
          (∀ y, c.wait = .pathTime y → exec (.snap g d) s = .next (cuts kept)))) ∧
      ((k, true) ∈ v.snapQ → u.demands c.scratchGoals = [] → c.ldc = 0 ∧ c.stc = 0 ∧ c.cpc = 0 ∧ c.tlc = 0 →
        ((∀ y, c.wait ≠ .pathTime y ∧ c.wait ≠ .pathCycle y) → ∃ y, y ≤ 40 ∧ exec (.snap g d) s = .next (v.waits (.pathTime (s.time + y)))) ∧
        (∀ y, c.wait = .pathTime y → exec (.snap g d) s = .next (cuts v)))) ∧
    let old := c.sys.gvsel.setWidth 64
    let sel : BitVec 32 → State := fun v => (u.modCtx k fun c => { c with sys := { c.sys with gvsel := v } }).putS k d old
    let req := s.readS k a
    let x := req.setWidth 16
    (a = 0 ∨ req.getLsbD 63 = true → EndsIn (.gview g d a) s (sel 0)) ∧
    (a ≠ 0 → req.getLsbD 63 = false → right = false → EndsIn (.gview g d a) s (u.putS k d 0x8100000000000000)) ∧
    (a ≠ 0 → req.getLsbD 63 = false → right = true → x ≠ s.gencur → x ∉ s.live → EndsIn (.gview g d a) s (u.putS k d 0x8200000000000000)) ∧
    (a ≠ 0 → req.getLsbD 63 = false → right = true → x = s.gencur ∨ x ∈ s.live → EndsIn (.gview g d a) s (sel (BitVec.ofNat 32 (0x10000 + x.toNat))))

/-- SPAWN, GROW and DISPATCHER_ACCEPT; what a new continuation's record holds (15_tables, 02_execution, 14_queues, 18_counters). -/
def Obligations.SpawnAndGrowAreAccepted : Prop :=
  (∀ (s : State) (k : Nat) (r : Run) (rc : BitVec 32), (s.ctx k).wait = .accept → (s.ctx k).run = some r →
    let accepted := s.putCtx k { s.ctx k with wait := .accepted rc.toNat }
    (∀ g d a b, r.xb.instr r.slot = .ok (.spawn g d a b) →
      let spec := (s.readS k b).toNat
      (s.poolFree (clusterOf k) = 0 ∨ (s.recFree (clusterOf k) rc = true ∧
        ((spec.testBit 9 = true ∧ (lookD (s.cluster (clusterOf k)).dcs (spec % 512) DepCtr.reset).count ≠ 0) ∨ s.canReady (s.childOf k rc) = true)) →
        exec (.dispatcherAccept k rc) s = .next accepted) ∧
      (s.poolFree (clusterOf k) ≠ 0 → s.recFree (clusterOf k) rc = false → exec (.dispatcherAccept k rc) s = .next s)) ∧
    (∀ g d a, r.xb.instr r.slot = .ok (.grow g d a) → exec (.dispatcherAccept k rc) s = .next accepted)) ∧
  (∀ (s : State) (cl grid gidx up wo arg : Nat) (rc : BitVec 32) (pc : Word), s.mem.wf = true → gidx < 2 ^ 32 → up < 2 ^ 64 → wo < 2 ^ 32 → arg < 2 ^ 64 →
    let t := s.newRecord cl rc grid pc gidx up wo arg
    let a := clusterPhys cl rc
    t.mem.nat a 8 = pc.toNat ∧ t.mem.nat (a + 8) 8 = (s.region (s.grid grid).region).rcbVa.toNat ∧ t.mem.nat (a + 0x10) 4 = (s.grid grid).lrec.toNat ∧
      t.mem.nat (a + 0x14) 4 = gidx ∧ t.mem.nat (a + 0x18) 8 = 0 ∧ t.mem.nat (a + 0x20) 8 = up ∧ t.mem.nat (a + 0x28) 4 = wo ∧ t.mem.nat (a + 0x38) 8 = arg ∧
      (∀ x, x < a ∨ a + 64 ≤ x → t.mem.read x = s.mem.read x) ∧
      t = { s with mem := t.mem, conts := put s.conts (contKey cl rc) ⟨grid, none, false, false⟩ }.modGrid grid fun g => { g with conts := g.conts + 1 }) ∧
  (∀ (s : State) (cl n : Nat) (rc : BitVec 32), let t := s.linkDc cl n rc
    let x := lookD (s.cluster cl).dcs n DepCtr.reset
    t = { s with clusters := t.clusters, mem := t.mem, freeIx := t.freeIx } ∧
      t.cluster cl = { s.cluster cl with dcs := put (s.cluster cl).dcs n { x with links := x.links ++ [rc] } } ∧
      ∀ y, y < clusterPhys cl rc + 0x2c ∨ clusterPhys cl rc + 0x30 ≤ y → t.mem.read y = s.mem.read y) ∧
  ∀ (s : State) (r : Run) (g : Guard) (d a b : BitVec 6), s.atSlot 7 r → s.guard s.cur g = true → s.alone r →
    let k := s.cur
    let c := s.ctx k
    let cl := clusterOf k
    let u := s.closeSeg k
    let m := (s.readS k a).toNat % 2 ^ 32
    let q := s.grid c.grid
    let right := (s.region c.region).rcb.growRight
    (u.demands c.scratchGoals = [] →
      ((∀ n, c.wait ≠ .accepted n) → right = false ∨ m = 0 ∨ 2 ^ 32 ≤ q.groups + m ∨ (q.mapped = true ∧ m % 96 ≠ 0) → exec (.grow g d a) s = .next (u.stalls .accept)) ∧
      ∀ n, c.wait = .accepted n →
        (right = false → EndsIn (.grow g d a) s (u.putS k d 0x8100000000000000)) ∧
        (right = true → m = 0 ∨ 2 ^ 32 ≤ q.groups + m → EndsIn (.grow g d a) s (u.putS k d 0x8200000000000000)) ∧
        (right = true → m ≠ 0 → q.groups + m < 2 ^ 32 → q.mapped = true → m % 96 ≠ 0 → EndsIn (.grow g d a) s (u.putS k d 0x8300000000000000))) ∧
    (u.released → ((∀ n, c.wait ≠ .accepted n) → ∀ i ∈ [Instr.spawn g d a b, .grow g d a], exec i s = .next (u.stalls .accept)) ∧
    ∀ n, c.wait = .accepted n →
      let rc := BitVec.ofNat 32 n
      let spec := (s.readS k b).toNat
      let x := lookD (s.cluster cl).dcs (spec % 512) DepCtr.reset
      let child := u.newRecord cl rc c.grid (rpAt (s.readS k a &&& 0x000fffffffffffff) 0) c.gidx.toNat (upredOf fun n => s.readP k (BitVec.ofNat 6 n)) (spec % 1024) (spec / 2 ^ 32)
      let linked := spec.testBit 9 && x.count != 0
      (s.poolFree cl = 0 → EndsIn (.spawn g d a b) s (u.putS k d 0x8100000000000000)) ∧
      (s.poolFree cl ≠ 0 → s.recFree cl rc = true → linked = true → EndsIn (.spawn g d a b) s ((child.linkDc cl (spec % 512) rc).putS k d (rc.setWidth 64))) ∧
      (s.poolFree cl ≠ 0 → s.recFree cl rc = true → linked = false → s.canReady (s.childOf k rc) = true →
        EndsIn (.spawn g d a b) s (((child.setRecErr cl rc (spec.testBit 9 && x.err)).makeReady (s.childOf k rc)).putS k d (rc.setWidth 64))) ∧
      (right = true → m ≠ 0 → q.groups + m < 2 ^ 32 → q.mapped = false ∨ m % 96 = 0 → EndsIn (.grow g d a) s
        (((u.putLoop q 0x18 (q.groups + m)).modGrid c.grid fun q => { q with groups := q.groups + m }).putS k d (BitVec.ofNat 64 q.groups))))

/-- EXIT, YIELD and SUSPEND once the context is drained (15_tables, 02_execution, 14_queues, 18_counters). It rests on the model's readings in log entries 24, 25 and 78. -/
def Obligations.SuspensionPointsFreeTheContext : Prop :=
  (∀ (x : Core) (k : Nat), x.runsFor k = true ↔ ∃ j, (x.job = some j ∨ x.race = some j) ∧ j.k = k) ∧
  ∀ (s : State) (r : Run) (g : Guard), s.atSlot 7 r → s.guard s.cur g = true → s.alone r →
    let k := s.cur
    let c := s.ctx k
    let cl := clusterOf k
    let u := s.closeSeg k
    u.demands c.allGoals = [] →
    let drained := c.ldc = 0 ∧ c.stc = 0 ∧ c.tlc = 0 ∧ ∀ f ∈ c.flights, ∀ n, f.dest ≠ .preg n
    (¬ drained → exec (.exit g) s = .next (u.waits .drainOut) ∧
      (c.inHandler = false → ∀ i ∈ [Instr.yield g, .suspend g], exec i s = .next (u.waits .drainOut))) ∧
    (drained → c.kown = true → (s.core (coreOf k)).runsFor k = true → exec (.exit g) s = .next (u.waits .retire) ∧
      (c.inHandler = false → ∀ i ∈ [Instr.yield g, .suspend g], exec i s = .next (u.waits .retire))) ∧
    (drained → c.kown = false ∨ (s.core (coreOf k)).runsFor k = false →
      (let q := s.grid c.grid
       let last := q.live = true ∧ q.issued = q.groups ∧ q.conts ≤ 1
       ∃ t, exec (.exit g) s = .next t ∧ (t.ctx k).status = .free ∧ (t.ctx k).gen = c.gen + 1 ∧ t.conts = del s.conts (contKey cl c.record) ∧ t.mem = s.mem ∧
         t.ready = s.ready ∧ (c.kown = true → (t.core (coreOf k)).owner = none ∧ (t.core (coreOf k)).rq = []) ∧
         (¬ last → t.grid c.grid = { q with conts := q.conts - 1 } ∧ t.ended = s.ended ∧ t.regions = s.regions) ∧
         (last → (t.grid c.grid).live = false ∧ t.ended = s.ended ++ [⟨q.port, q.queue, q.launch, q.user, 0, 0⟩])) ∧
      let a := clusterPhys cl c.record
      let wo := s.mem.nat (a + 0x28) 4
      let x := lookD (s.cluster cl).dcs (wo % 512) DepCtr.reset
      let e := s.readyOf cl c.record
      let next := if c.sys.psw.getLsbD 3 then c.sys.etgt else r.xfer.getD r.fall
      let x0 := s.cont cl c.record
      let back : Bool → State → Prop := fun err t => (t.ctx k).status = .free ∧ (t.ctx k).gen = c.gen + 1 ∧
        t.conts = put s.conts (contKey cl c.record) { x0 with err := err } ∧ t.grids = s.grids ∧ t.ended = s.ended ∧
        t.mem.nat a 8 = next.toNat ∧ t.mem.nat (a + 0x18) 4 = (c.iidx + (if r.xb.pfx.getLsbD 2 then 1 else 0)).toNat ∧
        (∀ n, n < 64 → (t.mem.nat (a + 0x20) 8).testBit n = (decide (1 ≤ n ∧ n < 48) && (s.regNow k (.preg n)).getLsbD 0)) ∧
        (∀ y, y < a ∨ a + 64 ≤ y → t.mem.read y = s.mem.read y) ∧
        t.mem.nat (a + 0x28) 4 = wo % 1024 + (if err then 1024 else 0) ∧ t.mem.nat (a + 0x30) 8 = s.time
      let queued : Bool → State → Prop := fun err t => back err t ∧ t.ready = s.ready ++ [{ e with order := s.stamp + 1, tready := s.time }]
      s.mem.wf = true → s.time < 2 ^ 64 → c.inHandler = false →
        (s.mustSpill e = false → ∃ t, exec (.yield g) s = .next t ∧ queued x0.err t) ∧
        (s.mustSpill e = false → wo.testBit 9 = false ∨ x.count = 0 → ∃ t, exec (.suspend g) s = .next t ∧ queued (if wo.testBit 9 then x.err else x0.err) t) ∧
        (wo.testBit 9 = true → x.count ≠ 0 → ∃ t, exec (.suspend g) s = .next t ∧ back x0.err t ∧ t.ready = s.ready ∧
          (t.cluster cl).dcs = put (s.cluster cl).dcs (wo % 512) { x with links := x.links ++ [c.record] }))

/-- QACQ, QCOMMIT, QPEEK and QREL: checks, results and the one index each writes (14_queues, 13_memops, 04_segments). That ADDR is judged before ALIGN is the model's reading, log entry 34, as is that QPEEK acts without a release, log entry 37. -/
def Obligations.RingBlocksActAtomically : Prop :=
  ∀ (s : State) (r : Run) (q : RingF), s.atSlot 7 r → s.guard s.cur q.g = true →
    let k := s.cur
    let c := s.ctx k
    let v := (s.readS k q.r).toNat
    let ea := v % 2 ^ 32 / 32 * 32
    let outside := 2 ^ 32 ≤ v ∨ (spaceOf ea ≠ 1 ∧ spaceOf ea ≠ 3) ∨ inRange false ea 32 = false
    let trap : BitVec 8 → State := fun code => s.raise k ⟨code, BitVec.ofNat 64 v, 0, false⟩ 7
    (outside → ∀ i ∈ [Instr.qacq q, .qcommit q, .qpeek q, .qrel q], exec i s = .next (trap 0x06)) ∧
    (¬ outside → v % 32 / 2 ≠ 0 → ∀ i ∈ [Instr.qacq q, .qcommit q, .qpeek q, .qrel q], exec i s = .next (trap 0x05)) ∧
    (¬ outside → v % 2 = 1 → ∀ i ∈ [Instr.qcommit q, .qpeek q, .qrel q], exec i s = .next (trap 0x05)) ∧
    (¬ outside → v % 32 / 2 = 0 → s.alone r →
      let u := s.closeSeg k
      let a := scratchPhys false k ea
      let rd : Nat → Nat := fun o => s.mem.nat (a + o) 4
      let base := rd 0
      let geom := rd 4
      let rsv := rd 8
      let cmt := rd 12
      let next := rd 16
      let rel := rd 20
      let size := geom % 2 ^ 16
      let slots := 2 ^ (geom / 2 ^ 16 % 16)
      let past : Nat → Nat := fun i => (i + 2 ^ 32 - rel) % 2 ^ 32
      let good := s.mem.nat (a + 24) 8 = 0 ∧ geom < 2 ^ 20 ∧ size % 8 = 0 ∧ 8 ≤ size ∧ size ≤ 32768 ∧ past next ≤ past cmt ∧ past cmt ≤ past rsv ∧ past rsv ≤ slots
      let lat := (if spaceOf ea = 1 then 20 else 48) + 4
      let word : Nat → Word := fun i => BitVec.ofNat 64 (i * 2 ^ 32 + (base + i % slots * size) % 2 ^ 32)
      let step : Nat → Nat → Memory := fun o i => s.mem.putNat (a + o) 4 ((i + 1) % 2 ^ 32)
      let z := { u with lockReqs := u.lockReqs.filter fun (l : LockReq) => !(l.ring && l.k == k) }
      let fails : State := z.lateP k q.p 0 lat
      let gives : Memory → Word → State := fun m w => ({ z with mem := m }.lateS k q.x w lat).lateP k q.p 0xffffffff lat
      let passes : Memory → State := fun m => { z with mem := m }.lateP k q.p 0xffffffff lat
      let ill : State := (z.lateS k q.x 0xffffffffffffffff lat).lateP k q.p 0 lat
      let i := (s.readS k q.x).toNat / 2 ^ 32
      (u.ringOpen k a = true ↔ ∀ i, i < 4 → u.lockMine (lockOf (a + 8 * i)) k = true) ∧
      (v % 2 = 0 → c.storing r.seq [(a, 32)] = true → exec (.qpeek q) s = .next (u.stalls (.own a))) ∧
      (v % 2 = 0 → c.storing r.seq [(a, 32)] = false → s.readsBefore k r.seq [(a, 32)] = true → exec (.qpeek q) s = .next (u.stalls (.reads a 32))) ∧
      (v % 2 = 0 → c.storing r.seq [(a, 32)] = false → s.readsBefore k r.seq [(a, 32)] = false → u.ringOpen k a = false →
        exec (.qpeek q) s = .next ((u.ringAsk k a).stalls (.lock a))) ∧
      (u.released → u.ringOpen k a = false → (∀ i ∈ [Instr.qacq q, .qcommit q, .qrel q], i = .qacq q ∨ v % 2 = 0 → exec i s = .next ((u.ringAsk k a).stalls (.lock a)))) ∧
      (u.ringOpen k a = true → v % 2 = 0 → c.storing r.seq [(a, 32)] = false → s.readsBefore k r.seq [(a, 32)] = false → (¬ good → EndsIn (.qpeek q) s ill) ∧ (good → next = cmt → EndsIn (.qpeek q) s fails) ∧
        (good → next ≠ cmt → EndsIn (.qpeek q) s (gives s.mem (word next)))) ∧
      (u.ringOpen k a = true → u.released → (¬ good → EndsIn (.qacq q) s ill) ∧
        (good → v % 2 = 1 → next = cmt → EndsIn (.qacq q) s fails) ∧ (good → v % 2 = 1 → next ≠ cmt → EndsIn (.qacq q) s (gives (step 16 next) (word next))) ∧
        (good → v % 2 = 0 → past rsv = slots → EndsIn (.qacq q) s fails) ∧
        (good → v % 2 = 0 → past rsv ≠ slots → EndsIn (.qacq q) s (gives (step 8 rsv) (word rsv)))) ∧
      (u.ringOpen k a = true → u.released → v % 2 = 0 →
        (¬ good ∨ i ≠ cmt ∨ cmt = rsv → EndsIn (.qcommit q) s fails) ∧ (good → i = cmt → cmt ≠ rsv → EndsIn (.qcommit q) s (passes (step 12 i))) ∧
        (¬ good ∨ i ≠ rel ∨ rel = next → EndsIn (.qrel q) s fails) ∧ (good → i = rel → rel ≠ next → EndsIn (.qrel q) s (passes (step 20 i)))) ∧
      ∀ o j x, x < a + o ∨ a + o + 4 ≤ x → (step o j).read x = s.mem.read x)

/-- KERF_PASS, RACE_PASS, NODE_RUN, NODE_RETIRE, SCRIBE_COMPLETE and KERF_FIRMWARE_WRITE (07_kerf, 16_thunks, 17_tile, 14_queues, 19_events). -/
def Obligations.DemandedNodesRunRetireOrFail : Prop :=
  (∀ (s : State) (k : Nat) (n : Node) (t : BitVec 64), (s.ctx k).nodes = [n] → (s.ctx k).goals = [⟨n.seq, t⟩] → n.kinBind = [] → n.done = 0 → n.all ≠ 0 → t ≠ 0 →
    n.failed = false → (s.ctx k).stq = [] → (s.ctx k).buf = [] → (s.ctx k).flights = [] → (∀ l ∈ s.lockReqs, l.k = k → l.ldl = none) →
    (∀ race, ((s.core (coreOf k)).laneJob race = none) ∧ (if race then (s.ctx k).raceBegun else (s.ctx k).begun) = none) →
    s.runnable k n.isRace = some (n, t, false, [n.seq])) ∧
  (∀ (n : Node), n.isRace = true ↔ 3 ≤ n.op.toNat ∧ n.op.toNat ≤ 6) ∧
  (∀ (keys : List Nat) (inv fast : Bool),
    let code : Nat → Nat := fun i =>
      let x := raceCode (keys.getD i 0)
      (if inv then 0xffff - x else x) / (if fast then 64 else 1)
    (arrivals keys inv fast).Perm (List.range keys.length) ∧ (arrivals keys inv fast).Pairwise fun i j => code i < code j ∨ (code i = code j ∧ i < j)) ∧
  (∀ (s : State) (k : Nat) (n : Node) (t : BitVec 64) (landing : Bool) (via : List Nat), s.runnable k n.isRace = some (n, t, landing, via) →
    let co := s.core (coreOf k)
    let op := n.op.toNat
    let race := n.isRace
    let calNow := decide (co.kcal.toNat % 4 = 1)
    let cal := if race then calNow else co.passCal.getD calNow
    let alone := (s.running k (!race)).isNone
    let next := s.cyc k + 1
    let took : Ctx → Ctx := fun c =>
      let d := (c.reach via).countRun landing via
      { d with
        begun := if race then d.begun else none
        raceBegun := if race then none else d.raceBegun
        workAt := if !race || alone then Nat.max d.workAt next else d.workAt
        raceAt := if race || alone then Nat.max d.raceAt next else d.raceAt
        demandAt := if (s.ctx k).asked = [] then d.demandAt else next }
    let others : Option Job → Option Job := fun o => o.filter fun (j : Job) => !(j.k == k && j.seq == n.seq)
    let ended : State → Core → State := fun u co' => ((u.modCtx k took).putCore (coreOf k)
      (if race then { co' with race := others co'.race } else { co' with job := others co'.job, passCal := none })).modCtx k fun c => c.setNode { n with done := n.done ||| t, failed := false }
    let mine : Job → Prop := fun j => (co.race = none ∧ j = ⟨k, n.seq, t, landing, 0, [], co.active, co.shadow, [], false⟩) ∨
      (co.race = some j ∧ j.k = k ∧ j.seq = n.seq ∧ j.tiles = t ∧ j.results = [])
    let passes := if n.rfast then 1 else 2
    let writes : (List Host.Cell → Prop) → Prop := fun P => ∃ cs, P cs ∧ exec (.nodeRun k) s = .next (ended { s with mem := s.mem.writes cs } co) ∧
      ∀ x, (∀ c ∈ cs, c.1 ≠ x) → (s.mem.writes cs).read x = s.mem.read x
    (op = 8 → exec (.nodeRun k) s = .next (ended s { co with shadow := s.loadPlane k n.dbT 0 (if n.dbT.fmt = 9 then 1024 else 512) })) ∧
    (op = 9 → exec (.nodeRun k) s = .next (ended s { co with active := co.shadow, shadow := co.active })) ∧
    (op = 0x0c → writes fun cs => cs = n.ddT.tileCells k .rne (n.slotBits 22 1 = 1) 0 fun i0 i1 r c =>
      fp32.val (tepiVal (n.slotBits 20 2) (if n.slotBits 19 1 = 1 then some (s.imageElem k n.dbT i0 i1 r c) else none) (lane (co.row n.acc r) c).toNat)) ∧
    (op = 0x0d → writes fun cs => cs = ((tileList t).map fun i => n.ddT.tileCells k .rne false i fun i0 i1 i2 i3 =>
      tewVal n.acc (s.imageElem k n.daT i0 i1 i2 i3) (if n.acc = 5 then .fin false 0 0 else s.imageElem k n.dbT i0 i1 i2 i3)).flatten) ∧
    (op = 0x0e →
      let q := n.slotBits 14 3
      let m := n.slotBits 24 4 + 1
      exec (.nodeRun k) s = .next (ended s { co with
        rq := put co.rq q (lookD co.rq q [] ++ (List.range m).map fun i => lookD co.rows (16 * n.acc + (n.slotBits 19 4 + i)) 0)
        rqv := put co.rqv q (lookD co.rqv q 0 - m) })) ∧
    (op = 1 → n.strm = false → co.job = none → n.passCount = 1 → cal = true → n.daT.e2 ≤ 16 → n.dbT.e2 ≤ 32 →
      ∃ u, exec (.kerfPass k true) s = .next u ∧ u.mem = s.mem ∧ ((u.ctx k).node n.seq).map (fun m => m.done) = some (n.done ||| t) ∧
        (∀ b, b ≠ n.acc → ∀ i, i < 16 → (u.core (coreOf k)).row b i = co.row b i) ∧ (u.core (coreOf k)).active = co.active ∧
        ∀ i, i < 16 → ∀ c, c < 32 → lane ((u.core (coreOf k)).row n.acc i) c =
          if i < n.daT.e2 ∧ c < n.dbT.e2 then BitVec.ofNat 32 (promoteInto (lane (co.row n.acc i) c).toNat
            (BitVec.ofNat 26 ((List.range (kPass n.daT n.dbT / 16)).foldl (fun v b => af26Add v (contribution n.daT.bty n.dbT.bty (s.aBlock k n 0 i b) (co.bBlock n 0 c b)))
              (lookD co.acc (32 * i + c) 0).toNat)).toNat)
          else lane (co.row n.acc i) c) ∧
    (∀ good i, ((op = 1 ∨ op = 2) ∧ n.strm = false ∧ i = Instr.kerfPass k good ∧ co.job = none ∧ (cal = false ∨ good = false)) ∨
        (race = true ∧ i = .racePass k good ∧ ∃ j, mine j ∧ j.pass < passes ∧ (cal = false ∨ (j.pass + 1 = passes ∧ (good = false ∨ j.bad = true)))) →
      let code : BitVec 8 := if cal then 0x10 else 0x09
      let c := s.ctx k
      let fails : State → Prop := fun u => exec i s = .next u ∧ u.mem = s.mem ∧ (∀ i, i < 16 → (u.core (coreOf k)).row n.acc i = co.row n.acc i) ∧
        ((u.ctx k).node n.seq).map (fun m => (m.failed, m.fcode, m.done)) = some (true, code, n.done) ∧ (u.ctx k).toks = c.toks
      (landing = true → ∃ u, fails u ∧ (u.ctx k).landGoals = [] ∧ (u.ctx k).landFault = some (c.landFault.getD ⟨code, c.resumePoint, n.appc, true⟩) ∧ (u.ctx k).run = c.run) ∧
      (∀ r, landing = false → c.run = some r → r.ldl = none → r.slot < 8 → c.inHandler = false → c.mustCommit = false → c.held = [] → c.committing = false →
        ∃ u, fails u ∧ (u.ctx k).run = none ∧ (u.ctx k).goals = [] ∧ (u.ctx k).pc = c.sys.evec ∧ (u.ctx k).latef = c.latef + 1 ∧
          (u.ctx k).sys = { c.sys with
            fstat := fstatTrap c.sys.fstat code r.slot true, faddr := mkRp r.xb.addr r.slot r.xb.back r.xb.bidx, fnode := n.appc
            epc := mkRp r.xb.addr r.slot r.xb.back r.xb.bidx, etgt := (u.ctx k).sys.etgt, psw := (u.ctx k).sys.psw } ∧
          (u.ctx k).sys.psw.toNat % 8 = r.slot ∧ (u.ctx k).inHandler = true)) ∧
    (∀ row j, race = true → cal = true → n.raceRows t = [row] → mine j →
      let d := n.ddT
      let res := raceRow ((List.range n.daT.e3).map fun i => s.raceKey k n.daT row i) (op = 4 ∨ op = 6) n.rfast d.e3
      (n.rfast = false → j.pass = 0 → ∀ good, exec (.racePass k good) s = .next ((s.modCtx k took).putCore (coreOf k) { co with race := some { j with pass := 1, bad := !good } })) ∧
      (j.pass + 1 = passes → j.bad = false → exec (.racePass k true) s = .next (ended { s with mem := s.mem.writes ((List.range d.e3).map fun i =>
        cellsAt (scratchPhys false k (d.base + d.off row.1 row.2.1 row.2.2 i)) (leBytes 4 (res.getD i 0))).flatten } co)))) ∧
  (∀ (s : State) (k seq : Nat) (n : Node) (landing : Bool), (s.ctx k).node seq = some n → n.op ≠ 0x0e →
    let tok := (s.ctx k).tok n.toks.kout.toNat
    let owns := n.toks.kout ≠ 0 ∧ tok.st = .pending ∧ tok.bind = n.koutBind
    (s.nextAction k = (.retire seq, landing) → ∃ t, exec (.nodeRetire k) s = .next t ∧ t = s.modCtx k (fun c => { c with nodes := (t.ctx k).nodes, toks := (t.ctx k).toks }) ∧
      (t.ctx k).nodes = (s.ctx k).nodes.filter (fun m => m.seq != n.seq) ∧
      (owns → (t.ctx k).tok n.toks.kout.toNat = ⟨.produced, false, n.koutBind⟩) ∧ (¬ owns → (t.ctx k).toks = (s.ctx k).toks)) ∧
    (∀ via, s.nextAction k = (.fail seq via, landing) → ∃ t, exec (.nodeRetire k) s = .next t ∧ t.mem = s.mem ∧ (t.ctx k).node n.seq = none ∧
      ((∀ j, (s.core (coreOf k)).job = some j ∨ (s.core (coreOf k)).race = some j → j.k ≠ k ∨ j.seq ≠ n.seq) →
        (∀ b, (s.ctx k).begun = some b → b.1 ≠ n.seq) → ∀ x, t.core x = s.core x) ∧
      (owns → (t.ctx k).tok n.toks.kout.toNat = ⟨.produced, true, n.koutBind⟩) ∧ (t.ctx k).sys.fstat.getLsbD 24 = true ∧
      t.fwlog = s.fwlog ++ [((s.ctx k).region, 0x29, some (512 + n.toks.kout.toNat))])) ∧
  ∀ (s : State) (core : Nat) (codes : List (BitVec 7)) (gain : BitVec 16) (temp : BitVec 8) (reg : BitVec 7) (v : BitVec 64),
    let co := s.core core
    (co.scribe = none → exec (.scribeComplete core codes gain temp) s = .next s) ∧
    (∀ k t, co.scribe = some (k, t) →
      (s.time < t + 40960 → exec (.scribeComplete core codes gain temp) s = .next s) ∧
      (t + 40960 ≤ s.time → co.fwPend = [] → codes.length = 64 →
        let bad := (∃ c ∈ codes, c.toNat < 8 ∨ 119 < c.toNat) ∨ gain.toNat < 0x1000 ∨ 0xf000 < gain.toNat
        ∃ co' : Core, (∀ n, n < 64 → lookD co'.ktrim n 64 = codes.getD n 0) ∧ co'.kgain = gain ∧ co'.kcal.toNat / 2 ^ 40 % 256 = temp.toNat ∧
          (bad → co'.kcal.toNat % 4 = 3) ∧ (¬ bad → co'.kcal.toNat % 4 = 1) ∧
          co' = { co with ktrim := co'.ktrim, kgain := gain, kcal := co'.kcal, calTime := some s.time, scribe := none, scribeOut := co'.scribeOut } ∧
          ((s.ctx k).wait = .scribe → (s.ctx k).prot = false → ¬ bad → exec (.scribeComplete core codes gain temp) s = .next ((s.putCore core co').finishSlot k)) ∧
          ((s.ctx k).wait = .scribe → (s.ctx k).prot = false → ∀ n, n < 64 → (codes.getD n 0).toNat < 8 → (∀ m, m < n → 8 ≤ (codes.getD m 0).toNat ∧ (codes.getD m 0).toNat ≤ 119) →
            exec (.scribeComplete core codes gain temp) s =
              .next (((s.putCore core co').modCore (coreOf k) fun x => { x with trimf := x.trimf + 1 }).raise k ⟨0x09, BitVec.ofNat 64 n, 0, false⟩ 3)) ∧
          ((s.ctx k).wait ≠ .scribe → exec (.scribeComplete core codes gain temp) s = .next (s.putCore core co')))) ∧
    ((s.port 0).status ≠ 1 → exec (.kerfFirmwareWrite core reg v) s = .next s) ∧
    ((s.port 0).status = 1 → co.scribe = none → s.inPass core = false → (co.fwPend = [] → co.settleWrites = co) ∧
      let co := co.settleWrites
      (reg.toNat < 64 → exec (.kerfFirmwareWrite core reg v) s = .next (s.putCore core { co with ktrim := put co.ktrim reg.toNat (v.setWidth 7) })) ∧
      (reg = 64 → exec (.kerfFirmwareWrite core reg v) s = .next (s.putCore core { co with kgain := v.setWidth 16 })) ∧
      (reg = 65 → exec (.kerfFirmwareWrite core reg v) s = .next (s.putCore core { co with kcal := v &&& 0x0000ffffffffff03 }))) ∧
    ((s.port 0).status = 1 → co.scribe.isSome = true ∨ s.inPass core = true → exec (.kerfFirmwareWrite core reg v) s = .next (s.putCore core { co with fwPend := co.fwPend ++ [(reg.toNat, v)] }))

/-- CONTEXT_UNBLOCK: a blocked context becomes ready, and the selector gives an idle core's issue to the best ready one (02_execution). How SWITCHES counts is the model's reading, log entry 41; the order of the moves of a cycle is the model's choice, log entry 5. -/
def Obligations.SelectorGivesIssueToTheBestReadyContext : Prop :=
  (∀ (s : State) (core j : Nat), s.chosen core = some j →
    let open_ : Nat → Prop := fun i => i / 4 = core ∧ (s.ctx i).status = .ready ∧ (s.ctx i).since < s.cyc i ∧ ((s.ctx i).prot = true → s.coreBusy (core + 1) = false)
    open_ j ∧ ∀ i, open_ i → i ≠ j → (s.ctx i).boundPrio < (s.ctx j).boundPrio ∨
      ((s.ctx i).boundPrio = (s.ctx j).boundPrio ∧ ((s.ctx j).since < (s.ctx i).since ∨ ((s.ctx j).since = (s.ctx i).since ∧ j < i)))) ∧
  ∀ (s : State) (k : Nat),
    let c := s.ctx k
    let woken := c.status = .blocked ∧ s.waitOver k = true
    let idle := ∀ j, j / 4 = k / 4 → (s.ctx j).status ≠ .running ∧ ¬ ((s.ctx j).wait = .follower ∧ (s.ctx (j - 4)).status = .running) ∧
      ¬ ((s.ctx j).status = .blocked ∧ (s.ctx j).since = s.cyc (4 * (k / 4)))
    (woken → ∃ w, exec (.contextUnblock k) s = .next (s.putCtx k { c with wait := w, status := .ready, since := s.cyc k }) ∧
      ((∀ n, c.wait ≠ .dcZero n) → (∀ n, c.wait ≠ .phase n) → w = c.wait)) ∧
    (¬ woken → ¬ idle ∨ s.chosen (k / 4) = none → exec (.contextUnblock k) s = .next s) ∧
    (∀ j, ¬ woken → idle → s.chosen (k / 4) = some j →
      let co := s.core (k / 4)
      let other := co.lastCtx ≠ j % 4
      let wait := if other ∧ co.ranAt + 1 < (s.ctx j).since then 1 else 0
      exec (.contextUnblock k) s = .next ((s.modCtx j fun c => { c with status := .running, issueAt := max c.issueAt (s.cyc j + wait) }).modCore (k / 4) fun co =>
        if other then { co with lastCtx := j % 4, switches := co.switches + 1 } else co))

/-- PREFETCH_BLOCK, FETCH_REDIRECT, RENDEZVOUS, STEP_TRAP, LANDING_LATE_FAULT, UECC_CONSUMED and SIGMIS (02_execution, 03_bundles, 16_thunks, 19_events). That the other half keeps the start of an active loop's body is the model's reading, log entry 17; that a target where no bundle starts is decoded as one, and that the bundles from a target on take the target's BIDX, is log entry 57; a late fault at a commit is log entry 12, before which bundle it is taken log entry 14; that a commit which has performed an operation has no rewind point is log entry 51, and what a rewind leaves of demands and of pushed rows log entry 106. -/
def Obligations.FetchTrapsAndRewindsBetweenBundles : Prop :=
  ∀ (s : State) (k : Nat),
    let c := s.ctx k
    (∀ n b, c.halfAt = some n → c.half c.curHalf = some b → b.defect = none → c.refetch = false →
      ((∀ x, c.half (!c.curHalf) = some x → x.head ≠ b.next ∧ c.loopsTo x = false) → ∃ t, exec (.prefetchBlock k) s = .next t ∧ s.onlyCtx t k ∧
        (t.ctx k).half (!c.curHalf) = some { expandBlock s.mem c.mapped k b.next with ready := n + (if spaceOf b.next.toNat = 3 then 30 else 14) } ∧
        (t.ctx k).half c.curHalf = some b ∧ t.ctx k = { c with halves := (t.ctx k).halves }) ∧
      (∀ x, c.half (!c.curHalf) = some x → x.head = b.next ∨ c.loopsTo x = true → exec (.prefetchBlock k) s = .next s)) ∧
    (c.status ≠ .free → c.run = none → c.refetch = true → ∃ t b, exec (.fetchRedirect k) s = .next t ∧ s.onlyCtx t k ∧
      b = { expandAt s.mem c.mapped k c.pc with
        first := rpBidx c.pc, ready := c.redirAt + (if spaceOf (rpAddr c.pc).toNat = 3 then 30 else 14) - (if c.quick then 6 else 0) } ∧
      (t.ctx k).half (!c.curHalf) = some b ∧ (t.ctx k).half c.curHalf = c.half c.curHalf ∧
      t.ctx k = { c with halves := (t.ctx k).halves, curHalf := !c.curHalf, halfAt := none, refetch := false }) ∧
    (∀ site b x, c.prot = true → c.inStep = false → c.run = none → c.locate = .at_ site b x → x.pfx.getLsbD 1 = true →
      exec (.rendezvous k) s = .next (s.putCtx k { c with met := true })) ∧
    (c.stepDue = true → c.run = none → c.status = .running → c.ending = false → c.committing = false → c.mustCommit = false → c.held = [] → c.inHandler = false →
      ∃ t, exec (.stepTrap k) s = .next t ∧ (s.leaveQueues k).onlyCtx t k ∧
        let c' := t.ctx k
        c'.pc = c.sys.evec ∧ c'.stepDue = false ∧ c'.run = none ∧ c'.sys.fstat.toNat % 4096 = 0x0c ∧ c'.sys.fstat.toNat / 4096 = c.sys.fstat.toNat / 4096 ∧
        c'.sys.faddr = 0 ∧ c'.sys.fnode = c.sys.fnode ∧ c'.sys.epc = rpAt c.pc 0 ∧ c'.sys.etgt = c.sys.etgt ∧ c'.sregs = c.sregs ∧ c'.pregs = c.pregs ∧
        c'.vregs = c.vregs ∧ ∀ i, i < 32 → c'.sys.psw.getLsbD i = if i < 4 then false else if i = 4 then true else if i = 9 then c.sys.psw.getLsbD 10
          else if i = 10 then false else c.sys.psw.getLsbD i) ∧
    (∀ t, c.landFault = some t → (∀ race p, s.running k race = some p → p.2 = true) →
      (∀ b rest, c.committing = true → c.held = b :: rest → c.commitAt ≤ s.cyc k → s.commitReady k b = false → c.pendTrap = none → c.inHandler = false → t.late = true → t.code ≠ 0x0a → t.code ≠ 0x0c →
        ∃ u, exec (.landingLateFault k) s = .next u ∧ (s.leaveQueues k).onlyCtx u k ∧
          let c' := u.ctx k
          c'.pc = c.sys.evec ∧ c'.landFault = none ∧ c'.held = [] ∧ c'.heldBack = c.held ∧ c'.committing = false ∧ c'.sys.fstat.toNat % 4096 = t.code.toNat + 256 * rpSlot b.rp + 2048 ∧
          c'.sys.faddr = b.rp ∧ c'.sys.fnode = t.fnode ∧ c'.latef = c.latef + 1 ∧ c'.sys.psw.getLsbD 4 = true ∧ c'.nodes = c.nodes ∧ c'.sregs = c.sregs) ∧
      (∀ r, c.committing = false → c.run = some r → c.status = .blocked ∨ (∃ q, c.wait = .earlier q) → exec (.landingLateFault k) s = .next ((s.putCtx k { c with landFault := none }).raise k
        { t with faddr := mkRp r.xb.addr r.slot r.xb.back r.xb.bidx } r.slot)) ∧
      (c.committing = false → c.run = none → c.status ≠ .free → c.ending = false → rpSlot c.pc = 0 → c.mustCommit = false → c.held = [] → c.inHandler = false → t.late = true → t.code ≠ 0x0a → t.code ≠ 0x0c →
        ∃ u, exec (.landingLateFault k) s = .next u ∧ (s.leaveQueues k).onlyCtx u k ∧
          let c' := u.ctx k
          c'.pc = c.sys.evec ∧ c'.landFault = none ∧ c'.sys.fstat.toNat % 4096 = t.code.toNat + 2048 ∧ c'.sys.faddr = c.pc ∧ c'.sys.fnode = t.fnode ∧
          c'.sys.epc = rpAt c.pc 0 ∧ c'.latef = c.latef + 1 ∧ c'.sys.psw.getLsbD 4 = true ∧ c'.nodes = c.nodes ∧ c'.sregs = c.sregs)) ∧
    (c.prot = true → exec (.sigmis k) s = exec (.ueccConsumed k) s) ∧ (c.prot = false → exec (.sigmis k) s = .next s) ∧
    (c.status = .free → exec (.ueccConsumed k) s = .next s) ∧
    (c.status ≠ .free → c.wait ≠ .follower →
      (c.seg = none ∨ (∃ g, c.seg = some g ∧ (g.rewound = true ∨ g.performed = true)) → ∃ t, exec (.ueccConsumed k) s = .next t ∧ s.failsWith t c.region 0x39) ∧
      ∀ g, c.seg = some g → g.rewound = false → g.performed = false → ∃ t, exec (.ueccConsumed k) s = .next t ∧
        let c' := t.ctx k
        let co := s.core (coreOf k)
        let co' := t.core (coreOf k)
        t = { s.leaveQueues k with ctxs := t.ctxs, cores := t.cores } ∧ (∀ j, j ≠ k → t.ctx j = s.ctx j) ∧ (∀ n, n ≠ coreOf k → t.core n = s.core n) ∧
        c'.pc = g.point ∧ c'.run = none ∧ c'.refetch = true ∧ c'.held = [] ∧
        c'.lcnt = g.lcnt ∧ c'.lbody = g.lbody ∧ c'.loopRp = g.loopRp ∧ c'.seg = some { g with rewound := true, bundles := 0, stores := 0, popped := [] } ∧
        c'.sregs = c.sregs ∧ c'.pregs = c.pregs ∧ c'.vregs = c.vregs ∧ c'.nodes = c.nodes ∧ c'.sys.psw.getLsbD 3 = false ∧
        c'.goals = [] ∧ c'.landGoals = c.landGoals ++ c.openGoals c.goalSkip c.goals ∧
        co' = { co with job := co.job.map (fun j => if j.k = k then { j with landing := true } else j), race := co.race.map (fun j => if j.k = k then { j with landing := true } else j), rq := co'.rq } ∧ (c.kown = false → co'.rq = co.rq) ∧
        (c.kown = true → ∀ q, lookD co'.rq q [] = ((g.popped.filter fun p => p.1 == q).map fun p => p.2).reverse ++ lookD co.rq q []))

/-- DISPATCH_INDEX, DISPATCH_GANG, BIND and RESUME (02_execution, 15_tables, 14_queues, 05_registers, 19_events, 10_memories). -/
def Obligations.DispatcherIssuesAndContextsBind : Prop :=
  (∀ (s : State) (grid i cl : Nat) (rc : BitVec 32),
    let g := s.grid grid
    let p := (s.region g.region).rcb.prio
    let n := g.clusters.length
    let turn : Nat → Nat := fun j => g.clusters.getD ((g.rot + j) % n) 0
    g.live = true → g.mapped = false → g.issued < g.groups →
    ((∀ j, j < n → s.queueRoom (turn j) p 1 = false) → exec (.dispatchIndex grid rc) s = .next s) ∧
    (i < n → (∀ j, j < i → s.queueRoom (turn j) p 1 = false) → cl = turn i → s.queueRoom cl p 1 = true →
      (s.recFree cl rc = false → exec (.dispatchIndex grid rc) s = .next s) ∧
      (s.recFree cl rc = true → s.mem.wf = true → s.time < 2 ^ 64 → g.issued < 2 ^ 32 → ∃ (u : State) (a : Nat), a = clusterPhys cl rc ∧
        exec (.dispatchIndex grid rc) s = .next ((u.putLoop (u.grid grid) 0x40 (g.issued + 1)).modGrid grid fun q =>
          { q with issued := g.issued + 1, rot := ((g.rot + i) % n + 1) % n }) ∧
        u.ready = s.ready ++ [⟨cl, rc, g.region, grid, 0, s.stamp + 1, s.time, none, false⟩] ∧ u.conts = put s.conts (contKey cl rc) ⟨grid, none, false, false⟩ ∧
        u.grid grid = { g with conts := g.conts + 1 } ∧ u.mem.nat a 8 = g.entry.toNat ∧ u.mem.nat (a + 0x14) 4 = g.issued ∧ u.mem.nat (a + 0x18) 4 = 0 ∧
        u.mem.nat (a + 0x20) 8 = 0 ∧ u.mem.nat (a + 0x28) 4 = 0 ∧ u.mem.nat (a + 0x30) 8 = s.time ∧ ∀ x, x < a ∨ a + 64 ≤ x → u.mem.read x = s.mem.read x))) ∧
  (∀ (s : State) (grid i cl : Nat) (recs : List (BitVec 32)),
    let g := s.grid grid
    g.live = true → g.mapped = true → g.issued + 96 ≤ g.groups → recs.length = 96 → recs.Nodup → g.turns.find? (fun t => s.gangRoom g t.2) = some (i, cl) →
    (∀ rc ∈ recs, s.recFree cl rc = true) → ∃ t, exec (.dispatchGang grid recs) s = .next t ∧ (t.grid grid).issued = g.issued + 96 ∧
      (t.grid grid).conts = g.conts + 96 ∧ (t.grid grid).rot = (i + 1) % g.clusters.length ∧ t.ready = s.ready ++ (List.range 96).map fun i =>
        ⟨cl, recs.getD i 0, g.region, grid, 0, s.stamp + 1 + i, s.time, some i, false⟩) ∧
  (∀ (s : State) (k : Nat) (e : Ready),
    let g := s.grid e.grid
    let cores := s.regionCores e.region
    s.ready = [e] → e.cluster = clusterOf k → e.core = none → (s.ctx k).status = .free → s.windowUse (coreOf k) + g.win ≤ 1024 →
    (g.kerf = false ∨ (s.core (coreOf k)).owner = none) → (s.region g.region).rcb.prot = false → (s.region e.region).rcb.prot = false →
    cores.length + (if coreOf k ∈ cores then 0 else 1) ≤ (s.region e.region).rcb.cores → s.nextBinding k = some (e, [(k, e, [])])) ∧
  (∀ (s : State) (k : Nat) (e : Ready) (skipped : List Ready), s.nextBinding k = some (e, [(k, e, skipped)]) → e.saved = false →
    let g := s.grid e.grid
    let rcb := (s.region e.region).rcb
    let rd : Nat → Nat → Nat := fun o n => s.mem.nat (clusterPhys e.cluster e.record + o) n
    ∃ t, exec (.bind k) s = .next t ∧ t.mem = s.mem ∧ t.grids = s.grids ∧ t.conts = s.conts ∧
      t.ready = s.ready.filter (fun x => !(x.cluster == e.cluster && x.record == e.record)) ∧
      let c := t.ctx k
      let gidx := BitVec.ofNat 32 (rd 0x14 4)
      let iidx := BitVec.ofNat 32 (rd 0x18 4)
      c.status = .ready ∧ c.since = s.cyc k ∧ c.grid = e.grid ∧ c.region = e.region ∧ c.record = e.record ∧ c.gidx = gidx ∧ c.iidx = iidx ∧ c.win = g.win ∧
      c.nbank = g.nbank ∧ c.kown = g.kerf ∧ c.mapped = g.mapped ∧ c.boundPrio = rcb.prio ∧ c.pc = BitVec.ofNat 64 (rd 0 8) &&& 0x000fffffffffffff ∧ c.refetch = true ∧
      c.slackLimit = (match g.slackc with | 0 => 0 | 1 => 4 | 2 => 8 | _ => 15) ∧
      (∀ n, lookD c.sregs n 0 = if n = 1 then gidx.setWidth 64 else if n = 2 then iidx.setWidth 64 else if n = 3 then e.record.setWidth 64 else 0) ∧
      (∀ n, lookD c.pregs n 0 = if 1 ≤ n ∧ n < 48 ∧ (rd 0x20 8).testBit n then 0xffffffff else 0) ∧
      c.vregs = [] ∧ c.tds = [] ∧ c.toks = [] ∧ c.nodes = [] ∧ c.flights = [] ∧ c.lcnt = [] ∧ c.lbody = [] ∧ c.ldc = 0 ∧ c.stc = 0 ∧ c.cpc = 0 ∧ c.tlc = 0 ∧
      c.sys = { Sys.reset with evec := rcb.handler &&& 0x000fffffffffffff, psw := if (s.cont e.cluster e.record).err then 0x20 else 0 } ∧ c.barst = 0 ∧ c.seg = none ∧
      (g.kerf = false → rcb.prot = false → t.cores = s.cores) ∧
      (g.kerf = true →
        let co := t.core (coreOf k)
        co.owner = some k ∧ co.rq = [] ∧ co.rqv = [] ∧ co.acc = [] ∧ co.active = Plane.reset ∧ co.shadow = Plane.reset ∧
        (∀ i, i < 16 * g.nbank → lookD co.rows i 0 = 0) ∧ co.promote = (s.core (coreOf k)).promote ∧ co.kcal = (s.core (coreOf k)).kcal) ∧
      (rcb.prot = true → (t.ctx (k + 4)).wait = .follower ∧ (t.ctx (k + 4)).status = .blocked)) ∧
  ∀ (s : State) (k : Nat) (e : Ready) (l : List (Nat × Ready × List Ready)), s.nextBinding k = some (e, l) → e.saved = true → s.mem.wf = true →
    let g := s.grid e.grid
    let r := clusterPhys e.cluster e.record
    let a := scratchPhys false k (s.mem.nat (r + 0x1c) 4)
    let w : Nat → Word := fun o => BitVec.ofNat 64 (s.mem.nat (a + o) 8)
    let rp : Nat → Word := fun o => w o &&& 0x000fffffffffffff
    ∃ t, exec (.resume k) s = .next t ∧ t.ready = s.ready.filter (fun x => !(x.cluster == e.cluster && x.record == e.record)) ∧
      t.mem.nat (r + 0x1c) 4 = 0 ∧ t.mem.nat (r + 0x28) 4 / 2048 = 0 ∧
      let c := t.ctx k
      c.status = .ready ∧ c.pc = rpAt (rp 0) 0 ∧ c.sys.psw = BitVec.ofNat 32 (s.mem.nat (a + 8) 4) &&& 0xe3f ∧ c.sys.evec = rp 0x90 ∧ c.sys.epc = rp 0x98 ∧ c.sys.etgt = rp 0xa0 ∧
      c.sys.fstat = w 0xa8 &&& 0x000003ff01ff0fff ∧ c.sys.faddr = w 0xb0 ∧ c.sys.fnode = rp 0xb8 ∧ c.sys.gvsel = BitVec.ofNat 32 (s.mem.nat (a + 0x10) 4 % 2 ^ 17) ∧
      c.sys.dcsel.toNat = s.mem.nat (a + 0x30) 4 % 512 ∧ c.sys.barsel.toNat = s.mem.nat (a + 0x34) 4 % 32 ∧ c.barst = w 0x28 ∧ c.impld = w 0x38 ∧ c.ovff = w 0x40 ∧ c.latef = w 0x48 ∧
      (∀ n, 1 ≤ n → n < 64 → lookD c.sregs n 0 = w (0x100 + 8 * (n - 1))) ∧
      (∀ n, 1 ≤ n → n < 48 → lookD c.pregs n 0 = BitVec.ofNat 32 (s.mem.nat (a + (0x300 + 4 * (n - 1))) 4)) ∧
      (∀ n, n < 32 → lookD c.tds n 0 = BitVec.ofNat 256 (s.mem.nat (a + (0x400 + 32 * n)) 32)) ∧
      (∀ n, n < g.win → lookD c.vregs n 0 = BitVec.ofNat 1024 (s.mem.nat (a + (0x18000 + 128 * n)) 128)) ∧
      (∀ n, n < 4 → lookD c.lcnt n 0 = BitVec.ofNat 32 (s.mem.nat (a + (0x60 + 4 * n)) 4) ∧ lookD c.lbody n 0 = w (0x70 + 8 * n) &&& 0x8003ffffffffffff) ∧
      c.nodes.length = min (s.mem.nat (a + 0x54) 4) 128 ∧
      (g.kerf = true →
        let co := t.core (coreOf k)
        co.owner = some k ∧ co.promote = BitVec.ofNat 7 (s.mem.nat (a + 0x14) 4) ∧
        ∀ i, i < 128 → lookD co.rows i 0 = BitVec.ofNat 1024 (s.mem.nat (a + (0xa000 + 128 * i)) 128))

/-- PREEMPT_REQUEST, PREEMPT_SAVE, PREEMPT_BOUND_EXPIRY, AGING_STEP, OVERFLOW_REFILL and SPILLFULL (02_execution, 14_queues, 15_tables, 19_events). It rests on the model's readings in log entries 20, 21, 22 and 24. -/
def Obligations.PreemptionAgeingAndOverflow : Prop :=
  (∀ (s : State) (k : Nat) (frame : BitVec 32),
    let c := s.ctx k
    let ok := c.status ≠ .free ∧ c.preempt = none ∧ c.wait ≠ .follower ∧ (spaceOf frame.toNat = 1 ∨ spaceOf frame.toNat = 3) ∧
      inRange false frame.toNat (0x18000 + 128 * c.win) = true
    (ok → exec (.preemptRequest k frame) s = .next (s.putCtx k { c with preempt := some ⟨s.time, frame⟩, boundary := false })) ∧
    (¬ ok → exec (.preemptRequest k frame) s = .next s)) ∧
  (∀ (s : State) (k : Nat) (p : Preempt),
    let c := s.ctx k
    c.preempt = some p →
    let late := ¬ (c.atBoundary = true ∧ s.quiet k = true) ∧ p.at_ + 1000 * (s.region c.region).rcb.preempt < s.time
    (¬ late → exec (.preemptBoundExpiry k) s = .next s) ∧
    (late → ∃ t, exec (.preemptBoundExpiry k) s = .next t ∧ s.failsWith t c.region 0x3a)) ∧
  (∀ (s : State) (k : Nat) (p : Preempt),
    let c := s.ctx k
    let cl := clusterOf k
    let r := clusterPhys cl c.record
    let e := { s.readyOf cl c.record with core := some (coreIn k), saved := true }
    c.preempt = some p → c.boundary = true → c.run = none → c.inHandler = false → c.stepDue = false → c.landFault = none → c.ending = false → c.status ≠ .free →
    (c.seg.isSome = true → c.committing = false → c.mustCommit = true → exec (.preemptSave k) s = .next (s.putCtx k (c.commits (s.cyc k)))) ∧
    (c.seg = none → s.quiet k = false → exec (.preemptSave k) s = .next s) ∧
    (c.seg = none → s.quiet k = true → s.mustSpill e = false → s.mem.wf = true → s.time < 2 ^ 64 →
      let fs := s.ctxFields k ++ (if c.kown then (s.core (coreOf k)).fields else [])
      ((0x0000, 8, (rpAt c.pc 0).toNat) ∈ fs ∧ (0x0008, 4, c.sys.psw.toNat) ∈ fs ∧ (0x0098, 8, c.sys.epc.toNat) ∈ fs ∧ (0x00a8, 8, c.sys.fstat.toNat) ∈ fs ∧
        (∀ n, 1 ≤ n → n < 64 → (0x0100 + 8 * (n - 1), 8, (lookD c.sregs n 0).toNat) ∈ fs) ∧
        (∀ n, 1 ≤ n → n < 48 → (0x0300 + 4 * (n - 1), 4, (lookD c.pregs n 0).toNat) ∈ fs) ∧
        (∀ n, n < 32 → (0x0400 + 32 * n, 32, (lookD c.tds n 0).toNat) ∈ fs) ∧ (∀ n, n < c.win → (0x18000 + 128 * n, 128, (lookD c.vregs n 0).toNat) ∈ fs) ∧
        (c.kown = true → ∀ i, i < 128 → (0xa000 + 128 * i, 128, (lookD (s.core (coreOf k)).rows i 0).toNat) ∈ fs)) ∧
      let m := s.mem.putFields (scratchPhys false k p.frame.toNat) fs
      ∃ t, exec (.preemptSave k) s = .next t ∧ (t.ctx k).status = .free ∧ t.ready = s.ready ++ [{ e with order := s.stamp + 1, tready := s.time }] ∧
        t.conts = put s.conts (contKey cl c.record) { s.cont cl c.record with core := some (coreIn k), saved := true } ∧ (∀ x, x < r ∨ r + 64 ≤ x → t.mem.read x = m.read x) ∧
        t.mem.nat r 8 = c.pc.toNat ∧ t.mem.nat (r + 0x18) 4 = c.iidx.toNat ∧ t.mem.nat (r + 0x1c) 4 = p.frame.toNat ∧
        t.mem.nat (r + 0x28) 4 = m.nat (r + 0x28) 4 % 1024 + (if (s.cont cl c.record).err then 1024 else 0) + 2048 ∧ t.mem.nat (r + 0x30) 8 = s.time)) ∧
  (∀ (s : State) (i : Nat) (e : Ready), s.ready[i]? = some e →
    let rcb := (s.region e.region).rcb
    let up := { e with aging := e.aging + 1 }
    let cap := max rcb.agecap rcb.prio
    let due := rcb.prio + e.aging < cap ∧ e.tready + (e.aging + 1) * 1000000 ≤ s.time
    let full := 1024 ≤ s.queueLen e.cluster (rcb.prio + e.aging + 1) ∨ s.spilledAt e.cluster (rcb.prio + e.aging + 1) = true
    (¬ due → exec (.agingStep i) s = .next s) ∧ (due → ¬ full → exec (.agingStep i) s = .next { s with ready := s.ready.set i up }) ∧
    (due → full → s.ringFull e.region = true ∨ (e.core.isSome = true ∧ e.saved = false) → exec (.agingStep i) s = .next s) ∧
    (due → full → s.ringFull e.region = false → e.core = none ∨ e.saved = true → ∀ a, s.vaPhys e.region (rcb.ringVa (s.region e.region).ringTail) = some a →
      exec (.agingStep i) s = .next ((({ s with ready := s.ready.eraseIdx i }.modCluster e.cluster (fun cl => { cl with rounds := cl.rounds.filter fun x => x.1 != e.record })).stampedWrite 0 e.region
        (cellsAt a (s.mem.reads (clusterPhys e.cluster e.record) 64))).modRegion e.region fun r => { r with ring := r.ring ++ [up], ringTail := r.ringTail + 1 }))) ∧
  (∀ (s : State) (j r n : Nat) (e : Ready), ringSpot s.regions j = some (r, n) → (s.region r).ring[n]? = some e →
    let rcb := (s.region e.region).rcb
    rcb.prio + e.aging < max rcb.agecap rcb.prio → e.tready + (e.aging + 1) * 1000000 ≤ s.time → exec (.agingStep (s.ready.length + j)) s =
      .next (s.modRegion r fun x => { x with ring := x.ring.set n { e with aging := e.aging + 1 } })) ∧
  (∀ (s : State) (r : Nat) (e : Ready) (rest : List Ready) (a : Nat), (s.region r).ring = e :: rest →
    (s.queueFull e.cluster (s.effPrio e) = true → exec (.overflowRefill r) s = .next s) ∧
    (∀ x ∈ s.regions, ∀ h l, x.2.ring = h :: l → h.cluster = e.cluster → s.effPrio h = s.effPrio e → h.order < e.order → exec (.overflowRefill r) s = .next s) ∧
    (s.queueFull e.cluster (s.effPrio e) = false → (∀ x ∈ s.regions, ∀ h l, x.2.ring = h :: l → h.cluster = e.cluster → s.effPrio h = s.effPrio e → e.order ≤ h.order) →
      s.vaPhys r ((s.region r).rcb.ringVa ((s.region r).ringTail - (rest.length + 1))) = some a →
      (∀ h ∈ s.heldWrites, ∀ c ∈ h.cells, c.1 < a ∨ a + 64 ≤ c.1) → exec (.overflowRefill r) s = .next ({ s with
        ready := s.ready ++ [e], mem := s.mem.writes (cellsAt (clusterPhys e.cluster e.record) (s.mem.reads a 64)) }.modRegion r fun x => { x with ring := rest }))) ∧
  ∀ (s : State) (r : Nat) (slots : BitVec 25),
    let x := s.region r
    let due := x.live = true ∧ x.root = false ∧ 1000 * x.rcb.stall < x.spillWait
    (¬ due → exec (.spillfull r slots) s = .next s) ∧
    (due → slots = 0 → ∃ t, exec (.spillfull r slots) s = .next t ∧ s.failsWith t r 0x3a) ∧
    (due → x.rcb.ovrSlots < slots.toNat → x.ring = [] → ∃ t, exec (.spillfull r slots) s = .next t ∧ t.fwlog = s.fwlog ++ [(r, 0x31, none)] ∧
      t = { s with
        fwlog := t.fwlog, mem := t.mem, births := t.births, versions := t.versions, presv := t.presv, heldWrites := t.heldWrites }.modRegion r fun x => { x with rcb := { x.rcb with ovrSlots := slots.toNat }, spillWait := 0 })

/-- CUT, CUT_DONE, OPEN, HELD_WRITE_RELEASE, SCARF_DRAIN and GENFULL (11_generations, 10_memories, 15_tables). It rests on the model's choices in log entries 23, 43 and 77. -/
def Obligations.GenerationsCutPreserveAndDrain : Prop :=
  (∀ s : State, s.cut = none → exec .cut s = .next s ∧ (∀ d, exec (.cutDone d) s = .next s) ∧ exec .open_ s = .next s) ∧
  (∀ (s : State) (c : Cut), s.cut = some c →
    let clear : Nat → Nat → Prop := fun a b => a = b ∨ ∀ l ∈ routeLinks a b, lookD s.retrains l 0 = 0 ∨ s.linksDown.getLsbD l = true
    let sends := ∀ d, d < 16 → s.populated.getLsbD d = true → clear 0 d
    (let cut : State := { s with cut := some { c with sent := true } }
     (sends → exec .cut s = .next cut.broadcast) ∧ (¬ sends → exec .cut s = .next s)) ∧
    (∀ d : BitVec 4, d.toNat ∈ [0, 3, 4, 7, 8, 11, 12, 15] → c.sent = true →
      (¬ clear d.toNat 0 ∨ (∃ h ∈ s.heldWrites, h.forCut = false ∧ h.die = d.toNat) → exec (.cutDone d) s = .next s) ∧
      (clear d.toNat 0 → (∀ h ∈ s.heldWrites, h.forCut = true ∨ h.die ≠ d.toNat) → ∃ x : BitVec 16, exec (.cutDone d) s = .next ({ s with cut := some { c with done := x } }.control d.toNat 0) ∧
        ∀ i, i < 16 → x.getLsbD i = (c.done.getLsbD i || i == d.toNat))) ∧
    let all := c.sent = true ∧ ∀ d ∈ [0, 3, 4, 7, 8, 11, 12, 15], c.done.getLsbD d = true
    let opened : State := { s with gencur := c.g + 1, live := s.live ++ [c.g], cut := none }
    let open_ := opened.broadcast.snapDone c.k
    (¬ all ∨ ¬ sends → exec .open_ s = .next s) ∧
    (all → sends → s.heldWrites = [] → (s.ctx c.k).wait = .cut → c.k < 12288 → exec .open_ s =
      .next ((open_.putS c.k (BitVec.ofNat 6 c.d) (BitVec.ofNat 64 ((c.g + 1).toNat * 65536 + c.g.toNat))).finishSlot c.k)) ∧
    (all → sends → s.heldWrites = [] → (s.ctx c.k).wait ≠ .cut ∨ c.k = 12288 → exec .open_ s = .next open_)) ∧
  (∀ (s : State) (d : BitVec 4) (h : HeldWrite) (x : Host.Cell) (rest : List Host.Cell), s.heldAt d.toNat = some h → h.cells = x :: rest →
    let q := x.1 / 65536
    let left := dropFirst (fun (y : HeldWrite) => y == h) s.heldWrites
    let births := put s.births q s.gencur
    (s.needsVersion q = true ↔ 0 < s.age (s.birth q) ∧ ∃ y ∈ s.live, s.age y ≤ s.age (s.birth q)) ∧
    (s.needsVersion q = false → exec (.heldWriteRelease d) s = .next ({ s with heldWrites := left, births := births, mem := s.mem.writes h.cells }.countHeld h)) ∧
    (s.needsVersion q = true → s.versionRoom q = false → exec (.heldWriteRelease d) s = .next s) ∧
    (s.needsVersion q = true → s.versionRoom q = true → ∃ v : Version, v.granule = q ∧ v.f = s.birth q ∧ v.t = s.gencur - 1 ∧
      (∀ a, a / 65536 = q → isGen a = true → v.byte a = s.mem.read a) ∧
      exec (.heldWriteRelease d) s = .next ({ s with
        heldWrites := left, births := births, mem := s.mem.writes h.cells, versions := s.versions ++ [v], presv := s.presv + 1 }.countHeld h))) ∧
  (∀ (s : State) (d : BitVec 4),
    let here : Version → Prop := fun v => v ∈ s.versions ∧ v.die = d.toNat ∧ v.stored = false
    ((∀ v, ¬ here v) → exec (.scarfDrain d) s = .next s) ∧
    ∀ v, s.scarfNext d.toNat = some v → here v ∧ (∀ w, here w → s.age w.t ≤ s.age v.t) ∧ (s.storeRoom = false → exec (.scarfDrain d) s = .next s) ∧
      (s.storeRoom = true → exec (.scarfDrain d) s = .next { s with
      versions := updFirst (fun (x : Version) => x == v) (fun x => { x with stored := true }) s.versions, drnb := s.drnb + 65536 })) ∧
  ∀ (s : State) (r : Nat),
    let x := s.region r
    let due := (∃ h ∈ s.heldWrites, h.forCut = false ∧ h.region = r) ∧ 1000 * x.rcb.stall < x.genWait
    (¬ due → exec (.genfull r) s = .next s) ∧
    (due → ∃ t, exec (.genfull r) s = .next t ∧ t.genfulls = s.genfulls + 1 ∧ ∃ l, t.fwlog = s.fwlog ++ (r, 0x30, none) :: l) ∧
    (due → x.rcb.genpol = .reset → exec (.genfull r) s =
      .next ({ s with
        genfulls := s.genfulls + 1, fwlog := s.fwlog ++ [(r, 0x30, none)], live := [], versions := [], gencur := s.gencur + 8
        cut := s.cut.map fun (c : Cut) => { c with g := s.gencur + 8 } }.modRegion r fun x => { x with genTold := true })) ∧
    (due → x.rcb.genpol = .failRegion → ∃ t, exec (.genfull r) s = .next t ∧ s.failsWith t r 0x3a ∧
      ∀ h, h ∈ t.heldWrites ↔ h ∈ s.heldWrites ∧ (h.forCut = true ∨ h.region ≠ r)) ∧
    (∀ h y, due → x.rcb.genpol = .dropOldest → s.heldWrites = [h] → s.reserveRoom h.die = false → s.oldestUndrained h.die = some y →
      (s.dropSnap y).reserveRoom h.die = true → ∃ t, exec (.genfull r) s = .next t ∧ t.live = s.live.filter (fun z => z != y) ∧ t.gencur = s.gencur ∧
        ∀ v, v ∈ t.versions ↔ v ∈ s.versions ∧ ∃ z ∈ t.live, s.age v.t ≤ s.age z ∧ s.age z ≤ s.age v.f)

/-- The clocks, droop response, power grants, links, credits and the events that only count (01_package, 18_counters, 20_boundary, 03_bundles, 05_registers, 07_kerf). The model's choices or readings are: how KCAL.AGE counts (log entry 84), when AGEOSC is first refreshed (90), the flits of the credit scheme itself and those of an access (104, 50), the grant of the share and the limit for one interval (93) in which the cycles 3 modulo 4 do not issue (35), that firmware's DROOPTH takes effect at the next cycle (19), which T slots wait in their slot (89), that there is one TIME (85), and when a write to a barrier word takes effect (65). -/
def Obligations.ClocksDroopPowerAndLinks : Prop :=
  (∀ s : State, ∃ t, exec .packageTimebaseTick s = .next t ∧ t = { s with time := s.time + 1, genstall := t.genstall, cores := t.cores, regions := t.regions, clusters := t.clusters } ∧
    t.genstall = s.genstall + (if ∃ h ∈ s.heldWrites, h.forCut = false then 1 else 0) ∧
    (∀ n, let co := s.core n
      let age := co.kcal.toNat / 2 ^ 8 % 2 ^ 32
      (co.calTime = none → t.core n = co) ∧
      (∀ a, co.calTime = some a → a < s.time + 1 → (s.time + 1 - a) % 1000 = 0 → age + 1 < 2 ^ 32 → ∃ v : Word, t.core n = { co with kcal := v } ∧
        v.toNat / 2 ^ 8 % 2 ^ 32 = age + 1 ∧ v.toNat % 2 ^ 8 = co.kcal.toNat % 2 ^ 8 ∧ v.toNat / 2 ^ 40 = co.kcal.toNat / 2 ^ 40) ∧
      (∀ a, co.calTime = some a → a < s.time + 1 → (s.time + 1 - a) % 1000 ≠ 0 → t.core n = co)) ∧
    (∀ r, t.region r = { s.region r with genWait := (t.region r).genWait, genTold := (t.region r).genTold, spillWait := (t.region r).spillWait }) ∧
    ∀ cl, let present := cl < 32 ∧ cl / 2 ∈ [1, 2, 5, 6, 9, 10, 13, 14] ∧ s.populated.getLsbD (cl / 2) = true
      let c := s.cluster cl
      let p := (s.die (cl / 2)).period
      let length := match c.droop with | .stretch n => if c.cycle < n + 6 then 2 * p else p | _ => p
      let lags := c.fifths + length < 5 * (s.time + 1)
      (present → lags → t.cluster cl = { c with fifths := 5 * (s.time + 1) - length }) ∧ (¬ (present ∧ lags) → t.cluster cl = s.cluster cl)) ∧
  (∀ (s : State) (mask : BitVec 32), s.firmware = [] → ∃ t, exec (.arithmeticClockCycle mask) s = .next t ∧
    t = { s with cur := 0, ctxs := t.ctxs, cores := t.cores, clusters := t.clusters, freeIx := t.freeIx } ∧
    (∀ cl, mask.getLsbD cl = false → t.cluster cl = s.cluster cl) ∧
    (∀ cl, cl < 32 → mask.getLsbD cl = true →
      let c := if (s.cluster cl).barPend = [] then s.cluster cl else (s.cluster cl).settleBars
      let p := (s.die (cl / 2)).period
      let passes : Cluster → Prop := fun u => (c.droop = .off → u = { c with cycle := c.cycle + 1, fifths := c.fifths + p }) ∧
        (∀ n, c.droop = .stretch n → c.cycle < n + 6 → u = { c with cycle := c.cycle + 1, fifths := c.fifths + 2 * p, strcyc := c.strcyc + 1 }) ∧
        (∀ n, c.droop = .half n → c.cycle < n + 64 → u = { c with cycle := c.cycle + 1, fifths := c.fifths + p, halfcyc := c.halfcyc + 1 })
      (c.alarms = [] → passes (t.cluster cl)) ∧ (∀ a, c.alarms = [a] → a = c.cycle → passes (t.cluster cl)) ∧
      (∀ a, c.alarms = [a] → a + 1 = c.cycle → ∃ u, passes u ∧ t.cluster cl = { u with alarms := [], droop := .stretch (c.cycle + 1) })) ∧
    (∀ n, n < 3072 → mask.getLsbD (n / 96) = true →
      let waits := ∃ k, k / 4 = n ∧ (s.ctx k).waitsEngine = true ∧ ((s.ctx k).status = .blocked ∨ ((s.ctx k).status = .ready ∧ (s.ctx k).since = s.cyc k))
      (waits → (t.core n).slackst = (s.core n).slackst + 1) ∧ (¬ waits → (t.core n).slackst = (s.core n).slackst)) ∧
    ∀ k, k < 12288 → mask.getLsbD (clusterOf k) = true → (s.cluster (clusterOf k)).barPend = [] ∨ (∀ b, (s.ctx k).wait ≠ .phase b) → (s.ctx k).status = .running →
      ((s.ctx k).exhausted (s.cyc k + 1) = true → (t.ctx k).status = .blocked ∧ (t.ctx k).wait = .engine) ∧
      (let late := (s.ctx k).run.isSome = true ∧ (s.ctx k).waitsEngine = true ∧ s.slackEnd k ≤ s.cyc k
       (s.ctx k).exhausted (s.cyc k + 1) = false → (late → (t.ctx k).status = .blocked ∧ (t.ctx k).wait = (s.ctx k).wait ∧ (t.ctx k).since = s.cyc k + 1) ∧
         (¬ late → t.ctx k = { s.ctx k with
           workAt := (t.ctx k).workAt, raceAt := (t.ctx k).raceAt, begun := (t.ctx k).begun, raceBegun := (t.ctx k).raceBegun, demandAt := (t.ctx k).demandAt, nodes := (t.ctx k).nodes, landAgain := (t.ctx k).landAgain, stq := (t.ctx k).stq } ∧
           (t.ctx k).stq.map (fun p => (p.seq, p.op)) = (s.ctx k).stq.map fun p => (p.seq, p.op)))) ∧
  (∀ (s : State) (cl : BitVec 5) (v : BitVec 7) (r : List FwWrite), s.firmware = .droopth cl.toNat v :: r → (∀ w ∈ r, w.cluster ≠ some cl.toNat) → ∃ t, exec (.arithmeticClockCycle (1 <<< cl.toNat)) s = .next t ∧
    let x := t.cluster cl.toNat
    ((s.port 0).status = 1 → t.firmware = r ∧ x.droopth.toNat = Nat.min 100 (Nat.max 10 v.toNat) ∧ ∀ e ∈ x.seen, e.droopth = x.droopth) ∧
    ((s.port 0).status ≠ 1 → t.firmware = s.firmware ∧ x.droopth = (s.cluster cl.toNat).droopth)) ∧
  (∀ (s : State) (k : Nat),
    let c := s.ctx k
    let cl := s.cluster (clusterOf k)
    let die := s.die (socketOf k)
    let halved := ∃ n, cl.droop = .half n ∧ (cl.cycle - n) % 2 = 1
    let limited := die.limited = true ∧ s.time < s.grantAt + 2000 ∧ cl.cycle % 4 = 3
    s.engineReady k 0 = false → c.status = .running → c.run = none → c.committing = false → c.ending = false → c.stepDue = false →
      (halved ∨ limited → s.attempt k = none) ∧
      (¬ halved → ¬ limited → c.atBoundary = false → s.waitOver k = true → (s.core (coreOf k)).issuedAt ≠ some cl.cycle → c.exhausted cl.cycle = false → c.issueAt ≤ cl.cycle → s.attempt k = s.issueMove k)) ∧
  (∀ (s : State) (cl : BitVec 5) (depth : BitVec 7),
    let c := s.cluster cl.toNat
    (∀ n, c.droop = .stretch n → n + 6 ≤ c.cycle → exec (.stretchEnd cl) s = .next (s.putCluster cl.toNat { c with droop := .half (n + 6) })) ∧
    (∀ n, c.droop = .half n → n + 64 ≤ c.cycle → exec (.halfIssueEnd cl) s = .next (s.putCluster cl.toNat { c with droop := .off })) ∧
    (c.droopth.toNat ≤ depth.toNat → exec (.droopAlarm cl depth) s =
      .next (s.putCluster cl.toNat { c with sticky := true, seen := c.seen.map fun e => { e with sticky := true }, droopev := c.droopev + 1, alarms := c.alarms ++ [c.cycle] })) ∧
    (depth.toNat < c.droopth.toNat → exec (.droopAlarm cl depth) s = .next (s.putCluster cl.toNat c))) ∧
  (∀ (s : State) (e : BitVec 16), (s.time % 2000 ≠ 0 → exec (.powerGrant e) s = .next s) ∧
    (s.time % 2000 = 0 → ∃ t, exec (.powerGrant e) s = .next t ∧ t = { s with dies := t.dies, grantAt := s.time } ∧ ∀ d, t.die d =
      if d < 16 ∧ s.populated.getLsbD d = true then { s.die d with
        grant := (s.die d).share, limited := decide (d ∈ [1, 2, 5, 6, 9, 10, 13, 14]) && e.getLsbD d } else s.die d)) ∧
  (∀ (s : State) (link : Nat) (vc : BitVec 2) (v : BitVec 16),
    let i := 4 * link + vc.toNat
    let c := lookD s.credits i Credit.reset
    let peer := 4 * peerEnd link + vc.toNat
    let die := s.die (endDie link)
    let flit : Nat → State → State := fun l u =>
      let at_ := 4 * l + 3
      let into := 4 * peerEnd l + 3
      let x := lookD u.credits at_ Credit.reset
      let cr := put u.credits at_ { x with sent := x.sent + 1, seen := x.seen + 1, last := u.time, audited := false }
      let y := lookD cr into Credit.reset
      { u with credits := put cr into { y with recv := y.recv + 1, freed := y.freed + 1 } }
    let answered : State → State := flit (peerEnd link)
    ((v - c.seen).toNat ≤ (c.sent - c.seen).toNat → exec (.creditReturn link vc v) s = .next (answered { s with credits := put s.credits i { c with seen := v } })) ∧
    ((c.sent - c.seen).toNat < (v - c.seen).toNat → exec (.creditReturn link vc v) s = .next (answered { s with credits := put s.credits i c })) ∧
    let credits := put (put s.credits peer { lookD s.credits peer Credit.reset with sent := v, audited := true }) i { c with recv := v, freed := c.freed + (v - c.recv) }
    (v = c.recv → exec (.creditAudit link vc v) s = .next (answered { s with dies := put s.dies (endDie link) { die with audits := die.audits + 1 }, credits := credits })) ∧
    (v ≠ c.recv → exec (.creditAudit link vc v) s = .next (answered { s with
      dies := put s.dies (endDie link) { die with audits := die.audits + 1, leaks := die.leaks + 1, leakfl := die.leakfl + (v - c.recv).setWidth 64 }
      credits := credits }))) ∧
  (∀ (s : State) (a b vc : Nat), ∃ cr fx, s.flits a b vc = { s with credits := cr, freeIx := fx }) ∧
  (∀ (s : State) (d : BitVec 4) (count eol : BitVec 64) (p : BitVec 2),
    exec (.selectiveRepeat d false) s = .next (s.modDie d.toNat fun x => { x with repeats := x.repeats + 1 }) ∧
    exec (.selectiveRepeat d true) s = .next (s.modDie d.toNat fun x => { x with feccor := x.feccor + 1 }) ∧
    (let x := s.die d.toNat
     let due := (x.oscAt = none ∧ 1000000 ≤ s.time) ∨ ∃ a, x.oscAt = some a ∧ a + 1000000000 ≤ s.time
     (due → exec (.ageoscRefresh d count eol) s = .next (s.modDie d.toNat fun x => { x with ageosc := count, eol := eol, oscAt := some s.time })) ∧
     (¬ due → exec (.ageoscRefresh d count eol) s = .next s)) ∧
    ∃ x : BitVec 8, exec (.cxlPortLinkDown d p) s = .next { s with cxlDown := x } ∧
      ∀ i, i < 8 → x.getLsbD i = (s.cxlDown.getLsbD i || i == (if d = 15 then 4 else 0) + p.toNat)) ∧
  ∀ (s : State) (link : BitVec 5),
    let n := link.toNat
    let tries := lookD s.retrains n 0
    (s.linksDown.getLsbD n = true → ∀ good, exec (.linkRetrain link good) s = .next s ∧ exec (.linkDown link) s = .next s) ∧
    (s.linksDown.getLsbD n = false → exec (.linkRetrain link true) s = .next { s with retrains := del s.retrains n }.settleHost ∧
      exec (.linkRetrain link false) s = .next { s with retrains := put s.retrains n (tries + 1) }.settleHost ∧ (tries < 3 → exec (.linkDown link) s = .next s)) ∧
    (n < 24 → s.linksDown.getLsbD n = false → 3 ≤ tries → s.mem.wf = true → (s.regions.map fun e => e.1).Nodup → ∃ t, exec (.linkDown link) s = .next t ∧
      (∀ i, i < 24 → t.linksDown.getLsbD i = (s.linksDown.getLsbD i || i == n)) ∧ t.stopped = true ∧ t.live = [] ∧ t.versions = [] ∧ t.gencur = s.gencur + 8 ∧ t.cut = none ∧ (∀ h, h ∈ t.heldWrites ↔ h ∈ s.heldWrites ∧ h.forCut = false) ∧
      (∀ r, (s.region r).live = true → (s.region r).root = false → s.endsIn t r 0x3c) ∧ (∀ m ∈ s.cmds, m.started = true → m ∈ t.cmds) ∧ (∀ r, (s.region r).root = true → t.region r = s.region r) ∧
      (s.noStores → s.hostHeld = [] → ∀ q, q < 32 → s.mem.nat (windowAddr (q * 65536 + 0x44)) 4 = 1 → t.mem.nat (windowAddr (q * 65536 + 0x44)) 4 = 2))

/-- HOST_WRITE, the mailbox, HOST_PORT_RESET, HOST_LINK_UP, COLD_RESET and WARM_RESET (20_boundary, 00_scope, 10_memories, 12_consistency, 14_queues, 15_tables). The model's choices or readings are: reset values that the spec does not give (log entry 1), the root RCBs' places and fields (8), a rejected image's queues (52), port 1's channels (91), the snapshot store of at most 384 GiB after a cold reset (23), that a port which comes up after a link has gone down enables no queue and that retrainings and CXL ports stay over a warm reset (49), the bytes of REPORT above the report, the image of each reset and FWVER where it is rejected (7). -/
def Obligations.HostPortsMailboxAndResets : Prop :=
  (∀ (s : State) (port : BitVec 1) (off : BitVec 52) (bs : List Byte) (b0 b1 b2 b3 : Byte),
    let p := port.toNat
    exec (.hostWrite port 2 off bs) s = .next { s with mem := s.mem.writes (cellsAt (phys (0x7000 + p) off.toNat) bs) } ∧
    ((s.port p).up = false → ∀ space : BitVec 2, space ≠ 2 → exec (.hostWrite port space off bs) s = .next s) ∧
    ((s.port p).up = true →
      (let written := fun (t : State) => { t with mem := t.mem.writes (cellsAt (windowAddr off.toNat) bs) }
       let waiting : State := { s with hostHeld := s.hostHeld ++ [(off.toNat, bs)] }
       let clear := s.retraining 15 12 = false ∧ s.retraining 12 15 = false
       off.toNat + bs.length ≤ 0x400000 → (p = 0 → exec (.hostWrite port 0 off bs) s = .next (written s)) ∧
        (p = 1 → s.pathUp 15 12 = false → exec (.hostWrite port 0 off bs) s = .next { s with hostHeld := [] }) ∧
        (p = 1 → s.pathUp 15 12 = true → ¬ clear → exec (.hostWrite port 0 off bs) s = .next waiting) ∧
        (p = 1 → s.pathUp 15 12 = true → clear → exec (.hostWrite port 0 off bs) s = .next waiting.settleHost ∧ (s.hostHeld = [] →
          exec (.hostWrite port 0 off bs) s = .next (written (((s.settleRoute 15 12).settleRoute 12 15).writeFlits 15 12 bs.length))))) ∧
      (0x400000 < off.toNat + bs.length → exec (.hostWrite port 0 off bs) s = .next s) ∧
      exec (.hostWrite port 1 0x10 [b0, b1, b2, b3]) s = .next (s.modPort p fun x => { x with cmd := b3 ++ b2 ++ b1 ++ b0 }) ∧
      exec (.hostWrite port 1 0x14 [b0, b1, b2, b3]) s = .next (s.modPort p fun x => { x with cseq := b3 ++ b2 ++ b1 ++ b0 }) ∧
      (bs.length = 32 → exec (.hostWrite port 1 0x20 bs) s = .next (s.modPort p fun x => { x with nonce := BitVec.ofNat 256 (leNat bs) })) ∧
      (∀ i (b : Byte), i < 32 → ∃ v : BitVec 256, exec (.hostWrite port 1 (BitVec.ofNat 52 (0x20 + i)) [b]) s = .next (s.modPort p fun x => { x with nonce := v }) ∧
        ∀ j, j < 256 → v.getLsbD j = if j / 8 = i then b.getLsbD (j % 8) else (s.port p).nonce.getLsbD j) ∧
      (∃ x : Port, exec (.hostWrite port 1 off bs) s = .next { s with ports := put s.ports p x } ∧ x = { s.port p with cmd := x.cmd, cseq := x.cseq, nonce := x.nonce }) ∧
      (off.toNat + bs.length ≤ 0x10 ∨ (0x18 ≤ off.toNat ∧ off.toNat + bs.length ≤ 0x20) ∨ 0x40 ≤ off.toNat → exec (.hostWrite port 1 off bs) s = .next (s.modPort p id)))) ∧
  (∀ s : State, (s.pathUp 15 12 = false → s.settleHost = { s with hostHeld := [] }) ∧
    (s.pathUp 15 12 = true → s.retraining 15 12 = true ∨ s.retraining 12 15 = true → s.settleHost = s) ∧
    (s.pathUp 15 12 = true → s.retraining 15 12 = false → s.retraining 12 15 = false → (s.hostHeld = [] → s.settleHost = s) ∧
      ∀ w, s.hostHeld = [w] → ∃ cr fx, s.settleHost = { s with hostHeld := [], credits := cr, freeIx := fx, mem := s.mem.writes (cellsAt (windowAddr w.1) w.2) })) ∧
  (∀ s : State, s.pathUp 15 12 = !(s.linksDown.getLsbD 9 || s.linksDown.getLsbD 10 || s.linksDown.getLsbD 11)) ∧
  (∀ (s : State) (port : BitVec 1),
    let n := port.toNat
    let p := s.port n
    let pending := p.status = 1 ∧ p.cseq ≠ p.dseq
    let body := leBytes 32 p.nonce.toNat ++ leBytes 32 (Config.sha256 Config.romImage).toNat ++ leBytes 32 (Config.sha256 (Config.fwImage s.mem.epoch)).toNat ++ leBytes 8 s.inv ++
      leBytes 4 p.fwver.toNat ++ leBytes 4 Config.fusedMin.toNat ++ leBytes 32 (Config.sha256 Config.fwConfig).toNat
    (pending → p.cmd = 1 → exec (.mailboxIgnored port) s = .next s ∧ ∃ rp : BitVec 30720, exec (.attestationReport port) s =
      .next (s.modPort n fun p => { p with report := rp, dseq := p.cseq }) ∧ rp.toNat % 2 ^ 1664 = leNat (body ++ leBytes 64 (Config.sign body).toNat) ∧
        rp.toNat / 2 ^ 1664 = p.report.toNat / 2 ^ 1664) ∧
    (¬ pending ∨ p.cmd ≠ 1 → exec (.attestationReport port) s = .next s) ∧
    (pending → p.cmd ≠ 1 → p.cmd ≠ 2 → exec (.mailboxIgnored port) s = .next (s.modPort n fun p => { p with dseq := p.cseq })) ∧
    (s.mem.wf = true → (s.regions.map fun e => e.1).Nodup → ∃ t, exec (.hostPortReset port) s = .next t ∧ (t.port n).up = false ∧ t.ended = s.ended ∧
      (∀ r, (s.region r).live = true → (s.region r).root = false → (s.region r).port = n → (t.region r).live = false) ∧
      (∀ r, (s.region r).root = true → t.region r = s.region r) ∧
      (∀ r, (s.region r).port ≠ n → t.region r = { s.region r with live := (t.region r).live }) ∧
      (∀ r, (s.region r).port ≠ n → (∃ g ∈ s.grids, g.2.live = true ∧ g.2.region = r) → t.region r = s.region r) ∧
      (s.noStores → ∀ q, q < 16 → s.mem.nat (queueBase n q + 0x44) 4 = 1 → t.mem.nat (queueBase n q + 0x44) 4 = 2)) ∧
    (p.up = true → exec (.hostLinkUp port) s = .next s) ∧
    (p.up = false → p.status ≠ 1 ∨ s.stopped = true → exec (.hostLinkUp port) s = .next (s.modPort n fun p => { p with up := true })) ∧
    (p.up = false → p.status = 1 → s.stopped = false → s.mem.wf = true → ∃ m : Memory, exec (.hostLinkUp port) s = .next ({ s with mem := m }.modPort n fun p => { p with up := true }) ∧
      ∀ q, q < 16 → m.nat (queueBase n q) 4 = 0 ∧ m.nat (queueBase n q + 8) 4 = 0 ∧ m.nat (queueBase n q + 0x40) 4 = 0 ∧ m.nat (queueBase n q + 0x44) 4 = 1)) ∧
  (∀ (e : Nat) (signed : Bool), Config.imagePasses e signed = true ↔ signed = true ∧ Config.sha256 (Config.imageKey e) = Config.fusedKeyHash ∧ Config.fusedMin.toNat ≤ (Config.imageVersion e).toNat) ∧
  ∀ (s : State) (signed : Bool) (gib : BitVec 7), s.mem.wf = true →
    let good := Config.imagePasses (s.mem.epoch + 1) signed
    let fwver : BitVec 32 := if good then Config.imageVersion (s.mem.epoch + 1) else 0
    let regions : Tab Region := if good then [(0, Region.ofRoot 0 s.populated), (1, Region.ofRoot 1 s.populated)] else []
    let status : BitVec 32 := if good then 1 else 2
    let base : Memory → State := fun m =>
      { State.reset with mem := m, populated := s.populated, cxlGiB := s.cxlGiB, regions := regions, freeIx := s.freeIx, agenda := s.agenda, firmware := s.firmware }
    let kept : Memory → Prop := fun m => (∀ a, 0x7000 ≤ tagOf a → m.read a = s.mem.read a) ∧
      (good = true → ∀ port, port < 2 → ∀ f ∈ (Rcb.ofRoot port s.populated).fields 0, m.nat (rootRcbAddr port + f.1) f.2.1 = f.2.2) ∧
      ∀ q, q < 32 → m.nat (windowAddr (q * 65536)) 4 = 0 ∧ m.nat (windowAddr (q * 65536 + 8)) 4 = 0 ∧ m.nat (windowAddr (q * 65536 + 0x40)) 4 = 0 ∧
        m.nat (windowAddr (q * 65536 + 0x44)) 4 = if good then 1 else 0
    (∃ m ld fx, exec (.coldReset signed gib) s = .next { base m with
        ports := [(0, { Port.reset with status := status, fwver := fwver }), (1, { Port.reset with status := status, fwver := fwver })]
        dies := [0, 3, 4, 7, 8, 11].map fun d => (d, { Die.reset with reserveGiB := gib.toNat })
        storeGiB := [12, 15].map fun d => Nat.min 384 (s.tierBytes d / 2 ^ 30), linksDown := ld, freeIx := fx } ∧
      (∀ i, ld.getLsbD i = true → s.linksDown.getLsbD i = true) ∧ (s.linksDown = 0 → fx = s.freeIx) ∧
      kept m ∧ ∀ a, 0x1000 ≤ tagOf a → tagOf a < 0x4000 → m.read a = 0) ∧
    ∃ m ports, exec (.warmReset signed) s = .next { base m with
        ports := ports, dies := [0, 3, 4, 7, 8, 11].map fun d => (d, { Die.reset with reserveGiB := (s.die d).reserveGiB }), linksDown := s.linksDown, retrains := s.retrains, cxlDown := s.cxlDown, storeGiB := s.storeGiB } ∧
      kept m ∧ ∀ n, n < 2 → lookD ports n Port.reset = { s.port n with
        status := status, fwver := fwver, vectors := [], dseq := if good = true ∧ (s.port n).cmd = 2 then (s.port n).cseq else (s.port n).dseq }

/-- LAUNCH_GRID, DROP_SNAPSHOT, WRITE_COMPLETION, PAGE_ALLOCATION and PAGE_MIGRATION (14_queues, 15_tables, 02_execution, 10_memories, 11_generations, 18_counters). The order of the rejections is the model's reading, log entry 44; the frames that a page may move to are log entry 23. -/
def Obligations.LaunchesCompletionsAndPages : Prop :=
  (∀ (s : State) (port : BitVec 1) (q : BitVec 4) (rcbVa : BitVec 64) (lrec : BitVec 28),
    let p := port.toNat
    let b := queueBase p q.toNat
    let rd : Nat → Nat → Nat := fun o n => s.mem.nat (b + o) n
    let n := rd 0x40 4
    let open_ := (s.port p).status = 1 ∧ rd 0x44 4 = 1 ∧ n ≠ rd 0 4 ∧ (n + 2 ^ 32 - rd 8 4) % 2 ^ 32 < 256
    let l : Nat → Nat := fun o => s.mem.nat (b + 0x100 + 128 * (n % 256) + o) 8
    let ends : BitVec 8 → Instr → Prop := fun status i => exec i s = .next { s with
      mem := s.mem.putNat (b + 0x40) 4 (n + 1), ended := s.ended ++ [⟨p, q.toNat, BitVec.ofNat 32 n, BitVec.ofNat 64 (l 0x28), status, 0⟩] }
    let resv := s.mem.nat (b + 0x100 + 128 * (n % 256) + 0x30) 80 ≠ 0
    (¬ open_ → exec (.launchGrid port q rcbVa lrec) s = .next s ∧ exec (.dropSnapshot port q) s = .next s) ∧
    (open_ →
      (l 0 % 256 ≠ 1 → l 0 % 256 ≠ 2 → ends 1 (.launchGrid port q rcbVa lrec)) ∧
      (l 0 % 256 = 1 → resv ∨ 256 ≤ l 0 ∨ 2 ^ 32 ≤ l 0x18 ∨ 2 ^ 32 ≤ l 0x20 → ends 2 (.launchGrid port q rcbVa lrec)) ∧
      (l 0 = 1 → ¬ resv → l 0x18 < 2 ^ 32 → l 0x20 < 2 ^ 32 → ∃ x : Slot, s.nextLaunch p q.toNat = some x ∧ x.n = n ∧ x.loop = l 0x10 ∧
        let tmpl := s.vaBytes p (BitVec.ofNat 64 (l 8)) 256
        (tmpl = none ∨ (∃ bs, tmpl = some bs ∧ s.createRcb p bs = none) → ends 3 (.launchGrid port q rcbVa lrec)) ∧
        ∀ bs parent rcb, tmpl = some bs → s.createRcb p bs = some (parent, rcb) →
          let loop := s.vaBytes p (BitVec.ofNat 64 (l 0x10)) 128
          (loop = none ∨ (∃ ls, loop = some ls ∧ createGrid p q.toNat x rcb ls = none) → ends 4 (.launchGrid port q rcbVa lrec)) ∧
          ∀ ls g cset place, loop = some ls → createGrid p q.toNat x rcb ls = some (g, cset) → s.rcbPlace p rcbVa = some place →
            s.lrecPlace g.clusters (0x10000000 + lrec.setWidth 32) = true → ∃ t rid gid, exec (.launchGrid port q rcbVa lrec) s = .next t ∧
              (∀ e ∈ s.regions, e.1 ≠ rid) ∧ (∀ e ∈ s.grids, e.1 ≠ gid) ∧ t.region rid = ⟨true, false, p, parent, rcb, rcbVa, [], 0, 0, false, 0⟩ ∧
              t.grid gid = { g with region := rid, lrec := 0x10000000 + lrec.setWidth 32 } ∧ (∀ r, r ≠ rid → t.region r = s.region r) ∧
              (∀ i, i ≠ gid → t.grid i = s.grid i) ∧ t.ready = s.ready ∧ t.ended = s.ended ∧ t.ctxs = s.ctxs ∧ (g.mapped = false → t.clusters = s.clusters) ∧
              (g.mapped = true → ∀ cl ∈ g.clusters, ∀ i, i < 32 → lookD (t.cluster cl).bars i Barrier.reset =
                { Barrier.reset with phase := (lookD (s.cluster cl).bars i Barrier.reset).phase })) ∧
      (l 0 % 256 ≠ 2 → exec (.dropSnapshot port q) s = .next s) ∧
      (l 0 % 256 = 2 → exec (.launchGrid port q rcbVa lrec) s = .next s) ∧
      (l 0 % 256 = 2 → resv ∨ 256 ≤ l 0 ∨ 65536 ≤ l 8 ∨ l 0x10 ≠ 0 ∨ l 0x18 ≠ 0 ∨ l 0x20 ≠ 0 → ends 2 (.dropSnapshot port q)) ∧
      (l 0 = 2 → ¬ resv → l 8 < 65536 → l 0x10 = 0 → l 0x18 = 0 → l 0x20 = 0 →
        let g := BitVec.ofNat 16 (l 8)
        let right := (s.region p).rcb.snapRight
        (right = false → ends 7 (.dropSnapshot port q)) ∧ (right = true → g ∉ s.live → ends 6 (.dropSnapshot port q)) ∧
        (right = true → g ∈ s.live → ∃ t, exec (.dropSnapshot port q) s = .next t ∧ t.live = s.live.filter (fun y => y != g) ∧
          (∀ v, v ∈ t.versions ↔ v ∈ s.versions ∧ ∃ z ∈ t.live, s.age v.t ≤ s.age z ∧ s.age z ≤ s.age v.f) ∧
          t = { s with live := t.live, versions := t.versions, mem := s.mem.putNat (b + 0x40) 4 (n + 1)
                       ended := s.ended ++ [⟨p, q.toNat, BitVec.ofNat 32 n, BitVec.ofNat 64 (l 0x28), 0, 0⟩] })))) ∧
  (∀ s : State, s.ended = [] → exec .writeCompletion s = .next s) ∧
  (∀ (s : State) (e : Ended) (rest : List Ended), s.ended = e :: rest → s.mem.wf = true → s.time < 2 ^ 64 →
    let a := queueBase e.port e.queue + 0x8100 + 32 * (e.launch.toNat % 256)
    ∃ m : Memory, exec .writeCompletion s = .next ({ s with ended := rest, mem := m }.modPort e.port fun p => { p with vectors := e.queue :: p.vectors }) ∧
      m.nat a 4 = e.status.toNat ∧ m.nat (a + 4) 4 = e.detail.toNat ∧ m.nat (a + 8) 8 = e.user.toNat ∧ m.nat (a + 0x10) 8 = s.time ∧
      m.nat (a + 0x18) 4 = e.launch.toNat ∧ m.nat (a + 0x1c) 4 = 0 ∧ ∀ x, x < a ∨ a + 32 ≤ x → m.read x = s.mem.read x) ∧
  (∀ (d : DieBind) (frame place : Nat) (write pin : Bool), frame < 2 ^ 52 → frame % 65536 = 0 → place ≤ (if d.kind = .io then 1 else 2) →
    let e := leafEntry frame place write pin
    pteLeaf d e 0x10000 = true ∧ pteAddr e = frame ∧ e.testBit 2 = write ∧ e.testBit 5 = pin ∧ e / 8 % 4 = place ∧ e < 2 ^ 52) ∧
  ∀ (s : State) (r : Nat) (v : BitVec 4) (off frame : BitVec 52) (place : BitVec 2) (p1 p2 : Nat) (d : DieBind),
    s.pagedDie r v.toNat = some d → (s.ptePath d off.toNat).p1 = some p1 → (s.ptePath d off.toNat).p2 = some p2 → s.cutSent = false → s.mustHold (p2 / 65536) = false →
    isGen p2 = true → place.toNat ≤ (if d.kind = .io then 1 else 2) →
    let old := s.mem.nat p2 8
    (∀ t1 t2 write pin, s.frameOk d place.toNat frame.toNat 0x10000 = true →
      (old.testBit 0 = true → exec (.pageAllocation r v off false frame place write pin t1 t2) s = .next s) ∧
      (old.testBit 0 = false → ∀ b : Bool,
        (b = true ↔ pin = true ∨ ∃ e ∈ s.regions, e.2.live = true ∧ ∃ x, x < 16 ∧ e.2.rcb.dbt[x]? = some d ∧ e.2.rcb.inRing (BitVec.ofNat 64 (x * 2 ^ 52 + off.toNat)) 0x10000 = true) →
        exec (.pageAllocation r v off false frame place write pin t1 t2) s =
          .next (s.performGen (p2 / 65536) (cellsAt p2 (leBytes 8 (leafEntry frame.toNat place.toNat write b)))))) ∧
    (pteLeaf d old 0x10000 = true → old.testBit 5 = true → exec (.pageMigration r v off frame place) s = .next s) ∧
    (pteLeaf d old 0x10000 = true → old.testBit 5 = false → d.kind = .memory → s.needsVersion (p2 / 65536) = false → frame.toNat % 65536 = 0 → s.mem.wf = true →
      s.memHas (phys d.tag (frame.toNat + 65535)) = true →
      let a := phys d.tag (pteAddr old)
      let a' := phys d.tag frame.toNat
      let entry := leafEntry frame.toNat place.toNat (old.testBit 2) false
      (frame.toNat = pteAddr old → exec (.pageMigration r v off frame place) s = .next (s.performGen (p2 / 65536) (cellsAt p2 (leBytes 8 entry)))) ∧
      (frame.toNat ≠ pteAddr old → (∀ h ∈ s.heldWrites, ∀ c ∈ h.cells, c.1 / 65536 ≠ a / 65536 ∧ c.1 / 65536 ≠ a' / 65536) → s.carryRoom (a / 65536) 1 = true →
        s.frameUsed (a' / 65536) = false → (p2 + 8 ≤ a' ∨ a' + 65536 ≤ p2) → ∃ t, exec (.pageMigration r v off frame place) s = .next t ∧
        t.mem.nat p2 8 = entry ∧ (∀ i, i < 65536 → t.mem.read (a' + i) = s.mem.read (a + i)) ∧
        (∀ x, (x < a' ∨ a' + 65536 ≤ x) → (x < p2 ∨ p2 + 8 ≤ x) → t.mem.read x = s.mem.read x) ∧ t.birth (a' / 65536) = s.birth (a / 65536)))
end

