-- ==== Sys2Proof/Laws/Tab.lean ====
section
/-!
SUPPORT. The sparse tables: reading after a write, and the order of keys.
-/
namespace Sys2Proof.Machine

variable {α : Type}

@[simp] theorem look?_put_self (t : Tab α) (n : Nat) (a : α) : look? (put t n a) n = some a := by
  induction t with
  | nil => simp [put, look?]
  | cons e r ih =>
    obtain ⟨k, v⟩ := e
    by_cases h : n < k
    · simp [put, look?, h]
    · by_cases h2 : n = k
      · simp [put, look?, h2]
      · have h3 : ¬ k = n := fun x => h2 x.symm
        simp [put, look?, h, h2, h3, ih]

theorem look?_put_ne (t : Tab α) {n m : Nat} (a : α) (h : m ≠ n) : look? (put t n a) m = look? t m := by
  induction t with
  | nil => simp [put, look?, h.symm]
  | cons e r ih =>
    obtain ⟨k, v⟩ := e
    by_cases h1 : n < k
    · simp [put, look?, h1, h.symm]
    · by_cases h2 : n = k
      · subst h2; simp [put, look?, h.symm]
      · simp [put, look?, h1, h2, ih]

@[simp] theorem lookD_put_self (t : Tab α) (n : Nat) (a d : α) : lookD (put t n a) n d = a := by simp [lookD]

theorem lookD_put_ne (t : Tab α) {n m : Nat} (a d : α) (h : m ≠ n) : lookD (put t n a) m d = lookD t m d := by
  simp [lookD, look?_put_ne t a h]

/-- A second write to a key replaces the first. -/
@[simp] theorem put_put (t : Tab α) (n : Nat) (a b : α) : put (put t n a) n b = put t n b := by
  induction t with
  | nil => simp [put]
  | cons e r ih =>
    obtain ⟨k, v⟩ := e
    by_cases h : n < k
    · simp [put, h]
    · by_cases h2 : n = k
      · subst h2; simp [put]
      · simp [put, h, h2, ih]

theorem look?_del_ne (t : Tab α) {n m : Nat} (h : m ≠ n) : look? (del t n) m = look? t m := by
  induction t with
  | nil => rfl
  | cons e r ih =>
    obtain ⟨k, v⟩ := e
    by_cases h0 : n < k
    · simp [del, h0]
    · by_cases h1 : n = k
      · subst h1; simp [del, look?, h.symm]
      · simp [del, look?, h0, h1, ih]

/-- Keys rise strictly. -/
abbrev Rising (t : Tab α) : Prop := t.Pairwise fun x y => x.1 < y.1

theorem put_keys (t : Tab α) (n : Nat) (a : α) : ∀ x ∈ put t n a, x = (n, a) ∨ x ∈ t := by
  induction t with
  | nil => simp [put]
  | cons e r ih =>
    obtain ⟨k, v⟩ := e
    intro x hx
    unfold put at hx
    split at hx
    · rcases List.mem_cons.1 hx with h | h
      · exact .inl h
      · exact .inr h
    · split at hx
      · rcases List.mem_cons.1 hx with h | h
        · exact .inl h
        · exact .inr (List.mem_cons_of_mem _ h)
      · rcases List.mem_cons.1 hx with h | h
        · exact .inr (h ▸ List.mem_cons_self)
        · exact (ih x h).imp id (List.mem_cons_of_mem _)

theorem Rising.put {t : Tab α} (h : Rising t) (n : Nat) (a : α) : Rising (put t n a) := by
  induction t with
  | nil => simp [Machine.put]
  | cons e r ih =>
    obtain ⟨k, v⟩ := e
    obtain ⟨hk, hr⟩ := List.pairwise_cons.1 h
    unfold Machine.put
    split
    · rename_i h1
      refine List.pairwise_cons.2 ⟨fun x hx => ?_, h⟩
      rcases List.mem_cons.1 hx with h2 | h2
      · rw [h2]; exact h1
      · exact Nat.lt_trans h1 (hk x h2)
    · split
      · rename_i h1 h2
        subst h2
        exact List.pairwise_cons.2 ⟨hk, hr⟩
      · rename_i h1 h2
        refine List.pairwise_cons.2 ⟨fun x hx => ?_, ih hr⟩
        rcases put_keys r n a x hx with h3 | h3
        · rw [h3]; simp only; omega
        · exact hk x h3

theorem del_sublist (t : Tab α) (n : Nat) : (del t n).Sublist t := by
  induction t with
  | nil => exact .slnil
  | cons e r ih =>
    obtain ⟨k, v⟩ := e
    unfold del
    split
    · exact List.Sublist.refl _
    split
    · exact List.sublist_cons_self _ _
    · exact ih.cons_cons _

theorem Rising.del {t : Tab α} (h : Rising t) (n : Nat) : Rising (del t n) := h.sublist (del_sublist t n)

theorem look?_of_lt {t : Tab α} {n : Nat} (h : ∀ x ∈ t, n < x.1) : look? t n = none := by
  induction t with
  | nil => rfl
  | cons e r ih =>
    obtain ⟨k, v⟩ := e
    have hk : n < k := h (k, v) List.mem_cons_self
    simp [look?, Nat.ne_of_gt hk, ih fun x hx => h x (List.mem_cons_of_mem _ hx)]

theorem look?_del_self {t : Tab α} (h : Rising t) (n : Nat) : look? (del t n) n = none := by
  induction t with
  | nil => rfl
  | cons e r ih =>
    obtain ⟨k, v⟩ := e
    obtain ⟨hk, hr⟩ := List.pairwise_cons.1 h
    unfold del
    split
    · rename_i h0
      refine look?_of_lt fun x hx => ?_
      rcases List.mem_cons.1 hx with rfl | hx
      · exact h0
      · exact Nat.lt_trans h0 (hk x hx)
    split
    · rename_i h1
      subst h1
      exact look?_of_lt hk
    · rename_i h1
      simp [look?, Ne.symm h1, ih hr]

theorem look?_mem {t : Tab α} {n : Nat} {a : α} (h : look? t n = some a) : (n, a) ∈ t := by
  induction t with
  | nil => simp [look?] at h
  | cons e r ih =>
    obtain ⟨k, v⟩ := e
    unfold look? at h
    split at h
    · rename_i h1
      subst h1
      simp only [Option.some.injEq] at h
      simp [h]
    · exact List.mem_cons_of_mem _ (ih h)

end Sys2Proof.Machine
end

