-- ==== Sys2Proof/Laws/Mem.lean ====
section
/-!
SUPPORT. Memory: reading after a write, and the canonical form, which every memory operation keeps.
-/
namespace Sys2Proof.Machine

theorem risingCells_iff (l : List Host.Cell) : risingCells l = true ↔ Rising l := by
  induction l with
  | nil => simp [risingCells]
  | cons a r ih =>
    cases r with
    | nil => simp [risingCells]
    | cons b r =>
      simp only [risingCells, Bool.and_eq_true, decide_eq_true_eq, ih, List.pairwise_cons]
      constructor
      · rintro ⟨h, hb, hr⟩
        refine ⟨fun x hx => ?_, hb, hr⟩
        rcases List.mem_cons.1 hx with h2 | h2
        · rw [h2]; exact h
        · exact Nat.lt_trans h (hb x h2)
      · rintro ⟨h, hb, hr⟩
        exact ⟨h b List.mem_cons_self, hb, hr⟩

/-- The canonical form, in two parts. -/
theorem Memory.wf_iff (m : Memory) : m.wf = true ↔ Rising m.cells ∧ ∀ c ∈ m.cells, m.unlisted c.1 ≠ some c.2 := by
  simp [Memory.wf, risingCells_iff]

@[simp] theorem Memory.unlisted_write (m : Memory) (a : Nat) (b : Byte) (x : Nat) : (m.write a b).unlisted x = m.unlisted x := rfl

/-- A write keeps the canonical form. -/
theorem Memory.write_wf {m : Memory} (h : m.wf = true) (a : Nat) (b : Byte) : (m.write a b).wf = true := by
  rw [Memory.wf_iff] at h ⊢
  obtain ⟨hr, hc⟩ := h
  unfold Memory.write
  split
  · exact ⟨hr.del a, fun c hx => hc c ((del_sublist _ _).subset hx)⟩
  · rename_i hne
    refine ⟨hr.put a b, fun c hx => ?_⟩
    rcases put_keys _ _ _ _ hx with h1 | h1
    · subst h1; exact hne
    · exact hc c h1

/-- Writes keep the canonical form. -/
theorem Memory.writes_wf {m : Memory} (h : m.wf = true) (cs : List Host.Cell) : (m.writes cs).wf = true := by
  unfold Memory.writes
  induction cs generalizing m with
  | nil => exact h
  | cons c r ih => exact ih (Memory.write_wf h c.1 c.2)

theorem Memory.putNat_wf {m : Memory} (h : m.wf = true) (a n v : Nat) : (m.putNat a n v).wf = true := Memory.writes_wf h _

theorem Memory.putFields_wf {m : Memory} (h : m.wf = true) (a : Nat) (l : List FrameField) : (m.putFields a l).wf = true := by
  unfold Memory.putFields
  induction l generalizing m with
  | nil => exact h
  | cons c r ih => exact ih (Memory.putNat_wf h _ _ _)

theorem Memory.filter_wf {m : Memory} (h : m.wf = true) (p : Host.Cell → Bool) : Memory.wf { m with cells := m.cells.filter p } = true := by
  rw [Memory.wf_iff] at h ⊢
  exact ⟨h.1.sublist List.filter_sublist, fun c hc => h.2 c (List.mem_filter.1 hc).1⟩

theorem Memory.clear_wf {m : Memory} (h : m.wf = true) (a n : Nat) : (m.clear a n).wf = true :=
  Memory.writes_wf (Memory.filter_wf h _) _

theorem Memory.queueHeader_wf {m : Memory} (h : m.wf = true) (p q st : Nat) : (m.queueHeader p q st).wf = true := by
  unfold Memory.queueHeader
  exact Memory.putNat_wf (Memory.putNat_wf (Memory.putNat_wf (Memory.putNat_wf h _ _ _) _ _ _) _ _ _) _ _ _

theorem Memory.read_def (m : Memory) (a : Nat) :
    m.read a = (look? m.cells a).getD ((m.unlisted a).getD (Config.undefByte (m.epochAt a) a)) := by
  unfold Memory.read
  cases look? m.cells a <;> rfl

/-- A byte reads as it was last written. -/
theorem Memory.read_write_self {m : Memory} (h : m.wf = true) (a : Nat) (b : Byte) : (m.write a b).read a = b := by
  have hr := ((Memory.wf_iff m).1 h).1
  rw [Memory.read_def, Memory.unlisted_write]
  unfold Memory.write
  split
  · rename_i hu
    simp [look?_del_self hr, hu]
  · simp

/-- A write leaves every other byte alone. -/
theorem Memory.read_write_ne (m : Memory) {a x : Nat} (b : Byte) (h : x ≠ a) : (m.write a b).read x = m.read x := by
  rw [Memory.read_def, Memory.read_def, Memory.unlisted_write]
  have hl : look? (m.write a b).cells x = look? m.cells x := by
    unfold Memory.write
    split
    · exact look?_del_ne _ h
    · exact look?_put_ne _ _ h
  rw [hl]
  rfl

/-- Writes leave alone every byte they do not name. -/
theorem Memory.read_writes_ne (m : Memory) {x : Nat} (cs : List Host.Cell) (h : ∀ c ∈ cs, c.1 ≠ x) : (m.writes cs).read x = m.read x := by
  unfold Memory.writes
  induction cs generalizing m with
  | nil => rfl
  | cons c r ih =>
    rw [List.foldl_cons, ih _ fun d hd => h d (List.mem_cons_of_mem _ hd)]
    exact Memory.read_write_ne m c.2 (h c List.mem_cons_self).symm

@[simp] theorem leBytes_length (n v : Nat) : (leBytes n v).length = n := by
  induction n generalizing v with
  | zero => rfl
  | succ n ih => simp [leBytes, ih]

theorem leNat_leBytes (n v : Nat) : leNat (leBytes n v) = v % 256 ^ n := by
  induction n generalizing v with
  | zero => simp [leBytes, leNat, Nat.mod_one]
  | succ n ih =>
    have h : 256 ^ (n + 1) = 256 * 256 ^ n := by ring
    simp [leBytes, leNat, ih, h, Nat.mod_mul]

theorem mem_cellsAt {a : Nat} {bs : List Byte} {c : Host.Cell} (h : c ∈ cellsAt a bs) : a ≤ c.1 ∧ c.1 < a + bs.length := by
  obtain ⟨i, hi, rfl⟩ := List.mem_iff_getElem.mp h
  simp [cellsAt] at hi ⊢
  exact hi

theorem cellsAt_cons (a : Nat) (b : Byte) (bs : List Byte) : cellsAt a (b :: bs) = (a, b) :: cellsAt (a + 1) bs := by
  simp [cellsAt, List.range_succ_eq_map, List.zipWith_map_left]
  congr 1; funext i b; simp; omega

/-- Bytes written from `a` upward are read back. -/
theorem Memory.reads_writes {m : Memory} (h : m.wf = true) (a : Nat) (bs : List Byte) : (m.writes (cellsAt a bs)).reads a bs.length = bs := by
  induction bs generalizing m a with
  | nil => simp [Memory.reads]
  | cons b bs ih =>
    have e : (m.writes (cellsAt a (b :: bs))) = (m.write a b).writes (cellsAt (a + 1) bs) := by rw [cellsAt_cons]; rfl
    have r := ih (Memory.write_wf h a b) (a + 1)
    rw [e]
    simp only [Memory.reads, List.length_cons, List.range_succ_eq_map, List.map_cons, List.map_map, Nat.add_zero] at r ⊢
    refine congrArg₂ _ ?_ ?_
    · rw [Memory.read_writes_ne _ _ fun c hc => by have := mem_cellsAt hc; omega, Memory.read_write_self h]
    · conv_rhs => rw [← r]
      refine List.map_congr_left fun i _ => ?_
      simp only [Function.comp]; congr 1; omega

/-- A little-endian value written is read back, modulo its width. -/
theorem Memory.nat_putNat {m : Memory} (h : m.wf = true) (a n v : Nat) : (m.putNat a n v).nat a n = v % 256 ^ n := by
  have := Memory.reads_writes h a (leBytes n v)
  rw [leBytes_length] at this
  rw [Memory.nat, Memory.putNat, this, leNat_leBytes]

/-- A value elsewhere keeps its bytes. -/
theorem Memory.read_putNat_ne (m : Memory) {a n x : Nat} (v : Nat) (h : x < a ∨ a + n ≤ x) : (m.putNat a n v).read x = m.read x :=
  Memory.read_writes_ne m _ fun c hc => by have := mem_cellsAt hc; rw [leBytes_length] at this; omega

/-- Host memory has no byte that reads as a value unlisted. -/
theorem Memory.unlisted_host (m : Memory) {a : Nat} (h : 0x7000 ≤ tagOf a) : m.unlisted a = none := by
  have h1 : isSram a = false := by simp only [isSram, Bool.and_eq_false_iff, decide_eq_false_iff_not]; omega
  have ne : ∀ n, n < 0x7000 → (tagOf a == n) = false := fun n hn => by simp; omega
  have h2 : isRootTable a = false := by simp [isRootTable, Config.memorySockets, Config.ioSockets, hbmTag, tierTag, ne]
  have lt : ¬a < rootRcbAddr 2 := by simp only [tagOf, rootRcbAddr] at h ⊢; omega
  simp [Memory.unlisted, rootRcbByte, h1, h2, lt]

/-- A reset leaves the canonical form. -/
theorem State.resetMem_wf {s : State} (h : s.mem.wf = true) (warm good : Bool) : (s.resetMem warm good).wf = true := by
  have h0 : Memory.wf ⟨s.hostCells, s.mem.epoch + 1, warm⟩ = true := by
    rw [Memory.wf_iff] at h ⊢
    refine ⟨h.1.sublist List.filter_sublist, fun c hc => ?_⟩
    rw [Memory.unlisted_host _ (by simpa using (List.mem_filter.1 hc).2)]
    exact fun x => nomatch x
  have fold : ∀ (l : List Nat) (m : Memory), m.wf = true →
      (l.foldl (fun m q => m.queueHeader (q / 16) (q % 16) (ofBool good)) m).wf = true := by
    intro l
    induction l with
    | nil => exact fun _ h => h
    | cons q r ih => exact fun m hm => ih _ (Memory.queueHeader_wf hm _ _ _)
  have h1 := fold (List.range 32) _ h0
  unfold State.resetMem
  dsimp only
  split
  · exact Memory.putFields_wf (Memory.putFields_wf h1 _ _) _ _
  · exact h1

theorem State.reset_mem_wf : State.reset.mem.wf = true := by decide +kernel

end Sys2Proof.Machine
end

