-- ==== Sys2Proof/Laws/PerInstr.lean ====
section
/-!
SUPPORT. The family `Width`: an instruction's encoding fits the bits of its slot (03_bundles R50), one lemma for each constructor of `Instr`.
-/
namespace Sys2Proof.Laws.Width

/-- The encoding of an instruction fits the slot it belongs to (R50). -/
def Statement (i : Instr) : Prop :=
  ∀ k, i.slotKind = some k → encode i < 2 ^ (match k with | .s => 44 | .v => 56 | .t => 48 | .l => 48 | .st => 48 | .c => 40 | .y => 32)

/-- Packed fields stay below the sum of their widths. -/
theorem pack_lt (l : List (Nat × Nat)) : pack l < 2 ^ (l.map fun x => x.1).sum := by
  induction l with
  | nil => simp [pack]
  | cons a r ih =>
    obtain ⟨w, v⟩ := a
    simp only [pack, List.map_cons, List.sum_cons, Nat.pow_add]
    have h : v % 2 ^ w < 2 ^ w := Nat.mod_lt _ (Nat.two_pow_pos w)
    calc v % 2 ^ w + 2 ^ w * pack r < 2 ^ w + 2 ^ w * pack r := Nat.add_lt_add_right h _
      _ = 2 ^ w * (pack r + 1) := by rw [Nat.mul_add, Nat.mul_one, Nat.add_comm]
      _ ≤ _ := Nat.mul_le_mul_left _ ih

/-- The same for any wider field. -/
theorem pack_lt_of (l : List (Nat × Nat)) {n : Nat} (h : (l.map fun x => x.1).sum ≤ n) : pack l < 2 ^ n :=
  Nat.lt_of_lt_of_le (pack_lt l) (Nat.pow_le_pow_right (by decide) h)

theorem encV_lt (g : Guard) (a b c d e h i j k l : Nat) : encV g a b c d e h i j k l < 2 ^ 56 := pack_lt_of _ (Nat.le_of_ble_eq_true rfl)

theorem encBin_lt (var fam : Nat) (o : VBin) : encBin var fam o < 2 ^ 56 := by unfold encBin; split <;> exact encV_lt ..

theorem encUn_lt (var fam vb : Nat) (o : VUn) : encUn var fam vb o < 2 ^ 56 := encV_lt ..

theorem encCm_lt (var fam : Nat) (o : VCm) : encCm var fam o < 2 ^ 56 := by unfold encCm; dsimp only; split <;> exact encV_lt ..

theorem nop : Statement (.nop) := fun _ h => nomatch h

theorem add : ∀ x0 x1 x2 x3, Statement (.add x0 x1 x2 x3) := by
  intro _ _ _ _ _ h
  cases h
  exact pack_lt_of _ (Nat.le_of_ble_eq_true rfl)

theorem addImm : ∀ x0 x1 x2 x3, Statement (.addImm x0 x1 x2 x3) := by
  intro _ _ _ _ _ h
  cases h
  exact pack_lt_of _ (Nat.le_of_ble_eq_true rfl)

theorem sub : ∀ x0 x1 x2 x3, Statement (.sub x0 x1 x2 x3) := by
  intro _ _ _ _ _ h
  cases h
  exact pack_lt_of _ (Nat.le_of_ble_eq_true rfl)

theorem subImm : ∀ x0 x1 x2 x3, Statement (.subImm x0 x1 x2 x3) := by
  intro _ _ _ _ _ h
  cases h
  exact pack_lt_of _ (Nat.le_of_ble_eq_true rfl)

theorem and : ∀ x0 x1 x2 x3, Statement (.and x0 x1 x2 x3) := by
  intro _ _ _ _ _ h
  cases h
  exact pack_lt_of _ (Nat.le_of_ble_eq_true rfl)

theorem andImm : ∀ x0 x1 x2 x3, Statement (.andImm x0 x1 x2 x3) := by
  intro _ _ _ _ _ h
  cases h
  exact pack_lt_of _ (Nat.le_of_ble_eq_true rfl)

theorem or : ∀ x0 x1 x2 x3, Statement (.or x0 x1 x2 x3) := by
  intro _ _ _ _ _ h
  cases h
  exact pack_lt_of _ (Nat.le_of_ble_eq_true rfl)

theorem orImm : ∀ x0 x1 x2 x3, Statement (.orImm x0 x1 x2 x3) := by
  intro _ _ _ _ _ h
  cases h
  exact pack_lt_of _ (Nat.le_of_ble_eq_true rfl)

theorem xor : ∀ x0 x1 x2 x3, Statement (.xor x0 x1 x2 x3) := by
  intro _ _ _ _ _ h
  cases h
  exact pack_lt_of _ (Nat.le_of_ble_eq_true rfl)

theorem xorImm : ∀ x0 x1 x2 x3, Statement (.xorImm x0 x1 x2 x3) := by
  intro _ _ _ _ _ h
  cases h
  exact pack_lt_of _ (Nat.le_of_ble_eq_true rfl)

theorem andn : ∀ x0 x1 x2 x3, Statement (.andn x0 x1 x2 x3) := by
  intro _ _ _ _ _ h
  cases h
  exact pack_lt_of _ (Nat.le_of_ble_eq_true rfl)

theorem andnImm : ∀ x0 x1 x2 x3, Statement (.andnImm x0 x1 x2 x3) := by
  intro _ _ _ _ _ h
  cases h
  exact pack_lt_of _ (Nat.le_of_ble_eq_true rfl)

theorem shl : ∀ x0 x1 x2 x3, Statement (.shl x0 x1 x2 x3) := by
  intro _ _ _ _ _ h
  cases h
  exact pack_lt_of _ (Nat.le_of_ble_eq_true rfl)

theorem shlImm : ∀ x0 x1 x2 x3, Statement (.shlImm x0 x1 x2 x3) := by
  intro _ _ _ _ _ h
  cases h
  exact pack_lt_of _ (Nat.le_of_ble_eq_true rfl)

theorem shr : ∀ x0 x1 x2 x3, Statement (.shr x0 x1 x2 x3) := by
  intro _ _ _ _ _ h
  cases h
  exact pack_lt_of _ (Nat.le_of_ble_eq_true rfl)

theorem shrImm : ∀ x0 x1 x2 x3, Statement (.shrImm x0 x1 x2 x3) := by
  intro _ _ _ _ _ h
  cases h
  exact pack_lt_of _ (Nat.le_of_ble_eq_true rfl)

theorem sra : ∀ x0 x1 x2 x3, Statement (.sra x0 x1 x2 x3) := by
  intro _ _ _ _ _ h
  cases h
  exact pack_lt_of _ (Nat.le_of_ble_eq_true rfl)

theorem sraImm : ∀ x0 x1 x2 x3, Statement (.sraImm x0 x1 x2 x3) := by
  intro _ _ _ _ _ h
  cases h
  exact pack_lt_of _ (Nat.le_of_ble_eq_true rfl)

theorem mul : ∀ x0 x1 x2 x3, Statement (.mul x0 x1 x2 x3) := by
  intro _ _ _ _ _ h
  cases h
  exact pack_lt_of _ (Nat.le_of_ble_eq_true rfl)

theorem mulImm : ∀ x0 x1 x2 x3, Statement (.mulImm x0 x1 x2 x3) := by
  intro _ _ _ _ _ h
  cases h
  exact pack_lt_of _ (Nat.le_of_ble_eq_true rfl)

theorem mulh : ∀ x0 x1 x2 x3, Statement (.mulh x0 x1 x2 x3) := by
  intro _ _ _ _ _ h
  cases h
  exact pack_lt_of _ (Nat.le_of_ble_eq_true rfl)

theorem mulhImm : ∀ x0 x1 x2 x3, Statement (.mulhImm x0 x1 x2 x3) := by
  intro _ _ _ _ _ h
  cases h
  exact pack_lt_of _ (Nat.le_of_ble_eq_true rfl)

theorem mulhu : ∀ x0 x1 x2 x3, Statement (.mulhu x0 x1 x2 x3) := by
  intro _ _ _ _ _ h
  cases h
  exact pack_lt_of _ (Nat.le_of_ble_eq_true rfl)

theorem mulhuImm : ∀ x0 x1 x2 x3, Statement (.mulhuImm x0 x1 x2 x3) := by
  intro _ _ _ _ _ h
  cases h
  exact pack_lt_of _ (Nat.le_of_ble_eq_true rfl)

theorem div : ∀ x0 x1 x2 x3, Statement (.div x0 x1 x2 x3) := by
  intro _ _ _ _ _ h
  cases h
  exact pack_lt_of _ (Nat.le_of_ble_eq_true rfl)

theorem divImm : ∀ x0 x1 x2 x3, Statement (.divImm x0 x1 x2 x3) := by
  intro _ _ _ _ _ h
  cases h
  exact pack_lt_of _ (Nat.le_of_ble_eq_true rfl)

theorem divu : ∀ x0 x1 x2 x3, Statement (.divu x0 x1 x2 x3) := by
  intro _ _ _ _ _ h
  cases h
  exact pack_lt_of _ (Nat.le_of_ble_eq_true rfl)

theorem divuImm : ∀ x0 x1 x2 x3, Statement (.divuImm x0 x1 x2 x3) := by
  intro _ _ _ _ _ h
  cases h
  exact pack_lt_of _ (Nat.le_of_ble_eq_true rfl)

theorem rem : ∀ x0 x1 x2 x3, Statement (.rem x0 x1 x2 x3) := by
  intro _ _ _ _ _ h
  cases h
  exact pack_lt_of _ (Nat.le_of_ble_eq_true rfl)

theorem remImm : ∀ x0 x1 x2 x3, Statement (.remImm x0 x1 x2 x3) := by
  intro _ _ _ _ _ h
  cases h
  exact pack_lt_of _ (Nat.le_of_ble_eq_true rfl)

theorem remu : ∀ x0 x1 x2 x3, Statement (.remu x0 x1 x2 x3) := by
  intro _ _ _ _ _ h
  cases h
  exact pack_lt_of _ (Nat.le_of_ble_eq_true rfl)

theorem remuImm : ∀ x0 x1 x2 x3, Statement (.remuImm x0 x1 x2 x3) := by
  intro _ _ _ _ _ h
  cases h
  exact pack_lt_of _ (Nat.le_of_ble_eq_true rfl)

theorem min : ∀ x0 x1 x2 x3, Statement (.min x0 x1 x2 x3) := by
  intro _ _ _ _ _ h
  cases h
  exact pack_lt_of _ (Nat.le_of_ble_eq_true rfl)

theorem minImm : ∀ x0 x1 x2 x3, Statement (.minImm x0 x1 x2 x3) := by
  intro _ _ _ _ _ h
  cases h
  exact pack_lt_of _ (Nat.le_of_ble_eq_true rfl)

theorem max : ∀ x0 x1 x2 x3, Statement (.max x0 x1 x2 x3) := by
  intro _ _ _ _ _ h
  cases h
  exact pack_lt_of _ (Nat.le_of_ble_eq_true rfl)

theorem maxImm : ∀ x0 x1 x2 x3, Statement (.maxImm x0 x1 x2 x3) := by
  intro _ _ _ _ _ h
  cases h
  exact pack_lt_of _ (Nat.le_of_ble_eq_true rfl)

theorem minu : ∀ x0 x1 x2 x3, Statement (.minu x0 x1 x2 x3) := by
  intro _ _ _ _ _ h
  cases h
  exact pack_lt_of _ (Nat.le_of_ble_eq_true rfl)

theorem minuImm : ∀ x0 x1 x2 x3, Statement (.minuImm x0 x1 x2 x3) := by
  intro _ _ _ _ _ h
  cases h
  exact pack_lt_of _ (Nat.le_of_ble_eq_true rfl)

theorem maxu : ∀ x0 x1 x2 x3, Statement (.maxu x0 x1 x2 x3) := by
  intro _ _ _ _ _ h
  cases h
  exact pack_lt_of _ (Nat.le_of_ble_eq_true rfl)

theorem maxuImm : ∀ x0 x1 x2 x3, Statement (.maxuImm x0 x1 x2 x3) := by
  intro _ _ _ _ _ h
  cases h
  exact pack_lt_of _ (Nat.le_of_ble_eq_true rfl)

theorem clz : ∀ x0 x1 x2, Statement (.clz x0 x1 x2) := by
  intro _ _ _ _ h
  cases h
  exact pack_lt_of _ (Nat.le_of_ble_eq_true rfl)

theorem ctz : ∀ x0 x1 x2, Statement (.ctz x0 x1 x2) := by
  intro _ _ _ _ h
  cases h
  exact pack_lt_of _ (Nat.le_of_ble_eq_true rfl)

theorem popc : ∀ x0 x1 x2, Statement (.popc x0 x1 x2) := by
  intro _ _ _ _ h
  cases h
  exact pack_lt_of _ (Nat.le_of_ble_eq_true rfl)

theorem mov : ∀ x0 x1 x2, Statement (.mov x0 x1 x2) := by
  intro _ _ _ _ h
  cases h
  exact pack_lt_of _ (Nat.le_of_ble_eq_true rfl)

theorem sext : ∀ x0 x1 x2 x3, Statement (.sext x0 x1 x2 x3) := by
  intro _ _ _ _ _ h
  cases h
  exact pack_lt_of _ (Nat.le_of_ble_eq_true rfl)

theorem zext : ∀ x0 x1 x2 x3, Statement (.zext x0 x1 x2 x3) := by
  intro _ _ _ _ _ h
  cases h
  exact pack_lt_of _ (Nat.le_of_ble_eq_true rfl)

theorem lea : ∀ x0 x1 x2 x3 x4 x5, Statement (.lea x0 x1 x2 x3 x4 x5) := by
  intro _ _ _ _ _ _ _ h
  cases h
  exact pack_lt_of _ (Nat.le_of_ble_eq_true rfl)

theorem lit : ∀ x0 x1 x2 x3, Statement (.lit x0 x1 x2 x3) := by
  intro _ _ _ _ _ h
  cases h
  exact pack_lt_of _ (Nat.le_of_ble_eq_true rfl)

theorem cmp : ∀ x0 x1 x2 x3 x4 x5, Statement (.cmp x0 x1 x2 x3 x4 x5) := by
  intro _ _ _ _ _ _ _ h
  cases h
  exact pack_lt_of _ (Nat.le_of_ble_eq_true rfl)

theorem cmpLit : ∀ x0 x1 x2 x3 x4 x5 x6, Statement (.cmpLit x0 x1 x2 x3 x4 x5 x6) := by
  intro _ _ _ _ _ _ _ _ h
  cases h
  exact pack_lt_of _ (Nat.le_of_ble_eq_true rfl)

theorem pand : ∀ x0 x1 x2 x3, Statement (.pand x0 x1 x2 x3) := by
  intro _ _ _ _ _ h
  cases h
  exact pack_lt_of _ (Nat.le_of_ble_eq_true rfl)

theorem por : ∀ x0 x1 x2 x3, Statement (.por x0 x1 x2 x3) := by
  intro _ _ _ _ _ h
  cases h
  exact pack_lt_of _ (Nat.le_of_ble_eq_true rfl)

theorem pxor : ∀ x0 x1 x2 x3, Statement (.pxor x0 x1 x2 x3) := by
  intro _ _ _ _ _ h
  cases h
  exact pack_lt_of _ (Nat.le_of_ble_eq_true rfl)

theorem pandn : ∀ x0 x1 x2 x3, Statement (.pandn x0 x1 x2 x3) := by
  intro _ _ _ _ _ h
  cases h
  exact pack_lt_of _ (Nat.le_of_ble_eq_true rfl)

theorem pfroms : ∀ x0 x1 x2, Statement (.pfroms x0 x1 x2) := by
  intro _ _ _ _ h
  cases h
  exact pack_lt_of _ (Nat.le_of_ble_eq_true rfl)

theorem ptos : ∀ x0 x1 x2, Statement (.ptos x0 x1 x2) := by
  intro _ _ _ _ h
  cases h
  exact pack_lt_of _ (Nat.le_of_ble_eq_true rfl)

theorem pcnt : ∀ x0 x1 x2, Statement (.pcnt x0 x1 x2) := by
  intro _ _ _ _ h
  cases h
  exact pack_lt_of _ (Nat.le_of_ble_eq_true rfl)

theorem pfirst : ∀ x0 x1 x2, Statement (.pfirst x0 x1 x2) := by
  intro _ _ _ _ h
  cases h
  exact pack_lt_of _ (Nat.le_of_ble_eq_true rfl)

theorem br : ∀ x0 x1, Statement (.br x0 x1) := by
  intro _ _ _ h
  cases h
  exact pack_lt_of _ (Nat.le_of_ble_eq_true rfl)

theorem bri : ∀ x0 x1, Statement (.bri x0 x1) := by
  intro _ _ _ h
  cases h
  exact pack_lt_of _ (Nat.le_of_ble_eq_true rfl)

theorem call : ∀ x0 x1, Statement (.call x0 x1) := by
  intro _ _ _ h
  cases h
  exact pack_lt_of _ (Nat.le_of_ble_eq_true rfl)

theorem calli : ∀ x0 x1 x2, Statement (.calli x0 x1 x2) := by
  intro _ _ _ _ h
  cases h
  exact pack_lt_of _ (Nat.le_of_ble_eq_true rfl)

theorem ret : ∀ x0 x1, Statement (.ret x0 x1) := by
  intro _ _ _ h
  cases h
  exact pack_lt_of _ (Nat.le_of_ble_eq_true rfl)

theorem loop : ∀ x0 x1 x2 x3, Statement (.loop x0 x1 x2 x3) := by
  intro _ _ _ _ _ h
  cases h
  exact pack_lt_of _ (Nat.le_of_ble_eq_true rfl)

theorem loopx : ∀ x0 x1, Statement (.loopx x0 x1) := by
  intro _ _ _ h
  cases h
  exact pack_lt_of _ (Nat.le_of_ble_eq_true rfl)

theorem mfsr : ∀ x0 x1 x2, Statement (.mfsr x0 x1 x2) := by
  intro _ _ _ _ h
  cases h
  exact pack_lt_of _ (Nat.le_of_ble_eq_true rfl)

theorem mtsr : ∀ x0 x1 x2, Statement (.mtsr x0 x1 x2) := by
  intro _ _ _ _ h
  cases h
  exact pack_lt_of _ (Nat.le_of_ble_eq_true rfl)

theorem pswWrite : ∀ x0 x1, Statement (.pswWrite x0 x1) := by
  intro _ _ _ h
  cases h
  exact pack_lt_of _ (Nat.le_of_ble_eq_true rfl)

theorem promoteWrite : ∀ x0 x1, Statement (.promoteWrite x0 x1) := by
  intro _ _ _ h
  cases h
  exact pack_lt_of _ (Nat.le_of_ble_eq_true rfl)

theorem droopthWrite : ∀ x0 x1, Statement (.droopthWrite x0 x1) := by
  intro _ _ _ h
  cases h
  exact pack_lt_of _ (Nat.le_of_ble_eq_true rfl)

theorem droopstWrite : ∀ x0 x1, Statement (.droopstWrite x0 x1) := by
  intro _ _ _ h
  cases h
  exact pack_lt_of _ (Nat.le_of_ble_eq_true rfl)

theorem barvalWrite : ∀ x0 x1, Statement (.barvalWrite x0 x1) := by
  intro _ _ _ h
  cases h
  exact pack_lt_of _ (Nat.le_of_ble_eq_true rfl)

theorem trap : ∀ x0 x1, Statement (.trap x0 x1) := by
  intro _ _ _ h
  cases h
  exact pack_lt_of _ (Nat.le_of_ble_eq_true rfl)

theorem dhop : ∀ x0 x1 x2 x3, Statement (.dhop x0 x1 x2 x3) := by
  intro _ _ _ _ _ h
  cases h
  exact pack_lt_of _ (Nat.le_of_ble_eq_true rfl)

theorem vadd : ∀ x0 x1, Statement (.vadd x0 x1) := by
  intro _ _ _ h
  cases h
  exact encBin_lt _ _ _

theorem vsub : ∀ x0 x1, Statement (.vsub x0 x1) := by
  intro _ _ _ h
  cases h
  exact encBin_lt _ _ _

theorem vmul : ∀ x0 x1, Statement (.vmul x0 x1) := by
  intro _ _ _ h
  cases h
  exact encBin_lt _ _ _

theorem vfma : ∀ x0 x1, Statement (.vfma x0 x1) := by
  intro _ _ _ h
  cases h
  exact encBin_lt _ _ _

theorem vfms : ∀ x0 x1, Statement (.vfms x0 x1) := by
  intro _ _ _ h
  cases h
  exact encBin_lt _ _ _

theorem vfnma : ∀ x0 x1, Statement (.vfnma x0 x1) := by
  intro _ _ _ h
  cases h
  exact encBin_lt _ _ _

theorem vmin : ∀ x0 x1, Statement (.vmin x0 x1) := by
  intro _ _ _ h
  cases h
  exact encBin_lt _ _ _

theorem vmax : ∀ x0 x1, Statement (.vmax x0 x1) := by
  intro _ _ _ h
  cases h
  exact encBin_lt _ _ _

theorem vabs : ∀ x0 x1, Statement (.vabs x0 x1) := by
  intro _ _ _ h
  cases h
  exact encUn_lt _ _ _ _

theorem vneg : ∀ x0 x1, Statement (.vneg x0 x1) := by
  intro _ _ _ h
  cases h
  exact encUn_lt _ _ _ _

theorem vcpys : ∀ x0 x1, Statement (.vcpys x0 x1) := by
  intro _ _ _ h
  cases h
  exact encBin_lt _ _ _

theorem vclamp : ∀ x0 x1, Statement (.vclamp x0 x1) := by
  intro _ _ _ h
  cases h
  exact encBin_lt _ _ _

theorem vrnd : ∀ x0 x1, Statement (.vrnd x0 x1) := by
  intro _ _ _ h
  cases h
  exact encUn_lt _ _ _ _

theorem vsqrt : ∀ x0, Statement (.vsqrt x0) := by
  intro _ _ h
  cases h
  exact encUn_lt _ _ _ _

theorem vrcp : ∀ x0, Statement (.vrcp x0) := by
  intro _ _ h
  cases h
  exact encUn_lt _ _ _ _

theorem vrsq : ∀ x0, Statement (.vrsq x0) := by
  intro _ _ h
  cases h
  exact encUn_lt _ _ _ _

theorem vexp2 : ∀ x0, Statement (.vexp2 x0) := by
  intro _ _ h
  cases h
  exact encUn_lt _ _ _ _

theorem vlog2 : ∀ x0, Statement (.vlog2 x0) := by
  intro _ _ h
  cases h
  exact encUn_lt _ _ _ _

theorem vsig : ∀ x0, Statement (.vsig x0) := by
  intro _ _ h
  cases h
  exact encUn_lt _ _ _ _

theorem vtanh : ∀ x0, Statement (.vtanh x0) := by
  intro _ _ h
  cases h
  exact encUn_lt _ _ _ _

theorem viadd : ∀ x0 x1, Statement (.viadd x0 x1) := by
  intro _ _ _ h
  cases h
  exact encBin_lt _ _ _

theorem visub : ∀ x0 x1, Statement (.visub x0 x1) := by
  intro _ _ _ h
  cases h
  exact encBin_lt _ _ _

theorem vimul : ∀ x0 x1, Statement (.vimul x0 x1) := by
  intro _ _ _ h
  cases h
  exact encBin_lt _ _ _

theorem vimulh : ∀ x0 x1, Statement (.vimulh x0 x1) := by
  intro _ _ _ h
  cases h
  exact encBin_lt _ _ _

theorem vimad : ∀ x0 x1, Statement (.vimad x0 x1) := by
  intro _ _ _ h
  cases h
  exact encBin_lt _ _ _

theorem vimin : ∀ x0 x1, Statement (.vimin x0 x1) := by
  intro _ _ _ h
  cases h
  exact encBin_lt _ _ _

theorem vimax : ∀ x0 x1, Statement (.vimax x0 x1) := by
  intro _ _ _ h
  cases h
  exact encBin_lt _ _ _

theorem viabs : ∀ x0 x1, Statement (.viabs x0 x1) := by
  intro _ _ _ h
  cases h
  exact encUn_lt _ _ _ _

theorem vshl : ∀ x0 x1, Statement (.vshl x0 x1) := by
  intro _ _ _ h
  cases h
  exact encBin_lt _ _ _

theorem vshr : ∀ x0 x1, Statement (.vshr x0 x1) := by
  intro _ _ _ h
  cases h
  exact encBin_lt _ _ _

theorem vsra : ∀ x0 x1, Statement (.vsra x0 x1) := by
  intro _ _ _ h
  cases h
  exact encBin_lt _ _ _

theorem vand : ∀ x0, Statement (.vand x0) := by
  intro _ _ h
  cases h
  exact encBin_lt _ _ _

theorem vor : ∀ x0, Statement (.vor x0) := by
  intro _ _ h
  cases h
  exact encBin_lt _ _ _

theorem vxor : ∀ x0, Statement (.vxor x0) := by
  intro _ _ h
  cases h
  exact encBin_lt _ _ _

theorem vcmp : ∀ x0 x1 x2, Statement (.vcmp x0 x1 x2) := by
  intro _ _ _ _ h
  cases h
  exact encCm_lt _ _ _

theorem vicmp : ∀ x0 x1 x2, Statement (.vicmp x0 x1 x2) := by
  intro _ _ _ _ h
  cases h
  exact encCm_lt _ _ _

theorem vsel : ∀ x0, Statement (.vsel x0) := by
  intro _ _ h
  cases h
  exact encBin_lt _ _ _

theorem vcvt : ∀ x0 x1 x2, Statement (.vcvt x0 x1 x2) := by
  intro _ _ _ _ h
  cases h
  exact encUn_lt _ _ _ _

theorem vpkbx : ∀ x0 x1, Statement (.vpkbx x0 x1) := by
  intro _ _ _ h
  cases h
  exact encUn_lt _ _ _ _

theorem vupbx : ∀ x0 x1, Statement (.vupbx x0 x1) := by
  intro _ _ _ h
  cases h
  exact encUn_lt _ _ _ _

theorem vredAdd : ∀ x0 x1, Statement (.vredAdd x0 x1) := by
  intro _ _ _ h
  cases h
  exact encUn_lt _ _ _ _

theorem vredMin : ∀ x0 x1, Statement (.vredMin x0 x1) := by
  intro _ _ _ h
  cases h
  exact encUn_lt _ _ _ _

theorem vredMax : ∀ x0 x1, Statement (.vredMax x0 x1) := by
  intro _ _ _ h
  cases h
  exact encUn_lt _ _ _ _

theorem vperm : ∀ x0, Statement (.vperm x0) := by
  intro _ _ h
  cases h
  exact encBin_lt _ _ _

theorem vbcast : ∀ x0 x1, Statement (.vbcast x0 x1) := by
  intro _ _ _ h
  cases h
  exact encUn_lt _ _ _ _

theorem vslide : ∀ x0 x1, Statement (.vslide x0 x1) := by
  intro _ _ _ h
  cases h
  exact encUn_lt _ _ _ _

theorem vmovs : ∀ x0 x1 x2 x3, Statement (.vmovs x0 x1 x2 x3) := by
  intro _ _ _ _ _ h
  cases h
  exact encV_lt ..

theorem vext : ∀ x0 x1 x2 x3, Statement (.vext x0 x1 x2 x3) := by
  intro _ _ _ _ _ h
  cases h
  exact encV_lt ..

theorem vmov : ∀ x0, Statement (.vmov x0) := by
  intro _ _ h
  cases h
  exact encUn_lt _ _ _ _

theorem vlit : ∀ x0 x1 x2, Statement (.vlit x0 x1 x2) := by
  intro _ _ _ _ h
  cases h
  exact encV_lt ..

theorem vrdacc : ∀ x0 x1 x2 x3, Statement (.vrdacc x0 x1 x2 x3) := by
  intro _ _ _ _ _ h
  cases h
  exact encV_lt ..

theorem vwracc : ∀ x0 x1 x2 x3, Statement (.vwracc x0 x1 x2 x3) := by
  intro _ _ _ _ _ h
  cases h
  exact encV_lt ..

theorem vpop : ∀ x0 x1 x2, Statement (.vpop x0 x1 x2) := by
  intro _ _ _ _ h
  cases h
  exact encV_lt ..

theorem mma : ∀ x0 x1 x2 x3 x4 x5, Statement (.mma x0 x1 x2 x3 x4 x5) := by
  intro _ _ _ _ _ _ _ h
  cases h
  exact pack_lt_of _ (Nat.le_of_ble_eq_true rfl)

theorem mmaz : ∀ x0 x1 x2 x3 x4 x5, Statement (.mmaz x0 x1 x2 x3 x4 x5) := by
  intro _ _ _ _ _ _ _ h
  cases h
  exact pack_lt_of _ (Nat.le_of_ble_eq_true rfl)

theorem rmin : ∀ x0 x1 x2 x3, Statement (.rmin x0 x1 x2 x3) := by
  intro _ _ _ _ _ h
  cases h
  exact pack_lt_of _ (Nat.le_of_ble_eq_true rfl)

theorem rmax : ∀ x0 x1 x2 x3, Statement (.rmax x0 x1 x2 x3) := by
  intro _ _ _ _ _ h
  cases h
  exact pack_lt_of _ (Nat.le_of_ble_eq_true rfl)

theorem rsort : ∀ x0 x1 x2 x3, Statement (.rsort x0 x1 x2 x3) := by
  intro _ _ _ _ _ h
  cases h
  exact pack_lt_of _ (Nat.le_of_ble_eq_true rfl)

theorem rtopk : ∀ x0 x1 x2 x3 x4, Statement (.rtopk x0 x1 x2 x3 x4) := by
  intro _ _ _ _ _ _ h
  cases h
  exact pack_lt_of _ (Nat.le_of_ble_eq_true rfl)

theorem wload : ∀ x0 x1 x2, Statement (.wload x0 x1 x2) := by
  intro _ _ _ _ h
  cases h
  exact pack_lt_of _ (Nat.le_of_ble_eq_true rfl)

theorem wswap : ∀ x0 x1, Statement (.wswap x0 x1) := by
  intro _ _ _ h
  cases h
  exact pack_lt_of _ (Nat.le_of_ble_eq_true rfl)

theorem tepi : ∀ x0 x1 x2 x3 x4 x5 x6 x7, Statement (.tepi x0 x1 x2 x3 x4 x5 x6 x7) := by
  intro _ _ _ _ _ _ _ _ _ h
  cases h
  exact pack_lt_of _ (Nat.le_of_ble_eq_true rfl)

theorem tew : ∀ x0 x1 x2 x3 x4 x5, Statement (.tew x0 x1 x2 x3 x4 x5) := by
  intro _ _ _ _ _ _ _ h
  cases h
  exact pack_lt_of _ (Nat.le_of_ble_eq_true rfl)

theorem tdrain : ∀ x0 x1 x2 x3 x4 x5, Statement (.tdrain x0 x1 x2 x3 x4 x5) := by
  intro _ _ _ _ _ _ _ h
  cases h
  exact pack_lt_of _ (Nat.le_of_ble_eq_true rfl)

theorem force : ∀ x0 x1 x2 x3, Statement (.force x0 x1 x2 x3) := by
  intro _ _ _ _ _ h
  cases h
  exact pack_lt_of _ (Nat.le_of_ble_eq_true rfl)

theorem tstore : ∀ x0 x1 x2 x3 x4 x5 x6 x7, Statement (.tstore x0 x1 x2 x3 x4 x5 x6 x7) := by
  intro _ _ _ _ _ _ _ _ _ h
  cases h
  exact pack_lt_of _ (Nat.le_of_ble_eq_true rfl)

theorem tdrop : ∀ x0 x1 x2, Statement (.tdrop x0 x1 x2) := by
  intro _ _ _ _ h
  cases h
  exact pack_lt_of _ (Nat.le_of_ble_eq_true rfl)

theorem tdld : ∀ x0 x1 x2 x3, Statement (.tdld x0 x1 x2 x3) := by
  intro _ _ _ _ _ h
  cases h
  exact pack_lt_of _ (Nat.le_of_ble_eq_true rfl)

theorem acz : ∀ x0 x1, Statement (.acz x0 x1) := by
  intro _ _ _ h
  cases h
  exact pack_lt_of _ (Nat.le_of_ble_eq_true rfl)

theorem scribe : ∀ x0, Statement (.scribe x0) := by
  intro _ _ h
  cases h
  exact pack_lt_of _ (Nat.le_of_ble_eq_true rfl)

theorem ldB : ∀ x0, Statement (.ldB x0) := by
  intro _ _ h
  cases h
  exact pack_lt_of _ (Nat.le_of_ble_eq_true rfl)

theorem ldBu : ∀ x0, Statement (.ldBu x0) := by
  intro _ _ h
  cases h
  exact pack_lt_of _ (Nat.le_of_ble_eq_true rfl)

theorem ldH : ∀ x0, Statement (.ldH x0) := by
  intro _ _ h
  cases h
  exact pack_lt_of _ (Nat.le_of_ble_eq_true rfl)

theorem ldHu : ∀ x0, Statement (.ldHu x0) := by
  intro _ _ h
  cases h
  exact pack_lt_of _ (Nat.le_of_ble_eq_true rfl)

theorem ldW : ∀ x0, Statement (.ldW x0) := by
  intro _ _ h
  cases h
  exact pack_lt_of _ (Nat.le_of_ble_eq_true rfl)

theorem ldWu : ∀ x0, Statement (.ldWu x0) := by
  intro _ _ h
  cases h
  exact pack_lt_of _ (Nat.le_of_ble_eq_true rfl)

theorem ldD : ∀ x0, Statement (.ldD x0) := by
  intro _ _ h
  cases h
  exact pack_lt_of _ (Nat.le_of_ble_eq_true rfl)

theorem vld : ∀ x0, Statement (.vld x0) := by
  intro _ _ h
  cases h
  exact pack_lt_of _ (Nat.le_of_ble_eq_true rfl)

theorem vldb : ∀ x0, Statement (.vldb x0) := by
  intro _ _ h
  cases h
  exact pack_lt_of _ (Nat.le_of_ble_eq_true rfl)

theorem vgath : ∀ x0, Statement (.vgath x0) := by
  intro _ _ h
  cases h
  exact pack_lt_of _ (Nat.le_of_ble_eq_true rfl)

theorem ldlW : ∀ x0, Statement (.ldlW x0) := by
  intro _ _ h
  cases h
  exact pack_lt_of _ (Nat.le_of_ble_eq_true rfl)

theorem ldlD : ∀ x0, Statement (.ldlD x0) := by
  intro _ _ h
  cases h
  exact pack_lt_of _ (Nat.le_of_ble_eq_true rfl)

theorem ldacqW : ∀ x0, Statement (.ldacqW x0) := by
  intro _ _ h
  cases h
  exact pack_lt_of _ (Nat.le_of_ble_eq_true rfl)

theorem ldacqD : ∀ x0, Statement (.ldacqD x0) := by
  intro _ _ h
  cases h
  exact pack_lt_of _ (Nat.le_of_ble_eq_true rfl)

theorem pld : ∀ x0, Statement (.pld x0) := by
  intro _ _ h
  cases h
  exact pack_lt_of _ (Nat.le_of_ble_eq_true rfl)

theorem stB : ∀ x0, Statement (.stB x0) := by
  intro _ _ h
  cases h
  exact pack_lt_of _ (Nat.le_of_ble_eq_true rfl)

theorem stH : ∀ x0, Statement (.stH x0) := by
  intro _ _ h
  cases h
  exact pack_lt_of _ (Nat.le_of_ble_eq_true rfl)

theorem stW : ∀ x0, Statement (.stW x0) := by
  intro _ _ h
  cases h
  exact pack_lt_of _ (Nat.le_of_ble_eq_true rfl)

theorem stD : ∀ x0, Statement (.stD x0) := by
  intro _ _ h
  cases h
  exact pack_lt_of _ (Nat.le_of_ble_eq_true rfl)

theorem vst : ∀ x0, Statement (.vst x0) := by
  intro _ _ h
  cases h
  exact pack_lt_of _ (Nat.le_of_ble_eq_true rfl)

theorem vscat : ∀ x0, Statement (.vscat x0) := by
  intro _ _ h
  cases h
  exact pack_lt_of _ (Nat.le_of_ble_eq_true rfl)

theorem stuW : ∀ x0, Statement (.stuW x0) := by
  intro _ _ h
  cases h
  exact pack_lt_of _ (Nat.le_of_ble_eq_true rfl)

theorem stuD : ∀ x0, Statement (.stuD x0) := by
  intro _ _ h
  cases h
  exact pack_lt_of _ (Nat.le_of_ble_eq_true rfl)

theorem strelW : ∀ x0, Statement (.strelW x0) := by
  intro _ _ h
  cases h
  exact pack_lt_of _ (Nat.le_of_ble_eq_true rfl)

theorem strelD : ∀ x0, Statement (.strelD x0) := by
  intro _ _ h
  cases h
  exact pack_lt_of _ (Nat.le_of_ble_eq_true rfl)

theorem aaddW : ∀ x0, Statement (.aaddW x0) := by
  intro _ _ h
  cases h
  exact pack_lt_of _ (Nat.le_of_ble_eq_true rfl)

theorem aaddD : ∀ x0, Statement (.aaddD x0) := by
  intro _ _ h
  cases h
  exact pack_lt_of _ (Nat.le_of_ble_eq_true rfl)

theorem aminW : ∀ x0, Statement (.aminW x0) := by
  intro _ _ h
  cases h
  exact pack_lt_of _ (Nat.le_of_ble_eq_true rfl)

theorem aminD : ∀ x0, Statement (.aminD x0) := by
  intro _ _ h
  cases h
  exact pack_lt_of _ (Nat.le_of_ble_eq_true rfl)

theorem amaxW : ∀ x0, Statement (.amaxW x0) := by
  intro _ _ h
  cases h
  exact pack_lt_of _ (Nat.le_of_ble_eq_true rfl)

theorem amaxD : ∀ x0, Statement (.amaxD x0) := by
  intro _ _ h
  cases h
  exact pack_lt_of _ (Nat.le_of_ble_eq_true rfl)

theorem axchW : ∀ x0, Statement (.axchW x0) := by
  intro _ _ h
  cases h
  exact pack_lt_of _ (Nat.le_of_ble_eq_true rfl)

theorem axchD : ∀ x0, Statement (.axchD x0) := by
  intro _ _ h
  cases h
  exact pack_lt_of _ (Nat.le_of_ble_eq_true rfl)

theorem acasW : ∀ x0, Statement (.acasW x0) := by
  intro _ _ h
  cases h
  exact pack_lt_of _ (Nat.le_of_ble_eq_true rfl)

theorem acasD : ∀ x0, Statement (.acasD x0) := by
  intro _ _ h
  cases h
  exact pack_lt_of _ (Nat.le_of_ble_eq_true rfl)

theorem stq : ∀ x0, Statement (.stq x0) := by
  intro _ _ h
  cases h
  exact pack_lt_of _ (Nat.le_of_ble_eq_true rfl)

theorem pst : ∀ x0, Statement (.pst x0) := by
  intro _ _ h
  cases h
  exact pack_lt_of _ (Nat.le_of_ble_eq_true rfl)

theorem cpy : ∀ x0, Statement (.cpy x0) := by
  intro _ _ h
  cases h
  exact pack_lt_of _ (Nat.le_of_ble_eq_true rfl)

theorem cpyil : ∀ x0, Statement (.cpyil x0) := by
  intro _ _ h
  cases h
  exact pack_lt_of _ (Nat.le_of_ble_eq_true rfl)

theorem cgath : ∀ x0, Statement (.cgath x0) := by
  intro _ _ h
  cases h
  exact pack_lt_of _ (Nat.le_of_ble_eq_true rfl)

theorem tmv : ∀ x0, Statement (.tmv x0) := by
  intro _ _ h
  cases h
  exact pack_lt_of _ (Nat.le_of_ble_eq_true rfl)

theorem ccoll : ∀ x0, Statement (.ccoll x0) := by
  intro _ _ h
  cases h
  exact pack_lt_of _ (Nat.le_of_ble_eq_true rfl)

theorem cflush : ∀ x0, Statement (.cflush x0) := by
  intro _ _ h
  cases h
  exact pack_lt_of _ (Nat.le_of_ble_eq_true rfl)

theorem cpq : ∀ x0, Statement (.cpq x0) := by
  intro _ _ h
  cases h
  exact pack_lt_of _ (Nat.le_of_ble_eq_true rfl)

theorem cpre : ∀ x0, Statement (.cpre x0) := by
  intro _ _ h
  cases h
  exact pack_lt_of _ (Nat.le_of_ble_eq_true rfl)

theorem wait : ∀ x0 x1 x2 x3 x4, Statement (.wait x0 x1 x2 x3 x4) := by
  intro _ _ _ _ _ _ h
  cases h
  exact pack_lt_of _ (Nat.le_of_ble_eq_true rfl)

theorem waitk : ∀ x0 x1, Statement (.waitk x0 x1) := by
  intro _ _ _ h
  cases h
  exact pack_lt_of _ (Nat.le_of_ble_eq_true rfl)

theorem waitdc : ∀ x0 x1 x2, Statement (.waitdc x0 x1 x2) := by
  intro _ _ _ _ h
  cases h
  exact pack_lt_of _ (Nat.le_of_ble_eq_true rfl)

theorem drain : ∀ x0 x1, Statement (.drain x0 x1) := by
  intro _ _ _ h
  cases h
  exact pack_lt_of _ (Nat.le_of_ble_eq_true rfl)

theorem bara : ∀ x0 x1, Statement (.bara x0 x1) := by
  intro _ _ _ h
  cases h
  exact pack_lt_of _ (Nat.le_of_ble_eq_true rfl)

theorem barw : ∀ x0 x1, Statement (.barw x0 x1) := by
  intro _ _ _ h
  cases h
  exact pack_lt_of _ (Nat.le_of_ble_eq_true rfl)

theorem bart : ∀ x0 x1 x2, Statement (.bart x0 x1 x2) := by
  intro _ _ _ _ h
  cases h
  exact pack_lt_of _ (Nat.le_of_ble_eq_true rfl)

theorem snap : ∀ x0 x1, Statement (.snap x0 x1) := by
  intro _ _ _ h
  cases h
  exact pack_lt_of _ (Nat.le_of_ble_eq_true rfl)

theorem gview : ∀ x0 x1 x2, Statement (.gview x0 x1 x2) := by
  intro _ _ _ _ h
  cases h
  exact pack_lt_of _ (Nat.le_of_ble_eq_true rfl)

theorem spawn : ∀ x0 x1 x2 x3, Statement (.spawn x0 x1 x2 x3) := by
  intro _ _ _ _ _ h
  cases h
  exact pack_lt_of _ (Nat.le_of_ble_eq_true rfl)

theorem grow : ∀ x0 x1 x2, Statement (.grow x0 x1 x2) := by
  intro _ _ _ _ h
  cases h
  exact pack_lt_of _ (Nat.le_of_ble_eq_true rfl)

theorem suspend : ∀ x0, Statement (.suspend x0) := by
  intro _ _ h
  cases h
  exact pack_lt_of _ (Nat.le_of_ble_eq_true rfl)

theorem exit : ∀ x0, Statement (.exit x0) := by
  intro _ _ h
  cases h
  exact pack_lt_of _ (Nat.le_of_ble_eq_true rfl)

theorem yield : ∀ x0, Statement (.yield x0) := by
  intro _ _ h
  cases h
  exact pack_lt_of _ (Nat.le_of_ble_eq_true rfl)

theorem qacq : ∀ x0, Statement (.qacq x0) := by
  intro _ _ h
  cases h
  exact pack_lt_of _ (Nat.le_of_ble_eq_true rfl)

theorem qcommit : ∀ x0, Statement (.qcommit x0) := by
  intro _ _ h
  cases h
  exact pack_lt_of _ (Nat.le_of_ble_eq_true rfl)

theorem qpeek : ∀ x0, Statement (.qpeek x0) := by
  intro _ _ h
  cases h
  exact pack_lt_of _ (Nat.le_of_ble_eq_true rfl)

theorem qrel : ∀ x0, Statement (.qrel x0) := by
  intro _ _ h
  cases h
  exact pack_lt_of _ (Nat.le_of_ble_eq_true rfl)

theorem eret : ∀ x0, Statement (.eret x0) := by
  intro _ _ h
  cases h
  exact pack_lt_of _ (Nat.le_of_ble_eq_true rfl)

theorem dcset : ∀ x0 x1 x2, Statement (.dcset x0 x1 x2) := by
  intro _ _ _ _ h
  cases h
  exact pack_lt_of _ (Nat.le_of_ble_eq_true rfl)

theorem timer : ∀ x0 x1 x2 x3, Statement (.timer x0 x1 x2 x3) := by
  intro _ _ _ _ _ h
  cases h
  exact pack_lt_of _ (Nat.le_of_ble_eq_true rfl)

theorem brkpt : ∀ x0, Statement (.brkpt x0) := by
  intro _ _ h
  cases h
  exact pack_lt_of _ (Nat.le_of_ble_eq_true rfl)

theorem dispatchIndex : ∀ x0 x1, Statement (.dispatchIndex x0 x1) := fun _ _ _ h => nomatch h

theorem bind : ∀ x0, Statement (.bind x0) := fun _ _ h => nomatch h

theorem resume : ∀ x0, Statement (.resume x0) := fun _ _ h => nomatch h

theorem dispatcherAccept : ∀ x0 x1, Statement (.dispatcherAccept x0 x1) := fun _ _ _ h => nomatch h

theorem contextUnblock : ∀ x0, Statement (.contextUnblock x0) := fun _ _ h => nomatch h

theorem rendezvous : ∀ x0, Statement (.rendezvous x0) := fun _ _ h => nomatch h

theorem prefetchBlock : ∀ x0, Statement (.prefetchBlock x0) := fun _ _ h => nomatch h

theorem fetchRedirect : ∀ x0, Statement (.fetchRedirect x0) := fun _ _ h => nomatch h

theorem engineAccept : ∀ x0 x1, Statement (.engineAccept x0 x1) := fun _ _ _ h => nomatch h

theorem resultLands : ∀ x0, Statement (.resultLands x0) := fun _ _ h => nomatch h

theorem loadRetire : ∀ x0, Statement (.loadRetire x0) := fun _ _ h => nomatch h

theorem storePerform : ∀ x0, Statement (.storePerform x0) := fun _ _ h => nomatch h

theorem lockGrant : ∀ x0, Statement (.lockGrant x0) := fun _ _ h => nomatch h

theorem lockTimeout : ∀ x0, Statement (.lockTimeout x0) := fun _ _ h => nomatch h

theorem ldlGrantTimeout : ∀ x0, Statement (.ldlGrantTimeout x0) := fun _ _ h => nomatch h

theorem stepTrap : ∀ x0, Statement (.stepTrap x0) := fun _ _ h => nomatch h

theorem preemptSave : ∀ x0, Statement (.preemptSave x0) := fun _ _ h => nomatch h

theorem copyStart : ∀ x0, Statement (.copyStart x0) := fun _ _ h => nomatch h

theorem copyPiece : ∀ x0 x1 x2, Statement (.copyPiece x0 x1 x2) := fun _ _ _ _ h => nomatch h

theorem copyComplete : ∀ x0, Statement (.copyComplete x0) := fun _ _ h => nomatch h

theorem landingRelease : ∀ x0, Statement (.landingRelease x0) := fun _ _ h => nomatch h

theorem kerfPass : ∀ x0 x1, Statement (.kerfPass x0 x1) := fun _ _ _ h => nomatch h

theorem racePass : ∀ x0 x1, Statement (.racePass x0 x1) := fun _ _ _ h => nomatch h

theorem nodeRun : ∀ x0, Statement (.nodeRun x0) := fun _ _ h => nomatch h

theorem nodeRetire : ∀ x0, Statement (.nodeRetire x0) := fun _ _ h => nomatch h

theorem scribeComplete : ∀ x0 x1 x2 x3, Statement (.scribeComplete x0 x1 x2 x3) := fun _ _ _ _ _ h => nomatch h

theorem timerExpiry : ∀ x0 x1, Statement (.timerExpiry x0 x1) := fun _ _ _ h => nomatch h

theorem cutDone : ∀ x0, Statement (.cutDone x0) := fun _ _ h => nomatch h

theorem heldWriteRelease : ∀ x0, Statement (.heldWriteRelease x0) := fun _ _ h => nomatch h

theorem scarfDrain : ∀ x0, Statement (.scarfDrain x0) := fun _ _ h => nomatch h

theorem overflowRefill : ∀ x0, Statement (.overflowRefill x0) := fun _ _ h => nomatch h

theorem arithmeticClockCycle : ∀ x0, Statement (.arithmeticClockCycle x0) := fun _ _ h => nomatch h

theorem dispatchGang : ∀ x0 x1, Statement (.dispatchGang x0 x1) := fun _ _ _ h => nomatch h

theorem coldReset : ∀ x0 x1, Statement (.coldReset x0 x1) := fun _ _ _ h => nomatch h

theorem warmReset : ∀ x0, Statement (.warmReset x0) := fun _ _ h => nomatch h

theorem launchGrid : ∀ x0 x1 x2 x3, Statement (.launchGrid x0 x1 x2 x3) := fun _ _ _ _ _ h => nomatch h

theorem dropSnapshot : ∀ x0 x1, Statement (.dropSnapshot x0 x1) := fun _ _ _ h => nomatch h

theorem ueccConsumed : ∀ x0, Statement (.ueccConsumed x0) := fun _ _ h => nomatch h

theorem sigmis : ∀ x0, Statement (.sigmis x0) := fun _ _ h => nomatch h

theorem preemptRequest : ∀ x0 x1, Statement (.preemptRequest x0 x1) := fun _ _ _ h => nomatch h

theorem preemptBoundExpiry : ∀ x0, Statement (.preemptBoundExpiry x0) := fun _ _ h => nomatch h

theorem kerfFirmwareWrite : ∀ x0 x1 x2, Statement (.kerfFirmwareWrite x0 x1 x2) := fun _ _ _ _ h => nomatch h

theorem droopAlarm : ∀ x0 x1, Statement (.droopAlarm x0 x1) := fun _ _ _ h => nomatch h

theorem powerGrant : ∀ x0, Statement (.powerGrant x0) := fun _ _ h => nomatch h

theorem genfull : ∀ x0, Statement (.genfull x0) := fun _ _ h => nomatch h

theorem spillfull : ∀ x0 x1, Statement (.spillfull x0 x1) := fun _ _ _ h => nomatch h

theorem pageMigration : ∀ x0 x1 x2 x3 x4, Statement (.pageMigration x0 x1 x2 x3 x4) := fun _ _ _ _ _ _ h => nomatch h

theorem hostWrite : ∀ x0 x1 x2 x3, Statement (.hostWrite x0 x1 x2 x3) := fun _ _ _ _ _ h => nomatch h

theorem creditReturn : ∀ x0 x1 x2, Statement (.creditReturn x0 x1 x2) := fun _ _ _ _ h => nomatch h

theorem creditAudit : ∀ x0 x1 x2, Statement (.creditAudit x0 x1 x2) := fun _ _ _ _ h => nomatch h

theorem selectiveRepeat : ∀ x0 x1, Statement (.selectiveRepeat x0 x1) := fun _ _ _ h => nomatch h

theorem linkRetrain : ∀ x0 x1, Statement (.linkRetrain x0 x1) := fun _ _ _ h => nomatch h

theorem linkDown : ∀ x0, Statement (.linkDown x0) := fun _ _ h => nomatch h

theorem hostPortReset : ∀ x0, Statement (.hostPortReset x0) := fun _ _ h => nomatch h

theorem hostLinkUp : ∀ x0, Statement (.hostLinkUp x0) := fun _ _ h => nomatch h

theorem attestationReport : ∀ x0, Statement (.attestationReport x0) := fun _ _ h => nomatch h

theorem mailboxIgnored : ∀ x0, Statement (.mailboxIgnored x0) := fun _ _ h => nomatch h

theorem ageoscRefresh : ∀ x0 x1 x2, Statement (.ageoscRefresh x0 x1 x2) := fun _ _ _ _ h => nomatch h

theorem pageAllocation : ∀ x0 x1 x2 x3 x4 x5 x6 x7 x8 x9, Statement (.pageAllocation x0 x1 x2 x3 x4 x5 x6 x7 x8 x9) := fun _ _ _ _ _ _ _ _ _ _ _ h => nomatch h

theorem cxlPortLinkDown : ∀ x0 x1, Statement (.cxlPortLinkDown x0 x1) := fun _ _ _ h => nomatch h

theorem collectiveStep : ∀ x0 x1 x2, Statement (.collectiveStep x0 x1 x2) := fun _ _ _ _ h => nomatch h

theorem cut : Statement (.cut) := fun _ h => nomatch h

theorem open_ : Statement (.open_) := fun _ h => nomatch h

theorem writeCompletion : Statement (.writeCompletion) := fun _ h => nomatch h

theorem packageTimebaseTick : Statement (.packageTimebaseTick) := fun _ h => nomatch h

theorem stretchEnd : ∀ x0, Statement (.stretchEnd x0) := fun _ _ h => nomatch h

theorem halfIssueEnd : ∀ x0, Statement (.halfIssueEnd x0) := fun _ _ h => nomatch h

theorem agingStep : ∀ x0, Statement (.agingStep x0) := fun _ _ h => nomatch h

theorem landingLateFault : ∀ x0, Statement (.landingLateFault x0) := fun _ _ h => nomatch h

end Sys2Proof.Laws.Width
end

