-- ==== Sys2Proof/Laws/State.lean ====
section
/-!
SUPPORT. The parts of the state: reading one after an update of it or of another. One lemma for each field that an update leaves alone.
-/
namespace Sys2Proof.Machine

/-! ### A part after an update of it -/

@[simp] theorem State.ctx_putCtx_self (s : State) (k : Nat) (c : Ctx) : (s.putCtx k c).ctx k = c := by simp [State.ctx, State.putCtx]

theorem State.ctx_putCtx_ne (s : State) {k j : Nat} (c : Ctx) (h : j ≠ k) : (s.putCtx k c).ctx j = s.ctx j := by
  simp [State.ctx, State.putCtx, lookD_put_ne _ _ _ h]

theorem State.ctx_putCtx (s : State) (k j : Nat) (c : Ctx) : (s.putCtx k c).ctx j = if j = k then c else s.ctx j := by
  by_cases h : j = k
  · subst h; simp
  · simp [h, State.ctx_putCtx_ne]

@[simp] theorem State.ctx_modCtx_self (s : State) (k : Nat) (f : Ctx → Ctx) : (s.modCtx k f).ctx k = f (s.ctx k) := by simp [State.modCtx]

theorem State.ctx_modCtx (s : State) (k j : Nat) (f : Ctx → Ctx) : (s.modCtx k f).ctx j = if j = k then f (s.ctx k) else s.ctx j := by
  simp [State.modCtx, State.ctx_putCtx]

theorem State.ctx_modCtx_ne (s : State) {k j : Nat} (f : Ctx → Ctx) (h : j ≠ k) : (s.modCtx k f).ctx j = s.ctx j := by
  simp [State.ctx_modCtx, h]

@[simp] theorem State.putCtx_putCtx (s : State) (k : Nat) (c d : Ctx) : (s.putCtx k c).putCtx k d = s.putCtx k d := by simp [State.putCtx]

theorem State.modCtx_modCtx (s : State) (k : Nat) (f g : Ctx → Ctx) : (s.modCtx k f).modCtx k g = s.modCtx k fun c => g (f c) := by simp [State.modCtx]

@[simp] theorem State.core_putCore_self (s : State) (k : Nat) (c : Core) : (s.putCore k c).core k = c := by simp [State.core, State.putCore]

theorem State.core_putCore_ne (s : State) {k j : Nat} (c : Core) (h : j ≠ k) : (s.putCore k c).core j = s.core j := by
  simp [State.core, State.putCore, lookD_put_ne _ _ _ h]

theorem State.core_putCore (s : State) (k j : Nat) (c : Core) : (s.putCore k c).core j = if j = k then c else s.core j := by
  by_cases h : j = k
  · subst h; simp
  · simp [h, State.core_putCore_ne]

@[simp] theorem State.core_modCore_self (s : State) (k : Nat) (f : Core → Core) : (s.modCore k f).core k = f (s.core k) := by simp [State.modCore]

theorem State.core_modCore (s : State) (k j : Nat) (f : Core → Core) : (s.modCore k f).core j = if j = k then f (s.core k) else s.core j := by
  simp [State.modCore, State.core_putCore]

theorem State.core_modCore_ne (s : State) {k j : Nat} (f : Core → Core) (h : j ≠ k) : (s.modCore k f).core j = s.core j := by
  simp [State.core_modCore, h]

@[simp] theorem State.putCore_putCore (s : State) (k : Nat) (c d : Core) : (s.putCore k c).putCore k d = s.putCore k d := by simp [State.putCore]

theorem State.modCore_modCore (s : State) (k : Nat) (f g : Core → Core) : (s.modCore k f).modCore k g = s.modCore k fun c => g (f c) := by simp [State.modCore]

@[simp] theorem State.cluster_putCluster_self (s : State) (k : Nat) (c : Cluster) : (s.putCluster k c).cluster k = c := by simp [State.cluster, State.putCluster]

theorem State.cluster_putCluster_ne (s : State) {k j : Nat} (c : Cluster) (h : j ≠ k) : (s.putCluster k c).cluster j = s.cluster j := by
  simp [State.cluster, State.putCluster, lookD_put_ne _ _ _ h]

theorem State.cluster_putCluster (s : State) (k j : Nat) (c : Cluster) : (s.putCluster k c).cluster j = if j = k then c else s.cluster j := by
  by_cases h : j = k
  · subst h; simp
  · simp [h, State.cluster_putCluster_ne]

@[simp] theorem State.cluster_modCluster_self (s : State) (k : Nat) (f : Cluster → Cluster) : (s.modCluster k f).cluster k = f (s.cluster k) := by simp [State.modCluster]

theorem State.cluster_modCluster (s : State) (k j : Nat) (f : Cluster → Cluster) : (s.modCluster k f).cluster j = if j = k then f (s.cluster k) else s.cluster j := by
  simp [State.modCluster, State.cluster_putCluster]

theorem State.cluster_modCluster_ne (s : State) {k j : Nat} (f : Cluster → Cluster) (h : j ≠ k) : (s.modCluster k f).cluster j = s.cluster j := by
  simp [State.cluster_modCluster, h]

@[simp] theorem State.putCluster_putCluster (s : State) (k : Nat) (c d : Cluster) : (s.putCluster k c).putCluster k d = s.putCluster k d := by simp [State.putCluster]

theorem State.modCluster_modCluster (s : State) (k : Nat) (f g : Cluster → Cluster) : (s.modCluster k f).modCluster k g = s.modCluster k fun c => g (f c) := by simp [State.modCluster]

@[simp] theorem State.die_modDie_self (s : State) (k : Nat) (f : Die → Die) : (s.modDie k f).die k = f (s.die k) := by simp [State.die, State.modDie]

theorem State.die_modDie_ne (s : State) {k j : Nat} (f : Die → Die) (h : j ≠ k) : (s.modDie k f).die j = s.die j := by
  simp [State.die, State.modDie, lookD_put_ne _ _ _ h]

@[simp] theorem State.port_modPort_self (s : State) (k : Nat) (f : Port → Port) : (s.modPort k f).port k = f (s.port k) := by simp [State.port, State.modPort]

theorem State.port_modPort_ne (s : State) {k j : Nat} (f : Port → Port) (h : j ≠ k) : (s.modPort k f).port j = s.port j := by
  simp [State.port, State.modPort, lookD_put_ne _ _ _ h]

@[simp] theorem State.region_modRegion_self (s : State) (k : Nat) (f : Region → Region) : (s.modRegion k f).region k = f (s.region k) := by simp [State.region, State.modRegion]

theorem State.region_modRegion_ne (s : State) {k j : Nat} (f : Region → Region) (h : j ≠ k) : (s.modRegion k f).region j = s.region j := by
  simp [State.region, State.modRegion, lookD_put_ne _ _ _ h]

@[simp] theorem State.grid_modGrid_self (s : State) (k : Nat) (f : Grid → Grid) : (s.modGrid k f).grid k = f (s.grid k) := by simp [State.grid, State.modGrid]

theorem State.grid_modGrid_ne (s : State) {k j : Nat} (f : Grid → Grid) (h : j ≠ k) : (s.modGrid k f).grid j = s.grid j := by
  simp [State.grid, State.modGrid, lookD_put_ne _ _ _ h]

/-! ### The parts of the state under updates of the others -/

@[simp] theorem State.core_putCtx (s : State) (k : Nat) (c : Ctx) (j : Nat) : (s.putCtx k c).core j = s.core j := rfl
@[simp] theorem State.cluster_putCtx (s : State) (k : Nat) (c : Ctx) (j : Nat) : (s.putCtx k c).cluster j = s.cluster j := rfl
@[simp] theorem State.die_putCtx (s : State) (k : Nat) (c : Ctx) (j : Nat) : (s.putCtx k c).die j = s.die j := rfl
@[simp] theorem State.port_putCtx (s : State) (k : Nat) (c : Ctx) (j : Nat) : (s.putCtx k c).port j = s.port j := rfl
@[simp] theorem State.region_putCtx (s : State) (k : Nat) (c : Ctx) (j : Nat) : (s.putCtx k c).region j = s.region j := rfl
@[simp] theorem State.grid_putCtx (s : State) (k : Nat) (c : Ctx) (j : Nat) : (s.putCtx k c).grid j = s.grid j := rfl

@[simp] theorem State.core_modCtx (s : State) (k : Nat) (f : Ctx → Ctx) (j : Nat) : (s.modCtx k f).core j = s.core j := rfl
@[simp] theorem State.cluster_modCtx (s : State) (k : Nat) (f : Ctx → Ctx) (j : Nat) : (s.modCtx k f).cluster j = s.cluster j := rfl
@[simp] theorem State.die_modCtx (s : State) (k : Nat) (f : Ctx → Ctx) (j : Nat) : (s.modCtx k f).die j = s.die j := rfl
@[simp] theorem State.port_modCtx (s : State) (k : Nat) (f : Ctx → Ctx) (j : Nat) : (s.modCtx k f).port j = s.port j := rfl
@[simp] theorem State.region_modCtx (s : State) (k : Nat) (f : Ctx → Ctx) (j : Nat) : (s.modCtx k f).region j = s.region j := rfl
@[simp] theorem State.grid_modCtx (s : State) (k : Nat) (f : Ctx → Ctx) (j : Nat) : (s.modCtx k f).grid j = s.grid j := rfl

@[simp] theorem State.ctx_putCore (s : State) (k : Nat) (c : Core) (j : Nat) : (s.putCore k c).ctx j = s.ctx j := rfl
@[simp] theorem State.cluster_putCore (s : State) (k : Nat) (c : Core) (j : Nat) : (s.putCore k c).cluster j = s.cluster j := rfl
@[simp] theorem State.die_putCore (s : State) (k : Nat) (c : Core) (j : Nat) : (s.putCore k c).die j = s.die j := rfl
@[simp] theorem State.port_putCore (s : State) (k : Nat) (c : Core) (j : Nat) : (s.putCore k c).port j = s.port j := rfl
@[simp] theorem State.region_putCore (s : State) (k : Nat) (c : Core) (j : Nat) : (s.putCore k c).region j = s.region j := rfl
@[simp] theorem State.grid_putCore (s : State) (k : Nat) (c : Core) (j : Nat) : (s.putCore k c).grid j = s.grid j := rfl

@[simp] theorem State.ctx_modCore (s : State) (k : Nat) (f : Core → Core) (j : Nat) : (s.modCore k f).ctx j = s.ctx j := rfl
@[simp] theorem State.cluster_modCore (s : State) (k : Nat) (f : Core → Core) (j : Nat) : (s.modCore k f).cluster j = s.cluster j := rfl
@[simp] theorem State.die_modCore (s : State) (k : Nat) (f : Core → Core) (j : Nat) : (s.modCore k f).die j = s.die j := rfl
@[simp] theorem State.port_modCore (s : State) (k : Nat) (f : Core → Core) (j : Nat) : (s.modCore k f).port j = s.port j := rfl
@[simp] theorem State.region_modCore (s : State) (k : Nat) (f : Core → Core) (j : Nat) : (s.modCore k f).region j = s.region j := rfl
@[simp] theorem State.grid_modCore (s : State) (k : Nat) (f : Core → Core) (j : Nat) : (s.modCore k f).grid j = s.grid j := rfl

@[simp] theorem State.ctx_putCluster (s : State) (k : Nat) (c : Cluster) (j : Nat) : (s.putCluster k c).ctx j = s.ctx j := rfl
@[simp] theorem State.core_putCluster (s : State) (k : Nat) (c : Cluster) (j : Nat) : (s.putCluster k c).core j = s.core j := rfl
@[simp] theorem State.die_putCluster (s : State) (k : Nat) (c : Cluster) (j : Nat) : (s.putCluster k c).die j = s.die j := rfl
@[simp] theorem State.port_putCluster (s : State) (k : Nat) (c : Cluster) (j : Nat) : (s.putCluster k c).port j = s.port j := rfl
@[simp] theorem State.region_putCluster (s : State) (k : Nat) (c : Cluster) (j : Nat) : (s.putCluster k c).region j = s.region j := rfl
@[simp] theorem State.grid_putCluster (s : State) (k : Nat) (c : Cluster) (j : Nat) : (s.putCluster k c).grid j = s.grid j := rfl

@[simp] theorem State.ctx_modCluster (s : State) (k : Nat) (f : Cluster → Cluster) (j : Nat) : (s.modCluster k f).ctx j = s.ctx j := rfl
@[simp] theorem State.core_modCluster (s : State) (k : Nat) (f : Cluster → Cluster) (j : Nat) : (s.modCluster k f).core j = s.core j := rfl
@[simp] theorem State.die_modCluster (s : State) (k : Nat) (f : Cluster → Cluster) (j : Nat) : (s.modCluster k f).die j = s.die j := rfl
@[simp] theorem State.port_modCluster (s : State) (k : Nat) (f : Cluster → Cluster) (j : Nat) : (s.modCluster k f).port j = s.port j := rfl
@[simp] theorem State.region_modCluster (s : State) (k : Nat) (f : Cluster → Cluster) (j : Nat) : (s.modCluster k f).region j = s.region j := rfl
@[simp] theorem State.grid_modCluster (s : State) (k : Nat) (f : Cluster → Cluster) (j : Nat) : (s.modCluster k f).grid j = s.grid j := rfl

@[simp] theorem State.ctx_modDie (s : State) (k : Nat) (f : Die → Die) (j : Nat) : (s.modDie k f).ctx j = s.ctx j := rfl
@[simp] theorem State.core_modDie (s : State) (k : Nat) (f : Die → Die) (j : Nat) : (s.modDie k f).core j = s.core j := rfl
@[simp] theorem State.cluster_modDie (s : State) (k : Nat) (f : Die → Die) (j : Nat) : (s.modDie k f).cluster j = s.cluster j := rfl
@[simp] theorem State.port_modDie (s : State) (k : Nat) (f : Die → Die) (j : Nat) : (s.modDie k f).port j = s.port j := rfl
@[simp] theorem State.region_modDie (s : State) (k : Nat) (f : Die → Die) (j : Nat) : (s.modDie k f).region j = s.region j := rfl
@[simp] theorem State.grid_modDie (s : State) (k : Nat) (f : Die → Die) (j : Nat) : (s.modDie k f).grid j = s.grid j := rfl

@[simp] theorem State.ctx_modPort (s : State) (k : Nat) (f : Port → Port) (j : Nat) : (s.modPort k f).ctx j = s.ctx j := rfl
@[simp] theorem State.core_modPort (s : State) (k : Nat) (f : Port → Port) (j : Nat) : (s.modPort k f).core j = s.core j := rfl
@[simp] theorem State.cluster_modPort (s : State) (k : Nat) (f : Port → Port) (j : Nat) : (s.modPort k f).cluster j = s.cluster j := rfl
@[simp] theorem State.die_modPort (s : State) (k : Nat) (f : Port → Port) (j : Nat) : (s.modPort k f).die j = s.die j := rfl
@[simp] theorem State.region_modPort (s : State) (k : Nat) (f : Port → Port) (j : Nat) : (s.modPort k f).region j = s.region j := rfl
@[simp] theorem State.grid_modPort (s : State) (k : Nat) (f : Port → Port) (j : Nat) : (s.modPort k f).grid j = s.grid j := rfl

@[simp] theorem State.ctx_modRegion (s : State) (k : Nat) (f : Region → Region) (j : Nat) : (s.modRegion k f).ctx j = s.ctx j := rfl
@[simp] theorem State.core_modRegion (s : State) (k : Nat) (f : Region → Region) (j : Nat) : (s.modRegion k f).core j = s.core j := rfl
@[simp] theorem State.cluster_modRegion (s : State) (k : Nat) (f : Region → Region) (j : Nat) : (s.modRegion k f).cluster j = s.cluster j := rfl
@[simp] theorem State.die_modRegion (s : State) (k : Nat) (f : Region → Region) (j : Nat) : (s.modRegion k f).die j = s.die j := rfl
@[simp] theorem State.port_modRegion (s : State) (k : Nat) (f : Region → Region) (j : Nat) : (s.modRegion k f).port j = s.port j := rfl
@[simp] theorem State.grid_modRegion (s : State) (k : Nat) (f : Region → Region) (j : Nat) : (s.modRegion k f).grid j = s.grid j := rfl

@[simp] theorem State.ctx_modGrid (s : State) (k : Nat) (f : Grid → Grid) (j : Nat) : (s.modGrid k f).ctx j = s.ctx j := rfl
@[simp] theorem State.core_modGrid (s : State) (k : Nat) (f : Grid → Grid) (j : Nat) : (s.modGrid k f).core j = s.core j := rfl
@[simp] theorem State.cluster_modGrid (s : State) (k : Nat) (f : Grid → Grid) (j : Nat) : (s.modGrid k f).cluster j = s.cluster j := rfl
@[simp] theorem State.die_modGrid (s : State) (k : Nat) (f : Grid → Grid) (j : Nat) : (s.modGrid k f).die j = s.die j := rfl
@[simp] theorem State.port_modGrid (s : State) (k : Nat) (f : Grid → Grid) (j : Nat) : (s.modGrid k f).port j = s.port j := rfl
@[simp] theorem State.region_modGrid (s : State) (k : Nat) (f : Grid → Grid) (j : Nat) : (s.modGrid k f).region j = s.region j := rfl

@[simp] theorem State.ctx_bumpFree (s : State) (j : Nat) : (s.bumpFree).ctx j = s.ctx j := rfl
@[simp] theorem State.core_bumpFree (s : State) (j : Nat) : (s.bumpFree).core j = s.core j := rfl
@[simp] theorem State.cluster_bumpFree (s : State) (j : Nat) : (s.bumpFree).cluster j = s.cluster j := rfl
@[simp] theorem State.die_bumpFree (s : State) (j : Nat) : (s.bumpFree).die j = s.die j := rfl
@[simp] theorem State.port_bumpFree (s : State) (j : Nat) : (s.bumpFree).port j = s.port j := rfl
@[simp] theorem State.region_bumpFree (s : State) (j : Nat) : (s.bumpFree).region j = s.region j := rfl
@[simp] theorem State.grid_bumpFree (s : State) (j : Nat) : (s.bumpFree).grid j = s.grid j := rfl

/-! ### The fields of the state under its updates -/

@[simp] theorem State.putCtx_mem (s : State) (k : Nat) (c : Ctx) : (s.putCtx k c).mem = s.mem := rfl
@[simp] theorem State.putCtx_time (s : State) (k : Nat) (c : Ctx) : (s.putCtx k c).time = s.time := rfl
@[simp] theorem State.putCtx_populated (s : State) (k : Nat) (c : Ctx) : (s.putCtx k c).populated = s.populated := rfl
@[simp] theorem State.putCtx_cores (s : State) (k : Nat) (c : Ctx) : (s.putCtx k c).cores = s.cores := rfl
@[simp] theorem State.putCtx_clusters (s : State) (k : Nat) (c : Ctx) : (s.putCtx k c).clusters = s.clusters := rfl
@[simp] theorem State.putCtx_dies (s : State) (k : Nat) (c : Ctx) : (s.putCtx k c).dies = s.dies := rfl
@[simp] theorem State.putCtx_ports (s : State) (k : Nat) (c : Ctx) : (s.putCtx k c).ports = s.ports := rfl
@[simp] theorem State.putCtx_regions (s : State) (k : Nat) (c : Ctx) : (s.putCtx k c).regions = s.regions := rfl
@[simp] theorem State.putCtx_grids (s : State) (k : Nat) (c : Ctx) : (s.putCtx k c).grids = s.grids := rfl
@[simp] theorem State.putCtx_conts (s : State) (k : Nat) (c : Ctx) : (s.putCtx k c).conts = s.conts := rfl
@[simp] theorem State.putCtx_poolKib (s : State) (k : Nat) (c : Ctx) : (s.putCtx k c).poolKib = s.poolKib := rfl
@[simp] theorem State.putCtx_ready (s : State) (k : Nat) (c : Ctx) : (s.putCtx k c).ready = s.ready := rfl
@[simp] theorem State.putCtx_ended (s : State) (k : Nat) (c : Ctx) : (s.putCtx k c).ended = s.ended := rfl
@[simp] theorem State.putCtx_cmds (s : State) (k : Nat) (c : Ctx) : (s.putCtx k c).cmds = s.cmds := rfl
@[simp] theorem State.putCtx_cmdSrc (s : State) (k : Nat) (c : Ctx) : (s.putCtx k c).cmdSrc = s.cmdSrc := rfl
@[simp] theorem State.putCtx_gencur (s : State) (k : Nat) (c : Ctx) : (s.putCtx k c).gencur = s.gencur := rfl
@[simp] theorem State.putCtx_live (s : State) (k : Nat) (c : Ctx) : (s.putCtx k c).live = s.live := rfl
@[simp] theorem State.putCtx_births (s : State) (k : Nat) (c : Ctx) : (s.putCtx k c).births = s.births := rfl
@[simp] theorem State.putCtx_versions (s : State) (k : Nat) (c : Ctx) : (s.putCtx k c).versions = s.versions := rfl
@[simp] theorem State.putCtx_heldWrites (s : State) (k : Nat) (c : Ctx) : (s.putCtx k c).heldWrites = s.heldWrites := rfl
@[simp] theorem State.putCtx_cut (s : State) (k : Nat) (c : Ctx) : (s.putCtx k c).cut = s.cut := rfl
@[simp] theorem State.putCtx_snapQ (s : State) (k : Nat) (c : Ctx) : (s.putCtx k c).snapQ = s.snapQ := rfl
@[simp] theorem State.putCtx_storeGiB (s : State) (k : Nat) (c : Ctx) : (s.putCtx k c).storeGiB = s.storeGiB := rfl
@[simp] theorem State.putCtx_presv (s : State) (k : Nat) (c : Ctx) : (s.putCtx k c).presv = s.presv := rfl
@[simp] theorem State.putCtx_drnb (s : State) (k : Nat) (c : Ctx) : (s.putCtx k c).drnb = s.drnb := rfl
@[simp] theorem State.putCtx_genstall (s : State) (k : Nat) (c : Ctx) : (s.putCtx k c).genstall = s.genstall := rfl
@[simp] theorem State.putCtx_genfulls (s : State) (k : Nat) (c : Ctx) : (s.putCtx k c).genfulls = s.genfulls := rfl
@[simp] theorem State.putCtx_locks (s : State) (k : Nat) (c : Ctx) : (s.putCtx k c).locks = s.locks := rfl
@[simp] theorem State.putCtx_lockReqs (s : State) (k : Nat) (c : Ctx) : (s.putCtx k c).lockReqs = s.lockReqs := rfl
@[simp] theorem State.putCtx_linksDown (s : State) (k : Nat) (c : Ctx) : (s.putCtx k c).linksDown = s.linksDown := rfl
@[simp] theorem State.putCtx_stopped (s : State) (k : Nat) (c : Ctx) : (s.putCtx k c).stopped = s.stopped := rfl
@[simp] theorem State.putCtx_grantAt (s : State) (k : Nat) (c : Ctx) : (s.putCtx k c).grantAt = s.grantAt := rfl
@[simp] theorem State.putCtx_retrains (s : State) (k : Nat) (c : Ctx) : (s.putCtx k c).retrains = s.retrains := rfl
@[simp] theorem State.putCtx_credits (s : State) (k : Nat) (c : Ctx) : (s.putCtx k c).credits = s.credits := rfl
@[simp] theorem State.putCtx_cxlDown (s : State) (k : Nat) (c : Ctx) : (s.putCtx k c).cxlDown = s.cxlDown := rfl
@[simp] theorem State.putCtx_cxlGiB (s : State) (k : Nat) (c : Ctx) : (s.putCtx k c).cxlGiB = s.cxlGiB := rfl
@[simp] theorem State.putCtx_fwlog (s : State) (k : Nat) (c : Ctx) : (s.putCtx k c).fwlog = s.fwlog := rfl
@[simp] theorem State.putCtx_firmware (s : State) (k : Nat) (c : Ctx) : (s.putCtx k c).firmware = s.firmware := rfl
@[simp] theorem State.putCtx_freeIx (s : State) (k : Nat) (c : Ctx) : (s.putCtx k c).freeIx = s.freeIx := rfl
@[simp] theorem State.putCtx_agenda (s : State) (k : Nat) (c : Ctx) : (s.putCtx k c).agenda = s.agenda := rfl
@[simp] theorem State.putCtx_badReads (s : State) (k : Nat) (c : Ctx) : (s.putCtx k c).badReads = s.badReads := rfl
@[simp] theorem State.putCtx_hostHeld (s : State) (k : Nat) (c : Ctx) : (s.putCtx k c).hostHeld = s.hostHeld := rfl
@[simp] theorem State.putCtx_cur (s : State) (k : Nat) (c : Ctx) : (s.putCtx k c).cur = s.cur := rfl
@[simp] theorem State.putCtx_stamp (s : State) (k : Nat) (c : Ctx) : (s.putCtx k c).stamp = s.stamp := rfl

@[simp] theorem State.modCtx_mem (s : State) (k : Nat) (f : Ctx → Ctx) : (s.modCtx k f).mem = s.mem := rfl
@[simp] theorem State.modCtx_time (s : State) (k : Nat) (f : Ctx → Ctx) : (s.modCtx k f).time = s.time := rfl
@[simp] theorem State.modCtx_populated (s : State) (k : Nat) (f : Ctx → Ctx) : (s.modCtx k f).populated = s.populated := rfl
@[simp] theorem State.modCtx_cores (s : State) (k : Nat) (f : Ctx → Ctx) : (s.modCtx k f).cores = s.cores := rfl
@[simp] theorem State.modCtx_clusters (s : State) (k : Nat) (f : Ctx → Ctx) : (s.modCtx k f).clusters = s.clusters := rfl
@[simp] theorem State.modCtx_dies (s : State) (k : Nat) (f : Ctx → Ctx) : (s.modCtx k f).dies = s.dies := rfl
@[simp] theorem State.modCtx_ports (s : State) (k : Nat) (f : Ctx → Ctx) : (s.modCtx k f).ports = s.ports := rfl
@[simp] theorem State.modCtx_regions (s : State) (k : Nat) (f : Ctx → Ctx) : (s.modCtx k f).regions = s.regions := rfl
@[simp] theorem State.modCtx_grids (s : State) (k : Nat) (f : Ctx → Ctx) : (s.modCtx k f).grids = s.grids := rfl
@[simp] theorem State.modCtx_conts (s : State) (k : Nat) (f : Ctx → Ctx) : (s.modCtx k f).conts = s.conts := rfl
@[simp] theorem State.modCtx_poolKib (s : State) (k : Nat) (f : Ctx → Ctx) : (s.modCtx k f).poolKib = s.poolKib := rfl
@[simp] theorem State.modCtx_ready (s : State) (k : Nat) (f : Ctx → Ctx) : (s.modCtx k f).ready = s.ready := rfl
@[simp] theorem State.modCtx_ended (s : State) (k : Nat) (f : Ctx → Ctx) : (s.modCtx k f).ended = s.ended := rfl
@[simp] theorem State.modCtx_cmds (s : State) (k : Nat) (f : Ctx → Ctx) : (s.modCtx k f).cmds = s.cmds := rfl
@[simp] theorem State.modCtx_cmdSrc (s : State) (k : Nat) (f : Ctx → Ctx) : (s.modCtx k f).cmdSrc = s.cmdSrc := rfl
@[simp] theorem State.modCtx_gencur (s : State) (k : Nat) (f : Ctx → Ctx) : (s.modCtx k f).gencur = s.gencur := rfl
@[simp] theorem State.modCtx_live (s : State) (k : Nat) (f : Ctx → Ctx) : (s.modCtx k f).live = s.live := rfl
@[simp] theorem State.modCtx_births (s : State) (k : Nat) (f : Ctx → Ctx) : (s.modCtx k f).births = s.births := rfl
@[simp] theorem State.modCtx_versions (s : State) (k : Nat) (f : Ctx → Ctx) : (s.modCtx k f).versions = s.versions := rfl
@[simp] theorem State.modCtx_heldWrites (s : State) (k : Nat) (f : Ctx → Ctx) : (s.modCtx k f).heldWrites = s.heldWrites := rfl
@[simp] theorem State.modCtx_cut (s : State) (k : Nat) (f : Ctx → Ctx) : (s.modCtx k f).cut = s.cut := rfl
@[simp] theorem State.modCtx_snapQ (s : State) (k : Nat) (f : Ctx → Ctx) : (s.modCtx k f).snapQ = s.snapQ := rfl
@[simp] theorem State.modCtx_storeGiB (s : State) (k : Nat) (f : Ctx → Ctx) : (s.modCtx k f).storeGiB = s.storeGiB := rfl
@[simp] theorem State.modCtx_presv (s : State) (k : Nat) (f : Ctx → Ctx) : (s.modCtx k f).presv = s.presv := rfl
@[simp] theorem State.modCtx_drnb (s : State) (k : Nat) (f : Ctx → Ctx) : (s.modCtx k f).drnb = s.drnb := rfl
@[simp] theorem State.modCtx_genstall (s : State) (k : Nat) (f : Ctx → Ctx) : (s.modCtx k f).genstall = s.genstall := rfl
@[simp] theorem State.modCtx_genfulls (s : State) (k : Nat) (f : Ctx → Ctx) : (s.modCtx k f).genfulls = s.genfulls := rfl
@[simp] theorem State.modCtx_locks (s : State) (k : Nat) (f : Ctx → Ctx) : (s.modCtx k f).locks = s.locks := rfl
@[simp] theorem State.modCtx_lockReqs (s : State) (k : Nat) (f : Ctx → Ctx) : (s.modCtx k f).lockReqs = s.lockReqs := rfl
@[simp] theorem State.modCtx_linksDown (s : State) (k : Nat) (f : Ctx → Ctx) : (s.modCtx k f).linksDown = s.linksDown := rfl
@[simp] theorem State.modCtx_stopped (s : State) (k : Nat) (f : Ctx → Ctx) : (s.modCtx k f).stopped = s.stopped := rfl
@[simp] theorem State.modCtx_grantAt (s : State) (k : Nat) (f : Ctx → Ctx) : (s.modCtx k f).grantAt = s.grantAt := rfl
@[simp] theorem State.modCtx_retrains (s : State) (k : Nat) (f : Ctx → Ctx) : (s.modCtx k f).retrains = s.retrains := rfl
@[simp] theorem State.modCtx_credits (s : State) (k : Nat) (f : Ctx → Ctx) : (s.modCtx k f).credits = s.credits := rfl
@[simp] theorem State.modCtx_cxlDown (s : State) (k : Nat) (f : Ctx → Ctx) : (s.modCtx k f).cxlDown = s.cxlDown := rfl
@[simp] theorem State.modCtx_cxlGiB (s : State) (k : Nat) (f : Ctx → Ctx) : (s.modCtx k f).cxlGiB = s.cxlGiB := rfl
@[simp] theorem State.modCtx_fwlog (s : State) (k : Nat) (f : Ctx → Ctx) : (s.modCtx k f).fwlog = s.fwlog := rfl
@[simp] theorem State.modCtx_firmware (s : State) (k : Nat) (f : Ctx → Ctx) : (s.modCtx k f).firmware = s.firmware := rfl
@[simp] theorem State.modCtx_freeIx (s : State) (k : Nat) (f : Ctx → Ctx) : (s.modCtx k f).freeIx = s.freeIx := rfl
@[simp] theorem State.modCtx_agenda (s : State) (k : Nat) (f : Ctx → Ctx) : (s.modCtx k f).agenda = s.agenda := rfl
@[simp] theorem State.modCtx_badReads (s : State) (k : Nat) (f : Ctx → Ctx) : (s.modCtx k f).badReads = s.badReads := rfl
@[simp] theorem State.modCtx_hostHeld (s : State) (k : Nat) (f : Ctx → Ctx) : (s.modCtx k f).hostHeld = s.hostHeld := rfl
@[simp] theorem State.modCtx_cur (s : State) (k : Nat) (f : Ctx → Ctx) : (s.modCtx k f).cur = s.cur := rfl
@[simp] theorem State.modCtx_stamp (s : State) (k : Nat) (f : Ctx → Ctx) : (s.modCtx k f).stamp = s.stamp := rfl

@[simp] theorem State.putCore_mem (s : State) (k : Nat) (c : Core) : (s.putCore k c).mem = s.mem := rfl
@[simp] theorem State.putCore_time (s : State) (k : Nat) (c : Core) : (s.putCore k c).time = s.time := rfl
@[simp] theorem State.putCore_populated (s : State) (k : Nat) (c : Core) : (s.putCore k c).populated = s.populated := rfl
@[simp] theorem State.putCore_ctxs (s : State) (k : Nat) (c : Core) : (s.putCore k c).ctxs = s.ctxs := rfl
@[simp] theorem State.putCore_clusters (s : State) (k : Nat) (c : Core) : (s.putCore k c).clusters = s.clusters := rfl
@[simp] theorem State.putCore_dies (s : State) (k : Nat) (c : Core) : (s.putCore k c).dies = s.dies := rfl
@[simp] theorem State.putCore_ports (s : State) (k : Nat) (c : Core) : (s.putCore k c).ports = s.ports := rfl
@[simp] theorem State.putCore_regions (s : State) (k : Nat) (c : Core) : (s.putCore k c).regions = s.regions := rfl
@[simp] theorem State.putCore_grids (s : State) (k : Nat) (c : Core) : (s.putCore k c).grids = s.grids := rfl
@[simp] theorem State.putCore_conts (s : State) (k : Nat) (c : Core) : (s.putCore k c).conts = s.conts := rfl
@[simp] theorem State.putCore_poolKib (s : State) (k : Nat) (c : Core) : (s.putCore k c).poolKib = s.poolKib := rfl
@[simp] theorem State.putCore_ready (s : State) (k : Nat) (c : Core) : (s.putCore k c).ready = s.ready := rfl
@[simp] theorem State.putCore_ended (s : State) (k : Nat) (c : Core) : (s.putCore k c).ended = s.ended := rfl
@[simp] theorem State.putCore_cmds (s : State) (k : Nat) (c : Core) : (s.putCore k c).cmds = s.cmds := rfl
@[simp] theorem State.putCore_cmdSrc (s : State) (k : Nat) (c : Core) : (s.putCore k c).cmdSrc = s.cmdSrc := rfl
@[simp] theorem State.putCore_gencur (s : State) (k : Nat) (c : Core) : (s.putCore k c).gencur = s.gencur := rfl
@[simp] theorem State.putCore_live (s : State) (k : Nat) (c : Core) : (s.putCore k c).live = s.live := rfl
@[simp] theorem State.putCore_births (s : State) (k : Nat) (c : Core) : (s.putCore k c).births = s.births := rfl
@[simp] theorem State.putCore_versions (s : State) (k : Nat) (c : Core) : (s.putCore k c).versions = s.versions := rfl
@[simp] theorem State.putCore_heldWrites (s : State) (k : Nat) (c : Core) : (s.putCore k c).heldWrites = s.heldWrites := rfl
@[simp] theorem State.putCore_cut (s : State) (k : Nat) (c : Core) : (s.putCore k c).cut = s.cut := rfl
@[simp] theorem State.putCore_snapQ (s : State) (k : Nat) (c : Core) : (s.putCore k c).snapQ = s.snapQ := rfl
@[simp] theorem State.putCore_storeGiB (s : State) (k : Nat) (c : Core) : (s.putCore k c).storeGiB = s.storeGiB := rfl
@[simp] theorem State.putCore_presv (s : State) (k : Nat) (c : Core) : (s.putCore k c).presv = s.presv := rfl
@[simp] theorem State.putCore_drnb (s : State) (k : Nat) (c : Core) : (s.putCore k c).drnb = s.drnb := rfl
@[simp] theorem State.putCore_genstall (s : State) (k : Nat) (c : Core) : (s.putCore k c).genstall = s.genstall := rfl
@[simp] theorem State.putCore_genfulls (s : State) (k : Nat) (c : Core) : (s.putCore k c).genfulls = s.genfulls := rfl
@[simp] theorem State.putCore_locks (s : State) (k : Nat) (c : Core) : (s.putCore k c).locks = s.locks := rfl
@[simp] theorem State.putCore_lockReqs (s : State) (k : Nat) (c : Core) : (s.putCore k c).lockReqs = s.lockReqs := rfl
@[simp] theorem State.putCore_linksDown (s : State) (k : Nat) (c : Core) : (s.putCore k c).linksDown = s.linksDown := rfl
@[simp] theorem State.putCore_stopped (s : State) (k : Nat) (c : Core) : (s.putCore k c).stopped = s.stopped := rfl
@[simp] theorem State.putCore_grantAt (s : State) (k : Nat) (c : Core) : (s.putCore k c).grantAt = s.grantAt := rfl
@[simp] theorem State.putCore_retrains (s : State) (k : Nat) (c : Core) : (s.putCore k c).retrains = s.retrains := rfl
@[simp] theorem State.putCore_credits (s : State) (k : Nat) (c : Core) : (s.putCore k c).credits = s.credits := rfl
@[simp] theorem State.putCore_cxlDown (s : State) (k : Nat) (c : Core) : (s.putCore k c).cxlDown = s.cxlDown := rfl
@[simp] theorem State.putCore_cxlGiB (s : State) (k : Nat) (c : Core) : (s.putCore k c).cxlGiB = s.cxlGiB := rfl
@[simp] theorem State.putCore_fwlog (s : State) (k : Nat) (c : Core) : (s.putCore k c).fwlog = s.fwlog := rfl
@[simp] theorem State.putCore_firmware (s : State) (k : Nat) (c : Core) : (s.putCore k c).firmware = s.firmware := rfl
@[simp] theorem State.putCore_freeIx (s : State) (k : Nat) (c : Core) : (s.putCore k c).freeIx = s.freeIx := rfl
@[simp] theorem State.putCore_agenda (s : State) (k : Nat) (c : Core) : (s.putCore k c).agenda = s.agenda := rfl
@[simp] theorem State.putCore_badReads (s : State) (k : Nat) (c : Core) : (s.putCore k c).badReads = s.badReads := rfl
@[simp] theorem State.putCore_hostHeld (s : State) (k : Nat) (c : Core) : (s.putCore k c).hostHeld = s.hostHeld := rfl
@[simp] theorem State.putCore_cur (s : State) (k : Nat) (c : Core) : (s.putCore k c).cur = s.cur := rfl
@[simp] theorem State.putCore_stamp (s : State) (k : Nat) (c : Core) : (s.putCore k c).stamp = s.stamp := rfl

@[simp] theorem State.modCore_mem (s : State) (k : Nat) (f : Core → Core) : (s.modCore k f).mem = s.mem := rfl
@[simp] theorem State.modCore_time (s : State) (k : Nat) (f : Core → Core) : (s.modCore k f).time = s.time := rfl
@[simp] theorem State.modCore_populated (s : State) (k : Nat) (f : Core → Core) : (s.modCore k f).populated = s.populated := rfl
@[simp] theorem State.modCore_ctxs (s : State) (k : Nat) (f : Core → Core) : (s.modCore k f).ctxs = s.ctxs := rfl
@[simp] theorem State.modCore_clusters (s : State) (k : Nat) (f : Core → Core) : (s.modCore k f).clusters = s.clusters := rfl
@[simp] theorem State.modCore_dies (s : State) (k : Nat) (f : Core → Core) : (s.modCore k f).dies = s.dies := rfl
@[simp] theorem State.modCore_ports (s : State) (k : Nat) (f : Core → Core) : (s.modCore k f).ports = s.ports := rfl
@[simp] theorem State.modCore_regions (s : State) (k : Nat) (f : Core → Core) : (s.modCore k f).regions = s.regions := rfl
@[simp] theorem State.modCore_grids (s : State) (k : Nat) (f : Core → Core) : (s.modCore k f).grids = s.grids := rfl
@[simp] theorem State.modCore_conts (s : State) (k : Nat) (f : Core → Core) : (s.modCore k f).conts = s.conts := rfl
@[simp] theorem State.modCore_poolKib (s : State) (k : Nat) (f : Core → Core) : (s.modCore k f).poolKib = s.poolKib := rfl
@[simp] theorem State.modCore_ready (s : State) (k : Nat) (f : Core → Core) : (s.modCore k f).ready = s.ready := rfl
@[simp] theorem State.modCore_ended (s : State) (k : Nat) (f : Core → Core) : (s.modCore k f).ended = s.ended := rfl
@[simp] theorem State.modCore_cmds (s : State) (k : Nat) (f : Core → Core) : (s.modCore k f).cmds = s.cmds := rfl
@[simp] theorem State.modCore_cmdSrc (s : State) (k : Nat) (f : Core → Core) : (s.modCore k f).cmdSrc = s.cmdSrc := rfl
@[simp] theorem State.modCore_gencur (s : State) (k : Nat) (f : Core → Core) : (s.modCore k f).gencur = s.gencur := rfl
@[simp] theorem State.modCore_live (s : State) (k : Nat) (f : Core → Core) : (s.modCore k f).live = s.live := rfl
@[simp] theorem State.modCore_births (s : State) (k : Nat) (f : Core → Core) : (s.modCore k f).births = s.births := rfl
@[simp] theorem State.modCore_versions (s : State) (k : Nat) (f : Core → Core) : (s.modCore k f).versions = s.versions := rfl
@[simp] theorem State.modCore_heldWrites (s : State) (k : Nat) (f : Core → Core) : (s.modCore k f).heldWrites = s.heldWrites := rfl
@[simp] theorem State.modCore_cut (s : State) (k : Nat) (f : Core → Core) : (s.modCore k f).cut = s.cut := rfl
@[simp] theorem State.modCore_snapQ (s : State) (k : Nat) (f : Core → Core) : (s.modCore k f).snapQ = s.snapQ := rfl
@[simp] theorem State.modCore_storeGiB (s : State) (k : Nat) (f : Core → Core) : (s.modCore k f).storeGiB = s.storeGiB := rfl
@[simp] theorem State.modCore_presv (s : State) (k : Nat) (f : Core → Core) : (s.modCore k f).presv = s.presv := rfl
@[simp] theorem State.modCore_drnb (s : State) (k : Nat) (f : Core → Core) : (s.modCore k f).drnb = s.drnb := rfl
@[simp] theorem State.modCore_genstall (s : State) (k : Nat) (f : Core → Core) : (s.modCore k f).genstall = s.genstall := rfl
@[simp] theorem State.modCore_genfulls (s : State) (k : Nat) (f : Core → Core) : (s.modCore k f).genfulls = s.genfulls := rfl
@[simp] theorem State.modCore_locks (s : State) (k : Nat) (f : Core → Core) : (s.modCore k f).locks = s.locks := rfl
@[simp] theorem State.modCore_lockReqs (s : State) (k : Nat) (f : Core → Core) : (s.modCore k f).lockReqs = s.lockReqs := rfl
@[simp] theorem State.modCore_linksDown (s : State) (k : Nat) (f : Core → Core) : (s.modCore k f).linksDown = s.linksDown := rfl
@[simp] theorem State.modCore_stopped (s : State) (k : Nat) (f : Core → Core) : (s.modCore k f).stopped = s.stopped := rfl
@[simp] theorem State.modCore_grantAt (s : State) (k : Nat) (f : Core → Core) : (s.modCore k f).grantAt = s.grantAt := rfl
@[simp] theorem State.modCore_retrains (s : State) (k : Nat) (f : Core → Core) : (s.modCore k f).retrains = s.retrains := rfl
@[simp] theorem State.modCore_credits (s : State) (k : Nat) (f : Core → Core) : (s.modCore k f).credits = s.credits := rfl
@[simp] theorem State.modCore_cxlDown (s : State) (k : Nat) (f : Core → Core) : (s.modCore k f).cxlDown = s.cxlDown := rfl
@[simp] theorem State.modCore_cxlGiB (s : State) (k : Nat) (f : Core → Core) : (s.modCore k f).cxlGiB = s.cxlGiB := rfl
@[simp] theorem State.modCore_fwlog (s : State) (k : Nat) (f : Core → Core) : (s.modCore k f).fwlog = s.fwlog := rfl
@[simp] theorem State.modCore_firmware (s : State) (k : Nat) (f : Core → Core) : (s.modCore k f).firmware = s.firmware := rfl
@[simp] theorem State.modCore_freeIx (s : State) (k : Nat) (f : Core → Core) : (s.modCore k f).freeIx = s.freeIx := rfl
@[simp] theorem State.modCore_agenda (s : State) (k : Nat) (f : Core → Core) : (s.modCore k f).agenda = s.agenda := rfl
@[simp] theorem State.modCore_badReads (s : State) (k : Nat) (f : Core → Core) : (s.modCore k f).badReads = s.badReads := rfl
@[simp] theorem State.modCore_hostHeld (s : State) (k : Nat) (f : Core → Core) : (s.modCore k f).hostHeld = s.hostHeld := rfl
@[simp] theorem State.modCore_cur (s : State) (k : Nat) (f : Core → Core) : (s.modCore k f).cur = s.cur := rfl
@[simp] theorem State.modCore_stamp (s : State) (k : Nat) (f : Core → Core) : (s.modCore k f).stamp = s.stamp := rfl

@[simp] theorem State.putCluster_mem (s : State) (k : Nat) (c : Cluster) : (s.putCluster k c).mem = s.mem := rfl
@[simp] theorem State.putCluster_time (s : State) (k : Nat) (c : Cluster) : (s.putCluster k c).time = s.time := rfl
@[simp] theorem State.putCluster_populated (s : State) (k : Nat) (c : Cluster) : (s.putCluster k c).populated = s.populated := rfl
@[simp] theorem State.putCluster_ctxs (s : State) (k : Nat) (c : Cluster) : (s.putCluster k c).ctxs = s.ctxs := rfl
@[simp] theorem State.putCluster_cores (s : State) (k : Nat) (c : Cluster) : (s.putCluster k c).cores = s.cores := rfl
@[simp] theorem State.putCluster_dies (s : State) (k : Nat) (c : Cluster) : (s.putCluster k c).dies = s.dies := rfl
@[simp] theorem State.putCluster_ports (s : State) (k : Nat) (c : Cluster) : (s.putCluster k c).ports = s.ports := rfl
@[simp] theorem State.putCluster_regions (s : State) (k : Nat) (c : Cluster) : (s.putCluster k c).regions = s.regions := rfl
@[simp] theorem State.putCluster_grids (s : State) (k : Nat) (c : Cluster) : (s.putCluster k c).grids = s.grids := rfl
@[simp] theorem State.putCluster_conts (s : State) (k : Nat) (c : Cluster) : (s.putCluster k c).conts = s.conts := rfl
@[simp] theorem State.putCluster_poolKib (s : State) (k : Nat) (c : Cluster) : (s.putCluster k c).poolKib = s.poolKib := rfl
@[simp] theorem State.putCluster_ready (s : State) (k : Nat) (c : Cluster) : (s.putCluster k c).ready = s.ready := rfl
@[simp] theorem State.putCluster_ended (s : State) (k : Nat) (c : Cluster) : (s.putCluster k c).ended = s.ended := rfl
@[simp] theorem State.putCluster_cmds (s : State) (k : Nat) (c : Cluster) : (s.putCluster k c).cmds = s.cmds := rfl
@[simp] theorem State.putCluster_cmdSrc (s : State) (k : Nat) (c : Cluster) : (s.putCluster k c).cmdSrc = s.cmdSrc := rfl
@[simp] theorem State.putCluster_gencur (s : State) (k : Nat) (c : Cluster) : (s.putCluster k c).gencur = s.gencur := rfl
@[simp] theorem State.putCluster_live (s : State) (k : Nat) (c : Cluster) : (s.putCluster k c).live = s.live := rfl
@[simp] theorem State.putCluster_births (s : State) (k : Nat) (c : Cluster) : (s.putCluster k c).births = s.births := rfl
@[simp] theorem State.putCluster_versions (s : State) (k : Nat) (c : Cluster) : (s.putCluster k c).versions = s.versions := rfl
@[simp] theorem State.putCluster_heldWrites (s : State) (k : Nat) (c : Cluster) : (s.putCluster k c).heldWrites = s.heldWrites := rfl
@[simp] theorem State.putCluster_cut (s : State) (k : Nat) (c : Cluster) : (s.putCluster k c).cut = s.cut := rfl
@[simp] theorem State.putCluster_snapQ (s : State) (k : Nat) (c : Cluster) : (s.putCluster k c).snapQ = s.snapQ := rfl
@[simp] theorem State.putCluster_storeGiB (s : State) (k : Nat) (c : Cluster) : (s.putCluster k c).storeGiB = s.storeGiB := rfl
@[simp] theorem State.putCluster_presv (s : State) (k : Nat) (c : Cluster) : (s.putCluster k c).presv = s.presv := rfl
@[simp] theorem State.putCluster_drnb (s : State) (k : Nat) (c : Cluster) : (s.putCluster k c).drnb = s.drnb := rfl
@[simp] theorem State.putCluster_genstall (s : State) (k : Nat) (c : Cluster) : (s.putCluster k c).genstall = s.genstall := rfl
@[simp] theorem State.putCluster_genfulls (s : State) (k : Nat) (c : Cluster) : (s.putCluster k c).genfulls = s.genfulls := rfl
@[simp] theorem State.putCluster_locks (s : State) (k : Nat) (c : Cluster) : (s.putCluster k c).locks = s.locks := rfl
@[simp] theorem State.putCluster_lockReqs (s : State) (k : Nat) (c : Cluster) : (s.putCluster k c).lockReqs = s.lockReqs := rfl
@[simp] theorem State.putCluster_linksDown (s : State) (k : Nat) (c : Cluster) : (s.putCluster k c).linksDown = s.linksDown := rfl
@[simp] theorem State.putCluster_stopped (s : State) (k : Nat) (c : Cluster) : (s.putCluster k c).stopped = s.stopped := rfl
@[simp] theorem State.putCluster_grantAt (s : State) (k : Nat) (c : Cluster) : (s.putCluster k c).grantAt = s.grantAt := rfl
@[simp] theorem State.putCluster_retrains (s : State) (k : Nat) (c : Cluster) : (s.putCluster k c).retrains = s.retrains := rfl
@[simp] theorem State.putCluster_credits (s : State) (k : Nat) (c : Cluster) : (s.putCluster k c).credits = s.credits := rfl
@[simp] theorem State.putCluster_cxlDown (s : State) (k : Nat) (c : Cluster) : (s.putCluster k c).cxlDown = s.cxlDown := rfl
@[simp] theorem State.putCluster_cxlGiB (s : State) (k : Nat) (c : Cluster) : (s.putCluster k c).cxlGiB = s.cxlGiB := rfl
@[simp] theorem State.putCluster_fwlog (s : State) (k : Nat) (c : Cluster) : (s.putCluster k c).fwlog = s.fwlog := rfl
@[simp] theorem State.putCluster_firmware (s : State) (k : Nat) (c : Cluster) : (s.putCluster k c).firmware = s.firmware := rfl
@[simp] theorem State.putCluster_freeIx (s : State) (k : Nat) (c : Cluster) : (s.putCluster k c).freeIx = s.freeIx := rfl
@[simp] theorem State.putCluster_agenda (s : State) (k : Nat) (c : Cluster) : (s.putCluster k c).agenda = s.agenda := rfl
@[simp] theorem State.putCluster_badReads (s : State) (k : Nat) (c : Cluster) : (s.putCluster k c).badReads = s.badReads := rfl
@[simp] theorem State.putCluster_hostHeld (s : State) (k : Nat) (c : Cluster) : (s.putCluster k c).hostHeld = s.hostHeld := rfl
@[simp] theorem State.putCluster_cur (s : State) (k : Nat) (c : Cluster) : (s.putCluster k c).cur = s.cur := rfl
@[simp] theorem State.putCluster_stamp (s : State) (k : Nat) (c : Cluster) : (s.putCluster k c).stamp = s.stamp := rfl

@[simp] theorem State.modCluster_mem (s : State) (k : Nat) (f : Cluster → Cluster) : (s.modCluster k f).mem = s.mem := rfl
@[simp] theorem State.modCluster_time (s : State) (k : Nat) (f : Cluster → Cluster) : (s.modCluster k f).time = s.time := rfl
@[simp] theorem State.modCluster_populated (s : State) (k : Nat) (f : Cluster → Cluster) : (s.modCluster k f).populated = s.populated := rfl
@[simp] theorem State.modCluster_ctxs (s : State) (k : Nat) (f : Cluster → Cluster) : (s.modCluster k f).ctxs = s.ctxs := rfl
@[simp] theorem State.modCluster_cores (s : State) (k : Nat) (f : Cluster → Cluster) : (s.modCluster k f).cores = s.cores := rfl
@[simp] theorem State.modCluster_dies (s : State) (k : Nat) (f : Cluster → Cluster) : (s.modCluster k f).dies = s.dies := rfl
@[simp] theorem State.modCluster_ports (s : State) (k : Nat) (f : Cluster → Cluster) : (s.modCluster k f).ports = s.ports := rfl
@[simp] theorem State.modCluster_regions (s : State) (k : Nat) (f : Cluster → Cluster) : (s.modCluster k f).regions = s.regions := rfl
@[simp] theorem State.modCluster_grids (s : State) (k : Nat) (f : Cluster → Cluster) : (s.modCluster k f).grids = s.grids := rfl
@[simp] theorem State.modCluster_conts (s : State) (k : Nat) (f : Cluster → Cluster) : (s.modCluster k f).conts = s.conts := rfl
@[simp] theorem State.modCluster_poolKib (s : State) (k : Nat) (f : Cluster → Cluster) : (s.modCluster k f).poolKib = s.poolKib := rfl
@[simp] theorem State.modCluster_ready (s : State) (k : Nat) (f : Cluster → Cluster) : (s.modCluster k f).ready = s.ready := rfl
@[simp] theorem State.modCluster_ended (s : State) (k : Nat) (f : Cluster → Cluster) : (s.modCluster k f).ended = s.ended := rfl
@[simp] theorem State.modCluster_cmds (s : State) (k : Nat) (f : Cluster → Cluster) : (s.modCluster k f).cmds = s.cmds := rfl
@[simp] theorem State.modCluster_cmdSrc (s : State) (k : Nat) (f : Cluster → Cluster) : (s.modCluster k f).cmdSrc = s.cmdSrc := rfl
@[simp] theorem State.modCluster_gencur (s : State) (k : Nat) (f : Cluster → Cluster) : (s.modCluster k f).gencur = s.gencur := rfl
@[simp] theorem State.modCluster_live (s : State) (k : Nat) (f : Cluster → Cluster) : (s.modCluster k f).live = s.live := rfl
@[simp] theorem State.modCluster_births (s : State) (k : Nat) (f : Cluster → Cluster) : (s.modCluster k f).births = s.births := rfl
@[simp] theorem State.modCluster_versions (s : State) (k : Nat) (f : Cluster → Cluster) : (s.modCluster k f).versions = s.versions := rfl
@[simp] theorem State.modCluster_heldWrites (s : State) (k : Nat) (f : Cluster → Cluster) : (s.modCluster k f).heldWrites = s.heldWrites := rfl
@[simp] theorem State.modCluster_cut (s : State) (k : Nat) (f : Cluster → Cluster) : (s.modCluster k f).cut = s.cut := rfl
@[simp] theorem State.modCluster_snapQ (s : State) (k : Nat) (f : Cluster → Cluster) : (s.modCluster k f).snapQ = s.snapQ := rfl
@[simp] theorem State.modCluster_storeGiB (s : State) (k : Nat) (f : Cluster → Cluster) : (s.modCluster k f).storeGiB = s.storeGiB := rfl
@[simp] theorem State.modCluster_presv (s : State) (k : Nat) (f : Cluster → Cluster) : (s.modCluster k f).presv = s.presv := rfl
@[simp] theorem State.modCluster_drnb (s : State) (k : Nat) (f : Cluster → Cluster) : (s.modCluster k f).drnb = s.drnb := rfl
@[simp] theorem State.modCluster_genstall (s : State) (k : Nat) (f : Cluster → Cluster) : (s.modCluster k f).genstall = s.genstall := rfl
@[simp] theorem State.modCluster_genfulls (s : State) (k : Nat) (f : Cluster → Cluster) : (s.modCluster k f).genfulls = s.genfulls := rfl
@[simp] theorem State.modCluster_locks (s : State) (k : Nat) (f : Cluster → Cluster) : (s.modCluster k f).locks = s.locks := rfl
@[simp] theorem State.modCluster_lockReqs (s : State) (k : Nat) (f : Cluster → Cluster) : (s.modCluster k f).lockReqs = s.lockReqs := rfl
@[simp] theorem State.modCluster_linksDown (s : State) (k : Nat) (f : Cluster → Cluster) : (s.modCluster k f).linksDown = s.linksDown := rfl
@[simp] theorem State.modCluster_stopped (s : State) (k : Nat) (f : Cluster → Cluster) : (s.modCluster k f).stopped = s.stopped := rfl
@[simp] theorem State.modCluster_grantAt (s : State) (k : Nat) (f : Cluster → Cluster) : (s.modCluster k f).grantAt = s.grantAt := rfl
@[simp] theorem State.modCluster_retrains (s : State) (k : Nat) (f : Cluster → Cluster) : (s.modCluster k f).retrains = s.retrains := rfl
@[simp] theorem State.modCluster_credits (s : State) (k : Nat) (f : Cluster → Cluster) : (s.modCluster k f).credits = s.credits := rfl
@[simp] theorem State.modCluster_cxlDown (s : State) (k : Nat) (f : Cluster → Cluster) : (s.modCluster k f).cxlDown = s.cxlDown := rfl
@[simp] theorem State.modCluster_cxlGiB (s : State) (k : Nat) (f : Cluster → Cluster) : (s.modCluster k f).cxlGiB = s.cxlGiB := rfl
@[simp] theorem State.modCluster_fwlog (s : State) (k : Nat) (f : Cluster → Cluster) : (s.modCluster k f).fwlog = s.fwlog := rfl
@[simp] theorem State.modCluster_firmware (s : State) (k : Nat) (f : Cluster → Cluster) : (s.modCluster k f).firmware = s.firmware := rfl
@[simp] theorem State.modCluster_freeIx (s : State) (k : Nat) (f : Cluster → Cluster) : (s.modCluster k f).freeIx = s.freeIx := rfl
@[simp] theorem State.modCluster_agenda (s : State) (k : Nat) (f : Cluster → Cluster) : (s.modCluster k f).agenda = s.agenda := rfl
@[simp] theorem State.modCluster_badReads (s : State) (k : Nat) (f : Cluster → Cluster) : (s.modCluster k f).badReads = s.badReads := rfl
@[simp] theorem State.modCluster_hostHeld (s : State) (k : Nat) (f : Cluster → Cluster) : (s.modCluster k f).hostHeld = s.hostHeld := rfl
@[simp] theorem State.modCluster_cur (s : State) (k : Nat) (f : Cluster → Cluster) : (s.modCluster k f).cur = s.cur := rfl
@[simp] theorem State.modCluster_stamp (s : State) (k : Nat) (f : Cluster → Cluster) : (s.modCluster k f).stamp = s.stamp := rfl

@[simp] theorem State.modDie_mem (s : State) (k : Nat) (f : Die → Die) : (s.modDie k f).mem = s.mem := rfl
@[simp] theorem State.modDie_time (s : State) (k : Nat) (f : Die → Die) : (s.modDie k f).time = s.time := rfl
@[simp] theorem State.modDie_populated (s : State) (k : Nat) (f : Die → Die) : (s.modDie k f).populated = s.populated := rfl
@[simp] theorem State.modDie_ctxs (s : State) (k : Nat) (f : Die → Die) : (s.modDie k f).ctxs = s.ctxs := rfl
@[simp] theorem State.modDie_cores (s : State) (k : Nat) (f : Die → Die) : (s.modDie k f).cores = s.cores := rfl
@[simp] theorem State.modDie_clusters (s : State) (k : Nat) (f : Die → Die) : (s.modDie k f).clusters = s.clusters := rfl
@[simp] theorem State.modDie_ports (s : State) (k : Nat) (f : Die → Die) : (s.modDie k f).ports = s.ports := rfl
@[simp] theorem State.modDie_regions (s : State) (k : Nat) (f : Die → Die) : (s.modDie k f).regions = s.regions := rfl
@[simp] theorem State.modDie_grids (s : State) (k : Nat) (f : Die → Die) : (s.modDie k f).grids = s.grids := rfl
@[simp] theorem State.modDie_conts (s : State) (k : Nat) (f : Die → Die) : (s.modDie k f).conts = s.conts := rfl
@[simp] theorem State.modDie_poolKib (s : State) (k : Nat) (f : Die → Die) : (s.modDie k f).poolKib = s.poolKib := rfl
@[simp] theorem State.modDie_ready (s : State) (k : Nat) (f : Die → Die) : (s.modDie k f).ready = s.ready := rfl
@[simp] theorem State.modDie_ended (s : State) (k : Nat) (f : Die → Die) : (s.modDie k f).ended = s.ended := rfl
@[simp] theorem State.modDie_cmds (s : State) (k : Nat) (f : Die → Die) : (s.modDie k f).cmds = s.cmds := rfl
@[simp] theorem State.modDie_cmdSrc (s : State) (k : Nat) (f : Die → Die) : (s.modDie k f).cmdSrc = s.cmdSrc := rfl
@[simp] theorem State.modDie_gencur (s : State) (k : Nat) (f : Die → Die) : (s.modDie k f).gencur = s.gencur := rfl
@[simp] theorem State.modDie_live (s : State) (k : Nat) (f : Die → Die) : (s.modDie k f).live = s.live := rfl
@[simp] theorem State.modDie_births (s : State) (k : Nat) (f : Die → Die) : (s.modDie k f).births = s.births := rfl
@[simp] theorem State.modDie_versions (s : State) (k : Nat) (f : Die → Die) : (s.modDie k f).versions = s.versions := rfl
@[simp] theorem State.modDie_heldWrites (s : State) (k : Nat) (f : Die → Die) : (s.modDie k f).heldWrites = s.heldWrites := rfl
@[simp] theorem State.modDie_cut (s : State) (k : Nat) (f : Die → Die) : (s.modDie k f).cut = s.cut := rfl
@[simp] theorem State.modDie_snapQ (s : State) (k : Nat) (f : Die → Die) : (s.modDie k f).snapQ = s.snapQ := rfl
@[simp] theorem State.modDie_storeGiB (s : State) (k : Nat) (f : Die → Die) : (s.modDie k f).storeGiB = s.storeGiB := rfl
@[simp] theorem State.modDie_presv (s : State) (k : Nat) (f : Die → Die) : (s.modDie k f).presv = s.presv := rfl
@[simp] theorem State.modDie_drnb (s : State) (k : Nat) (f : Die → Die) : (s.modDie k f).drnb = s.drnb := rfl
@[simp] theorem State.modDie_genstall (s : State) (k : Nat) (f : Die → Die) : (s.modDie k f).genstall = s.genstall := rfl
@[simp] theorem State.modDie_genfulls (s : State) (k : Nat) (f : Die → Die) : (s.modDie k f).genfulls = s.genfulls := rfl
@[simp] theorem State.modDie_locks (s : State) (k : Nat) (f : Die → Die) : (s.modDie k f).locks = s.locks := rfl
@[simp] theorem State.modDie_lockReqs (s : State) (k : Nat) (f : Die → Die) : (s.modDie k f).lockReqs = s.lockReqs := rfl
@[simp] theorem State.modDie_linksDown (s : State) (k : Nat) (f : Die → Die) : (s.modDie k f).linksDown = s.linksDown := rfl
@[simp] theorem State.modDie_stopped (s : State) (k : Nat) (f : Die → Die) : (s.modDie k f).stopped = s.stopped := rfl
@[simp] theorem State.modDie_grantAt (s : State) (k : Nat) (f : Die → Die) : (s.modDie k f).grantAt = s.grantAt := rfl
@[simp] theorem State.modDie_retrains (s : State) (k : Nat) (f : Die → Die) : (s.modDie k f).retrains = s.retrains := rfl
@[simp] theorem State.modDie_credits (s : State) (k : Nat) (f : Die → Die) : (s.modDie k f).credits = s.credits := rfl
@[simp] theorem State.modDie_cxlDown (s : State) (k : Nat) (f : Die → Die) : (s.modDie k f).cxlDown = s.cxlDown := rfl
@[simp] theorem State.modDie_cxlGiB (s : State) (k : Nat) (f : Die → Die) : (s.modDie k f).cxlGiB = s.cxlGiB := rfl
@[simp] theorem State.modDie_fwlog (s : State) (k : Nat) (f : Die → Die) : (s.modDie k f).fwlog = s.fwlog := rfl
@[simp] theorem State.modDie_firmware (s : State) (k : Nat) (f : Die → Die) : (s.modDie k f).firmware = s.firmware := rfl
@[simp] theorem State.modDie_freeIx (s : State) (k : Nat) (f : Die → Die) : (s.modDie k f).freeIx = s.freeIx := rfl
@[simp] theorem State.modDie_agenda (s : State) (k : Nat) (f : Die → Die) : (s.modDie k f).agenda = s.agenda := rfl
@[simp] theorem State.modDie_badReads (s : State) (k : Nat) (f : Die → Die) : (s.modDie k f).badReads = s.badReads := rfl
@[simp] theorem State.modDie_hostHeld (s : State) (k : Nat) (f : Die → Die) : (s.modDie k f).hostHeld = s.hostHeld := rfl
@[simp] theorem State.modDie_cur (s : State) (k : Nat) (f : Die → Die) : (s.modDie k f).cur = s.cur := rfl
@[simp] theorem State.modDie_stamp (s : State) (k : Nat) (f : Die → Die) : (s.modDie k f).stamp = s.stamp := rfl

@[simp] theorem State.modPort_mem (s : State) (k : Nat) (f : Port → Port) : (s.modPort k f).mem = s.mem := rfl
@[simp] theorem State.modPort_time (s : State) (k : Nat) (f : Port → Port) : (s.modPort k f).time = s.time := rfl
@[simp] theorem State.modPort_populated (s : State) (k : Nat) (f : Port → Port) : (s.modPort k f).populated = s.populated := rfl
@[simp] theorem State.modPort_ctxs (s : State) (k : Nat) (f : Port → Port) : (s.modPort k f).ctxs = s.ctxs := rfl
@[simp] theorem State.modPort_cores (s : State) (k : Nat) (f : Port → Port) : (s.modPort k f).cores = s.cores := rfl
@[simp] theorem State.modPort_clusters (s : State) (k : Nat) (f : Port → Port) : (s.modPort k f).clusters = s.clusters := rfl
@[simp] theorem State.modPort_dies (s : State) (k : Nat) (f : Port → Port) : (s.modPort k f).dies = s.dies := rfl
@[simp] theorem State.modPort_regions (s : State) (k : Nat) (f : Port → Port) : (s.modPort k f).regions = s.regions := rfl
@[simp] theorem State.modPort_grids (s : State) (k : Nat) (f : Port → Port) : (s.modPort k f).grids = s.grids := rfl
@[simp] theorem State.modPort_conts (s : State) (k : Nat) (f : Port → Port) : (s.modPort k f).conts = s.conts := rfl
@[simp] theorem State.modPort_poolKib (s : State) (k : Nat) (f : Port → Port) : (s.modPort k f).poolKib = s.poolKib := rfl
@[simp] theorem State.modPort_ready (s : State) (k : Nat) (f : Port → Port) : (s.modPort k f).ready = s.ready := rfl
@[simp] theorem State.modPort_ended (s : State) (k : Nat) (f : Port → Port) : (s.modPort k f).ended = s.ended := rfl
@[simp] theorem State.modPort_cmds (s : State) (k : Nat) (f : Port → Port) : (s.modPort k f).cmds = s.cmds := rfl
@[simp] theorem State.modPort_cmdSrc (s : State) (k : Nat) (f : Port → Port) : (s.modPort k f).cmdSrc = s.cmdSrc := rfl
@[simp] theorem State.modPort_gencur (s : State) (k : Nat) (f : Port → Port) : (s.modPort k f).gencur = s.gencur := rfl
@[simp] theorem State.modPort_live (s : State) (k : Nat) (f : Port → Port) : (s.modPort k f).live = s.live := rfl
@[simp] theorem State.modPort_births (s : State) (k : Nat) (f : Port → Port) : (s.modPort k f).births = s.births := rfl
@[simp] theorem State.modPort_versions (s : State) (k : Nat) (f : Port → Port) : (s.modPort k f).versions = s.versions := rfl
@[simp] theorem State.modPort_heldWrites (s : State) (k : Nat) (f : Port → Port) : (s.modPort k f).heldWrites = s.heldWrites := rfl
@[simp] theorem State.modPort_cut (s : State) (k : Nat) (f : Port → Port) : (s.modPort k f).cut = s.cut := rfl
@[simp] theorem State.modPort_snapQ (s : State) (k : Nat) (f : Port → Port) : (s.modPort k f).snapQ = s.snapQ := rfl
@[simp] theorem State.modPort_storeGiB (s : State) (k : Nat) (f : Port → Port) : (s.modPort k f).storeGiB = s.storeGiB := rfl
@[simp] theorem State.modPort_presv (s : State) (k : Nat) (f : Port → Port) : (s.modPort k f).presv = s.presv := rfl
@[simp] theorem State.modPort_drnb (s : State) (k : Nat) (f : Port → Port) : (s.modPort k f).drnb = s.drnb := rfl
@[simp] theorem State.modPort_genstall (s : State) (k : Nat) (f : Port → Port) : (s.modPort k f).genstall = s.genstall := rfl
@[simp] theorem State.modPort_genfulls (s : State) (k : Nat) (f : Port → Port) : (s.modPort k f).genfulls = s.genfulls := rfl
@[simp] theorem State.modPort_locks (s : State) (k : Nat) (f : Port → Port) : (s.modPort k f).locks = s.locks := rfl
@[simp] theorem State.modPort_lockReqs (s : State) (k : Nat) (f : Port → Port) : (s.modPort k f).lockReqs = s.lockReqs := rfl
@[simp] theorem State.modPort_linksDown (s : State) (k : Nat) (f : Port → Port) : (s.modPort k f).linksDown = s.linksDown := rfl
@[simp] theorem State.modPort_stopped (s : State) (k : Nat) (f : Port → Port) : (s.modPort k f).stopped = s.stopped := rfl
@[simp] theorem State.modPort_grantAt (s : State) (k : Nat) (f : Port → Port) : (s.modPort k f).grantAt = s.grantAt := rfl
@[simp] theorem State.modPort_retrains (s : State) (k : Nat) (f : Port → Port) : (s.modPort k f).retrains = s.retrains := rfl
@[simp] theorem State.modPort_credits (s : State) (k : Nat) (f : Port → Port) : (s.modPort k f).credits = s.credits := rfl
@[simp] theorem State.modPort_cxlDown (s : State) (k : Nat) (f : Port → Port) : (s.modPort k f).cxlDown = s.cxlDown := rfl
@[simp] theorem State.modPort_cxlGiB (s : State) (k : Nat) (f : Port → Port) : (s.modPort k f).cxlGiB = s.cxlGiB := rfl
@[simp] theorem State.modPort_fwlog (s : State) (k : Nat) (f : Port → Port) : (s.modPort k f).fwlog = s.fwlog := rfl
@[simp] theorem State.modPort_firmware (s : State) (k : Nat) (f : Port → Port) : (s.modPort k f).firmware = s.firmware := rfl
@[simp] theorem State.modPort_freeIx (s : State) (k : Nat) (f : Port → Port) : (s.modPort k f).freeIx = s.freeIx := rfl
@[simp] theorem State.modPort_agenda (s : State) (k : Nat) (f : Port → Port) : (s.modPort k f).agenda = s.agenda := rfl
@[simp] theorem State.modPort_badReads (s : State) (k : Nat) (f : Port → Port) : (s.modPort k f).badReads = s.badReads := rfl
@[simp] theorem State.modPort_hostHeld (s : State) (k : Nat) (f : Port → Port) : (s.modPort k f).hostHeld = s.hostHeld := rfl
@[simp] theorem State.modPort_cur (s : State) (k : Nat) (f : Port → Port) : (s.modPort k f).cur = s.cur := rfl
@[simp] theorem State.modPort_stamp (s : State) (k : Nat) (f : Port → Port) : (s.modPort k f).stamp = s.stamp := rfl

@[simp] theorem State.modRegion_mem (s : State) (k : Nat) (f : Region → Region) : (s.modRegion k f).mem = s.mem := rfl
@[simp] theorem State.modRegion_time (s : State) (k : Nat) (f : Region → Region) : (s.modRegion k f).time = s.time := rfl
@[simp] theorem State.modRegion_populated (s : State) (k : Nat) (f : Region → Region) : (s.modRegion k f).populated = s.populated := rfl
@[simp] theorem State.modRegion_ctxs (s : State) (k : Nat) (f : Region → Region) : (s.modRegion k f).ctxs = s.ctxs := rfl
@[simp] theorem State.modRegion_cores (s : State) (k : Nat) (f : Region → Region) : (s.modRegion k f).cores = s.cores := rfl
@[simp] theorem State.modRegion_clusters (s : State) (k : Nat) (f : Region → Region) : (s.modRegion k f).clusters = s.clusters := rfl
@[simp] theorem State.modRegion_dies (s : State) (k : Nat) (f : Region → Region) : (s.modRegion k f).dies = s.dies := rfl
@[simp] theorem State.modRegion_ports (s : State) (k : Nat) (f : Region → Region) : (s.modRegion k f).ports = s.ports := rfl
@[simp] theorem State.modRegion_grids (s : State) (k : Nat) (f : Region → Region) : (s.modRegion k f).grids = s.grids := rfl
@[simp] theorem State.modRegion_conts (s : State) (k : Nat) (f : Region → Region) : (s.modRegion k f).conts = s.conts := rfl
@[simp] theorem State.modRegion_poolKib (s : State) (k : Nat) (f : Region → Region) : (s.modRegion k f).poolKib = s.poolKib := rfl
@[simp] theorem State.modRegion_ready (s : State) (k : Nat) (f : Region → Region) : (s.modRegion k f).ready = s.ready := rfl
@[simp] theorem State.modRegion_ended (s : State) (k : Nat) (f : Region → Region) : (s.modRegion k f).ended = s.ended := rfl
@[simp] theorem State.modRegion_cmds (s : State) (k : Nat) (f : Region → Region) : (s.modRegion k f).cmds = s.cmds := rfl
@[simp] theorem State.modRegion_cmdSrc (s : State) (k : Nat) (f : Region → Region) : (s.modRegion k f).cmdSrc = s.cmdSrc := rfl
@[simp] theorem State.modRegion_gencur (s : State) (k : Nat) (f : Region → Region) : (s.modRegion k f).gencur = s.gencur := rfl
@[simp] theorem State.modRegion_live (s : State) (k : Nat) (f : Region → Region) : (s.modRegion k f).live = s.live := rfl
@[simp] theorem State.modRegion_births (s : State) (k : Nat) (f : Region → Region) : (s.modRegion k f).births = s.births := rfl
@[simp] theorem State.modRegion_versions (s : State) (k : Nat) (f : Region → Region) : (s.modRegion k f).versions = s.versions := rfl
@[simp] theorem State.modRegion_heldWrites (s : State) (k : Nat) (f : Region → Region) : (s.modRegion k f).heldWrites = s.heldWrites := rfl
@[simp] theorem State.modRegion_cut (s : State) (k : Nat) (f : Region → Region) : (s.modRegion k f).cut = s.cut := rfl
@[simp] theorem State.modRegion_snapQ (s : State) (k : Nat) (f : Region → Region) : (s.modRegion k f).snapQ = s.snapQ := rfl
@[simp] theorem State.modRegion_storeGiB (s : State) (k : Nat) (f : Region → Region) : (s.modRegion k f).storeGiB = s.storeGiB := rfl
@[simp] theorem State.modRegion_presv (s : State) (k : Nat) (f : Region → Region) : (s.modRegion k f).presv = s.presv := rfl
@[simp] theorem State.modRegion_drnb (s : State) (k : Nat) (f : Region → Region) : (s.modRegion k f).drnb = s.drnb := rfl
@[simp] theorem State.modRegion_genstall (s : State) (k : Nat) (f : Region → Region) : (s.modRegion k f).genstall = s.genstall := rfl
@[simp] theorem State.modRegion_genfulls (s : State) (k : Nat) (f : Region → Region) : (s.modRegion k f).genfulls = s.genfulls := rfl
@[simp] theorem State.modRegion_locks (s : State) (k : Nat) (f : Region → Region) : (s.modRegion k f).locks = s.locks := rfl
@[simp] theorem State.modRegion_lockReqs (s : State) (k : Nat) (f : Region → Region) : (s.modRegion k f).lockReqs = s.lockReqs := rfl
@[simp] theorem State.modRegion_linksDown (s : State) (k : Nat) (f : Region → Region) : (s.modRegion k f).linksDown = s.linksDown := rfl
@[simp] theorem State.modRegion_stopped (s : State) (k : Nat) (f : Region → Region) : (s.modRegion k f).stopped = s.stopped := rfl
@[simp] theorem State.modRegion_grantAt (s : State) (k : Nat) (f : Region → Region) : (s.modRegion k f).grantAt = s.grantAt := rfl
@[simp] theorem State.modRegion_retrains (s : State) (k : Nat) (f : Region → Region) : (s.modRegion k f).retrains = s.retrains := rfl
@[simp] theorem State.modRegion_credits (s : State) (k : Nat) (f : Region → Region) : (s.modRegion k f).credits = s.credits := rfl
@[simp] theorem State.modRegion_cxlDown (s : State) (k : Nat) (f : Region → Region) : (s.modRegion k f).cxlDown = s.cxlDown := rfl
@[simp] theorem State.modRegion_cxlGiB (s : State) (k : Nat) (f : Region → Region) : (s.modRegion k f).cxlGiB = s.cxlGiB := rfl
@[simp] theorem State.modRegion_fwlog (s : State) (k : Nat) (f : Region → Region) : (s.modRegion k f).fwlog = s.fwlog := rfl
@[simp] theorem State.modRegion_firmware (s : State) (k : Nat) (f : Region → Region) : (s.modRegion k f).firmware = s.firmware := rfl
@[simp] theorem State.modRegion_freeIx (s : State) (k : Nat) (f : Region → Region) : (s.modRegion k f).freeIx = s.freeIx := rfl
@[simp] theorem State.modRegion_agenda (s : State) (k : Nat) (f : Region → Region) : (s.modRegion k f).agenda = s.agenda := rfl
@[simp] theorem State.modRegion_badReads (s : State) (k : Nat) (f : Region → Region) : (s.modRegion k f).badReads = s.badReads := rfl
@[simp] theorem State.modRegion_hostHeld (s : State) (k : Nat) (f : Region → Region) : (s.modRegion k f).hostHeld = s.hostHeld := rfl
@[simp] theorem State.modRegion_cur (s : State) (k : Nat) (f : Region → Region) : (s.modRegion k f).cur = s.cur := rfl
@[simp] theorem State.modRegion_stamp (s : State) (k : Nat) (f : Region → Region) : (s.modRegion k f).stamp = s.stamp := rfl

@[simp] theorem State.modGrid_mem (s : State) (k : Nat) (f : Grid → Grid) : (s.modGrid k f).mem = s.mem := rfl
@[simp] theorem State.modGrid_time (s : State) (k : Nat) (f : Grid → Grid) : (s.modGrid k f).time = s.time := rfl
@[simp] theorem State.modGrid_populated (s : State) (k : Nat) (f : Grid → Grid) : (s.modGrid k f).populated = s.populated := rfl
@[simp] theorem State.modGrid_ctxs (s : State) (k : Nat) (f : Grid → Grid) : (s.modGrid k f).ctxs = s.ctxs := rfl
@[simp] theorem State.modGrid_cores (s : State) (k : Nat) (f : Grid → Grid) : (s.modGrid k f).cores = s.cores := rfl
@[simp] theorem State.modGrid_clusters (s : State) (k : Nat) (f : Grid → Grid) : (s.modGrid k f).clusters = s.clusters := rfl
@[simp] theorem State.modGrid_dies (s : State) (k : Nat) (f : Grid → Grid) : (s.modGrid k f).dies = s.dies := rfl
@[simp] theorem State.modGrid_ports (s : State) (k : Nat) (f : Grid → Grid) : (s.modGrid k f).ports = s.ports := rfl
@[simp] theorem State.modGrid_regions (s : State) (k : Nat) (f : Grid → Grid) : (s.modGrid k f).regions = s.regions := rfl
@[simp] theorem State.modGrid_conts (s : State) (k : Nat) (f : Grid → Grid) : (s.modGrid k f).conts = s.conts := rfl
@[simp] theorem State.modGrid_poolKib (s : State) (k : Nat) (f : Grid → Grid) : (s.modGrid k f).poolKib = s.poolKib := rfl
@[simp] theorem State.modGrid_ready (s : State) (k : Nat) (f : Grid → Grid) : (s.modGrid k f).ready = s.ready := rfl
@[simp] theorem State.modGrid_ended (s : State) (k : Nat) (f : Grid → Grid) : (s.modGrid k f).ended = s.ended := rfl
@[simp] theorem State.modGrid_cmds (s : State) (k : Nat) (f : Grid → Grid) : (s.modGrid k f).cmds = s.cmds := rfl
@[simp] theorem State.modGrid_cmdSrc (s : State) (k : Nat) (f : Grid → Grid) : (s.modGrid k f).cmdSrc = s.cmdSrc := rfl
@[simp] theorem State.modGrid_gencur (s : State) (k : Nat) (f : Grid → Grid) : (s.modGrid k f).gencur = s.gencur := rfl
@[simp] theorem State.modGrid_live (s : State) (k : Nat) (f : Grid → Grid) : (s.modGrid k f).live = s.live := rfl
@[simp] theorem State.modGrid_births (s : State) (k : Nat) (f : Grid → Grid) : (s.modGrid k f).births = s.births := rfl
@[simp] theorem State.modGrid_versions (s : State) (k : Nat) (f : Grid → Grid) : (s.modGrid k f).versions = s.versions := rfl
@[simp] theorem State.modGrid_heldWrites (s : State) (k : Nat) (f : Grid → Grid) : (s.modGrid k f).heldWrites = s.heldWrites := rfl
@[simp] theorem State.modGrid_cut (s : State) (k : Nat) (f : Grid → Grid) : (s.modGrid k f).cut = s.cut := rfl
@[simp] theorem State.modGrid_snapQ (s : State) (k : Nat) (f : Grid → Grid) : (s.modGrid k f).snapQ = s.snapQ := rfl
@[simp] theorem State.modGrid_storeGiB (s : State) (k : Nat) (f : Grid → Grid) : (s.modGrid k f).storeGiB = s.storeGiB := rfl
@[simp] theorem State.modGrid_presv (s : State) (k : Nat) (f : Grid → Grid) : (s.modGrid k f).presv = s.presv := rfl
@[simp] theorem State.modGrid_drnb (s : State) (k : Nat) (f : Grid → Grid) : (s.modGrid k f).drnb = s.drnb := rfl
@[simp] theorem State.modGrid_genstall (s : State) (k : Nat) (f : Grid → Grid) : (s.modGrid k f).genstall = s.genstall := rfl
@[simp] theorem State.modGrid_genfulls (s : State) (k : Nat) (f : Grid → Grid) : (s.modGrid k f).genfulls = s.genfulls := rfl
@[simp] theorem State.modGrid_locks (s : State) (k : Nat) (f : Grid → Grid) : (s.modGrid k f).locks = s.locks := rfl
@[simp] theorem State.modGrid_lockReqs (s : State) (k : Nat) (f : Grid → Grid) : (s.modGrid k f).lockReqs = s.lockReqs := rfl
@[simp] theorem State.modGrid_linksDown (s : State) (k : Nat) (f : Grid → Grid) : (s.modGrid k f).linksDown = s.linksDown := rfl
@[simp] theorem State.modGrid_stopped (s : State) (k : Nat) (f : Grid → Grid) : (s.modGrid k f).stopped = s.stopped := rfl
@[simp] theorem State.modGrid_grantAt (s : State) (k : Nat) (f : Grid → Grid) : (s.modGrid k f).grantAt = s.grantAt := rfl
@[simp] theorem State.modGrid_retrains (s : State) (k : Nat) (f : Grid → Grid) : (s.modGrid k f).retrains = s.retrains := rfl
@[simp] theorem State.modGrid_credits (s : State) (k : Nat) (f : Grid → Grid) : (s.modGrid k f).credits = s.credits := rfl
@[simp] theorem State.modGrid_cxlDown (s : State) (k : Nat) (f : Grid → Grid) : (s.modGrid k f).cxlDown = s.cxlDown := rfl
@[simp] theorem State.modGrid_cxlGiB (s : State) (k : Nat) (f : Grid → Grid) : (s.modGrid k f).cxlGiB = s.cxlGiB := rfl
@[simp] theorem State.modGrid_fwlog (s : State) (k : Nat) (f : Grid → Grid) : (s.modGrid k f).fwlog = s.fwlog := rfl
@[simp] theorem State.modGrid_firmware (s : State) (k : Nat) (f : Grid → Grid) : (s.modGrid k f).firmware = s.firmware := rfl
@[simp] theorem State.modGrid_freeIx (s : State) (k : Nat) (f : Grid → Grid) : (s.modGrid k f).freeIx = s.freeIx := rfl
@[simp] theorem State.modGrid_agenda (s : State) (k : Nat) (f : Grid → Grid) : (s.modGrid k f).agenda = s.agenda := rfl
@[simp] theorem State.modGrid_badReads (s : State) (k : Nat) (f : Grid → Grid) : (s.modGrid k f).badReads = s.badReads := rfl
@[simp] theorem State.modGrid_hostHeld (s : State) (k : Nat) (f : Grid → Grid) : (s.modGrid k f).hostHeld = s.hostHeld := rfl
@[simp] theorem State.modGrid_cur (s : State) (k : Nat) (f : Grid → Grid) : (s.modGrid k f).cur = s.cur := rfl
@[simp] theorem State.modGrid_stamp (s : State) (k : Nat) (f : Grid → Grid) : (s.modGrid k f).stamp = s.stamp := rfl

@[simp] theorem State.bumpFree_mem (s : State) : (s.bumpFree).mem = s.mem := rfl
@[simp] theorem State.bumpFree_time (s : State) : (s.bumpFree).time = s.time := rfl
@[simp] theorem State.bumpFree_populated (s : State) : (s.bumpFree).populated = s.populated := rfl
@[simp] theorem State.bumpFree_ctxs (s : State) : (s.bumpFree).ctxs = s.ctxs := rfl
@[simp] theorem State.bumpFree_cores (s : State) : (s.bumpFree).cores = s.cores := rfl
@[simp] theorem State.bumpFree_clusters (s : State) : (s.bumpFree).clusters = s.clusters := rfl
@[simp] theorem State.bumpFree_dies (s : State) : (s.bumpFree).dies = s.dies := rfl
@[simp] theorem State.bumpFree_ports (s : State) : (s.bumpFree).ports = s.ports := rfl
@[simp] theorem State.bumpFree_regions (s : State) : (s.bumpFree).regions = s.regions := rfl
@[simp] theorem State.bumpFree_grids (s : State) : (s.bumpFree).grids = s.grids := rfl
@[simp] theorem State.bumpFree_conts (s : State) : (s.bumpFree).conts = s.conts := rfl
@[simp] theorem State.bumpFree_poolKib (s : State) : (s.bumpFree).poolKib = s.poolKib := rfl
@[simp] theorem State.bumpFree_ready (s : State) : (s.bumpFree).ready = s.ready := rfl
@[simp] theorem State.bumpFree_ended (s : State) : (s.bumpFree).ended = s.ended := rfl
@[simp] theorem State.bumpFree_cmds (s : State) : (s.bumpFree).cmds = s.cmds := rfl
@[simp] theorem State.bumpFree_cmdSrc (s : State) : (s.bumpFree).cmdSrc = s.cmdSrc := rfl
@[simp] theorem State.bumpFree_gencur (s : State) : (s.bumpFree).gencur = s.gencur := rfl
@[simp] theorem State.bumpFree_live (s : State) : (s.bumpFree).live = s.live := rfl
@[simp] theorem State.bumpFree_births (s : State) : (s.bumpFree).births = s.births := rfl
@[simp] theorem State.bumpFree_versions (s : State) : (s.bumpFree).versions = s.versions := rfl
@[simp] theorem State.bumpFree_heldWrites (s : State) : (s.bumpFree).heldWrites = s.heldWrites := rfl
@[simp] theorem State.bumpFree_cut (s : State) : (s.bumpFree).cut = s.cut := rfl
@[simp] theorem State.bumpFree_snapQ (s : State) : (s.bumpFree).snapQ = s.snapQ := rfl
@[simp] theorem State.bumpFree_storeGiB (s : State) : (s.bumpFree).storeGiB = s.storeGiB := rfl
@[simp] theorem State.bumpFree_presv (s : State) : (s.bumpFree).presv = s.presv := rfl
@[simp] theorem State.bumpFree_drnb (s : State) : (s.bumpFree).drnb = s.drnb := rfl
@[simp] theorem State.bumpFree_genstall (s : State) : (s.bumpFree).genstall = s.genstall := rfl
@[simp] theorem State.bumpFree_genfulls (s : State) : (s.bumpFree).genfulls = s.genfulls := rfl
@[simp] theorem State.bumpFree_locks (s : State) : (s.bumpFree).locks = s.locks := rfl
@[simp] theorem State.bumpFree_lockReqs (s : State) : (s.bumpFree).lockReqs = s.lockReqs := rfl
@[simp] theorem State.bumpFree_linksDown (s : State) : (s.bumpFree).linksDown = s.linksDown := rfl
@[simp] theorem State.bumpFree_stopped (s : State) : (s.bumpFree).stopped = s.stopped := rfl
@[simp] theorem State.bumpFree_grantAt (s : State) : (s.bumpFree).grantAt = s.grantAt := rfl
@[simp] theorem State.bumpFree_retrains (s : State) : (s.bumpFree).retrains = s.retrains := rfl
@[simp] theorem State.bumpFree_credits (s : State) : (s.bumpFree).credits = s.credits := rfl
@[simp] theorem State.bumpFree_cxlDown (s : State) : (s.bumpFree).cxlDown = s.cxlDown := rfl
@[simp] theorem State.bumpFree_cxlGiB (s : State) : (s.bumpFree).cxlGiB = s.cxlGiB := rfl
@[simp] theorem State.bumpFree_fwlog (s : State) : (s.bumpFree).fwlog = s.fwlog := rfl
@[simp] theorem State.bumpFree_firmware (s : State) : (s.bumpFree).firmware = s.firmware := rfl
@[simp] theorem State.bumpFree_agenda (s : State) : (s.bumpFree).agenda = s.agenda := rfl
@[simp] theorem State.bumpFree_badReads (s : State) : (s.bumpFree).badReads = s.badReads := rfl
@[simp] theorem State.bumpFree_hostHeld (s : State) : (s.bumpFree).hostHeld = s.hostHeld := rfl
@[simp] theorem State.bumpFree_cur (s : State) : (s.bumpFree).cur = s.cur := rfl
@[simp] theorem State.bumpFree_stamp (s : State) : (s.bumpFree).stamp = s.stamp := rfl

theorem State.bumpFree_freeIx (s : State) : s.bumpFree.freeIx = s.freeIx + 1 := rfl

/-! ### A context that gives up what its slot has asked for -/

@[simp] theorem State.ctx_leaveQueues (s : State) (k n : Nat) : (s.leaveQueues k).ctx n = s.ctx n := rfl
@[simp] theorem State.core_leaveQueues (s : State) (k n : Nat) : (s.leaveQueues k).core n = s.core n := rfl
@[simp] theorem State.cluster_leaveQueues (s : State) (k n : Nat) : (s.leaveQueues k).cluster n = s.cluster n := rfl
@[simp] theorem State.die_leaveQueues (s : State) (k n : Nat) : (s.leaveQueues k).die n = s.die n := rfl
@[simp] theorem State.port_leaveQueues (s : State) (k n : Nat) : (s.leaveQueues k).port n = s.port n := rfl
@[simp] theorem State.region_leaveQueues (s : State) (k n : Nat) : (s.leaveQueues k).region n = s.region n := rfl
@[simp] theorem State.grid_leaveQueues (s : State) (k n : Nat) : (s.leaveQueues k).grid n = s.grid n := rfl
@[simp] theorem State.leaveQueues_mem (s : State) (k : Nat) : (s.leaveQueues k).mem = s.mem := rfl
@[simp] theorem State.leaveQueues_time (s : State) (k : Nat) : (s.leaveQueues k).time = s.time := rfl
@[simp] theorem State.leaveQueues_populated (s : State) (k : Nat) : (s.leaveQueues k).populated = s.populated := rfl
@[simp] theorem State.leaveQueues_ctxs (s : State) (k : Nat) : (s.leaveQueues k).ctxs = s.ctxs := rfl
@[simp] theorem State.leaveQueues_cores (s : State) (k : Nat) : (s.leaveQueues k).cores = s.cores := rfl
@[simp] theorem State.leaveQueues_clusters (s : State) (k : Nat) : (s.leaveQueues k).clusters = s.clusters := rfl
@[simp] theorem State.leaveQueues_dies (s : State) (k : Nat) : (s.leaveQueues k).dies = s.dies := rfl
@[simp] theorem State.leaveQueues_ports (s : State) (k : Nat) : (s.leaveQueues k).ports = s.ports := rfl
@[simp] theorem State.leaveQueues_regions (s : State) (k : Nat) : (s.leaveQueues k).regions = s.regions := rfl
@[simp] theorem State.leaveQueues_grids (s : State) (k : Nat) : (s.leaveQueues k).grids = s.grids := rfl
@[simp] theorem State.leaveQueues_conts (s : State) (k : Nat) : (s.leaveQueues k).conts = s.conts := rfl
@[simp] theorem State.leaveQueues_poolKib (s : State) (k : Nat) : (s.leaveQueues k).poolKib = s.poolKib := rfl
@[simp] theorem State.leaveQueues_ready (s : State) (k : Nat) : (s.leaveQueues k).ready = s.ready := rfl
@[simp] theorem State.leaveQueues_ended (s : State) (k : Nat) : (s.leaveQueues k).ended = s.ended := rfl
@[simp] theorem State.leaveQueues_cmds (s : State) (k : Nat) : (s.leaveQueues k).cmds = s.cmds := rfl
@[simp] theorem State.leaveQueues_cmdSrc (s : State) (k : Nat) : (s.leaveQueues k).cmdSrc = s.cmdSrc := rfl
@[simp] theorem State.leaveQueues_gencur (s : State) (k : Nat) : (s.leaveQueues k).gencur = s.gencur := rfl
@[simp] theorem State.leaveQueues_live (s : State) (k : Nat) : (s.leaveQueues k).live = s.live := rfl
@[simp] theorem State.leaveQueues_births (s : State) (k : Nat) : (s.leaveQueues k).births = s.births := rfl
@[simp] theorem State.leaveQueues_versions (s : State) (k : Nat) : (s.leaveQueues k).versions = s.versions := rfl
@[simp] theorem State.leaveQueues_heldWrites (s : State) (k : Nat) : (s.leaveQueues k).heldWrites = s.heldWrites := rfl
@[simp] theorem State.leaveQueues_cut (s : State) (k : Nat) : (s.leaveQueues k).cut = s.cut := rfl
@[simp] theorem State.leaveQueues_storeGiB (s : State) (k : Nat) : (s.leaveQueues k).storeGiB = s.storeGiB := rfl
@[simp] theorem State.leaveQueues_presv (s : State) (k : Nat) : (s.leaveQueues k).presv = s.presv := rfl
@[simp] theorem State.leaveQueues_drnb (s : State) (k : Nat) : (s.leaveQueues k).drnb = s.drnb := rfl
@[simp] theorem State.leaveQueues_genstall (s : State) (k : Nat) : (s.leaveQueues k).genstall = s.genstall := rfl
@[simp] theorem State.leaveQueues_genfulls (s : State) (k : Nat) : (s.leaveQueues k).genfulls = s.genfulls := rfl
@[simp] theorem State.leaveQueues_locks (s : State) (k : Nat) : (s.leaveQueues k).locks = s.locks := rfl
@[simp] theorem State.leaveQueues_linksDown (s : State) (k : Nat) : (s.leaveQueues k).linksDown = s.linksDown := rfl
@[simp] theorem State.leaveQueues_stopped (s : State) (k : Nat) : (s.leaveQueues k).stopped = s.stopped := rfl
@[simp] theorem State.leaveQueues_grantAt (s : State) (k : Nat) : (s.leaveQueues k).grantAt = s.grantAt := rfl
@[simp] theorem State.leaveQueues_retrains (s : State) (k : Nat) : (s.leaveQueues k).retrains = s.retrains := rfl
@[simp] theorem State.leaveQueues_credits (s : State) (k : Nat) : (s.leaveQueues k).credits = s.credits := rfl
@[simp] theorem State.leaveQueues_cxlDown (s : State) (k : Nat) : (s.leaveQueues k).cxlDown = s.cxlDown := rfl
@[simp] theorem State.leaveQueues_cxlGiB (s : State) (k : Nat) : (s.leaveQueues k).cxlGiB = s.cxlGiB := rfl
@[simp] theorem State.leaveQueues_fwlog (s : State) (k : Nat) : (s.leaveQueues k).fwlog = s.fwlog := rfl
@[simp] theorem State.leaveQueues_firmware (s : State) (k : Nat) : (s.leaveQueues k).firmware = s.firmware := rfl
@[simp] theorem State.leaveQueues_freeIx (s : State) (k : Nat) : (s.leaveQueues k).freeIx = s.freeIx := rfl
@[simp] theorem State.leaveQueues_agenda (s : State) (k : Nat) : (s.leaveQueues k).agenda = s.agenda := rfl
@[simp] theorem State.leaveQueues_badReads (s : State) (k : Nat) : (s.leaveQueues k).badReads = s.badReads := rfl
@[simp] theorem State.leaveQueues_hostHeld (s : State) (k : Nat) : (s.leaveQueues k).hostHeld = s.hostHeld := rfl
@[simp] theorem State.leaveQueues_cur (s : State) (k : Nat) : (s.leaveQueues k).cur = s.cur := rfl
@[simp] theorem State.leaveQueues_stamp (s : State) (k : Nat) : (s.leaveQueues k).stamp = s.stamp := rfl

/-! ### The table an update is of -/

theorem State.putCtx_ctxs (s : State) (k : Nat) (c : Ctx) : (s.putCtx k c).ctxs = put s.ctxs k c := rfl
theorem State.modCtx_ctxs (s : State) (k : Nat) (f : Ctx → Ctx) : (s.modCtx k f).ctxs = put s.ctxs k (f (s.ctx k)) := rfl
theorem State.putCore_cores (s : State) (k : Nat) (c : Core) : (s.putCore k c).cores = put s.cores k c := rfl
theorem State.modCore_cores (s : State) (k : Nat) (f : Core → Core) : (s.modCore k f).cores = put s.cores k (f (s.core k)) := rfl
theorem State.putCluster_clusters (s : State) (k : Nat) (c : Cluster) : (s.putCluster k c).clusters = put s.clusters k c := rfl
theorem State.modCluster_clusters (s : State) (k : Nat) (f : Cluster → Cluster) : (s.modCluster k f).clusters = put s.clusters k (f (s.cluster k)) := rfl

end Sys2Proof.Machine
end

