-- ==== Sys2Proof/Laws/Scalar.lean ====
section
/-!
SUPPORT. What a result of the S slot changes, and how the S slot commits.
-/
namespace Sys2Proof.Machine

/-- Only registers `ws` of context `k` change, as far as their results have landed. -/
def Regs (s t : State) (k : Nat) (ws : List (Dest × Vec)) : Prop :=
  s.onlyCtx t k ∧ s.hasWritten t k ws ∧
    ∃ o : Run → List (Dest × Vec), t.ctx k = { s.ctx k with
      sregs := (t.ctx k).sregs, pregs := (t.ctx k).pregs, flights := (t.ctx k).flights, run := (s.ctx k).run.map fun r => { r with olds := o r } }

theorem State.onlyCtx_refl (s : State) (k : Nat) : s.onlyCtx s k := ⟨rfl, fun _ _ => rfl⟩

theorem State.onlyCtx_trans {s t u : State} {k : Nat} (h1 : s.onlyCtx t k) (h2 : t.onlyCtx u k) : s.onlyCtx u k := by
  refine ⟨?_, fun j hj => (h2.2 j hj).trans (h1.2 j hj)⟩
  rw [h2.1, h1.1]

theorem State.onlyCtx_modCtx (s : State) (k : Nat) (f : Ctx → Ctx) : s.onlyCtx (s.modCtx k f) k :=
  ⟨rfl, fun _ hj => State.ctx_modCtx_ne _ _ hj⟩

theorem State.onlyCtx_putCtx (s : State) (k : Nat) (c : Ctx) : s.onlyCtx (s.putCtx k c) k :=
  ⟨rfl, fun _ hj => State.ctx_putCtx_ne _ _ hj⟩

theorem State.onlyCtx_bumpFree (s : State) (k : Nat) : s.onlyCtx s.bumpFree k := ⟨rfl, fun _ _ => rfl⟩

theorem Regs.refl (s : State) (k : Nat) : Regs s s k [] :=
  ⟨s.onlyCtx_refl k, fun _ => rfl, fun r => r.olds, by simp⟩

theorem oldOf_append (a b : List (Dest × Vec)) (d : Dest) : oldOf (a ++ b) d = (oldOf a d).or (oldOf b d) := by
  induction a with
  | nil => simp [oldOf]
  | cons x r ih =>
    obtain ⟨e, v⟩ := x
    simp only [List.cons_append, oldOf]
    split <;> simp [ih]

theorem Regs.trans {s t u : State} {k : Nat} {a b : List (Dest × Vec)} (h1 : Regs s t k a) (h2 : Regs t u k b) : Regs s u k (b ++ a) := by
  obtain ⟨a1, w1, o1, e1⟩ := h1
  obtain ⟨a2, w2, o2, e2⟩ := h2
  refine ⟨State.onlyCtx_trans a1 a2, fun d => ?_, fun r => o2 { r with olds := o1 r }, ?_⟩
  · rw [w2 d, w1 d, oldOf_append]
    cases oldOf b d <;> simp
  · rw [e2]
    rw [e1]
    simp only [Option.map_map]
    rfl

/-- The registers that results of the S slot go to. -/
def Dest.small : Dest → Bool
  | .sreg n => n != 0
  | .preg n => n != 0
  | _ => false

/-- A value as its register holds it. -/
def Dest.trunc (d : Dest) (v : Vec) : Vec :=
  match d with
  | .sreg _ => (v.setWidth 64).setWidth 1024
  | .preg _ => (v.setWidth 32).setWidth 1024
  | _ => v

/-- A register that a small result is written to holds it, and every other register keeps its value. -/
theorem State.regNow_setReg (s : State) (k : Nat) {d : Dest} (h : d.small) (v : Vec) (e : Dest) :
    (s.setReg k d v).regNow k e = if e = d then d.trunc v else s.regNow k e := by
  cases d with
  | sreg n =>
    have hn : n ≠ 0 := by simpa [Dest.small] using h
    cases e with
    | sreg m =>
      by_cases hm : m = n
      · subst hm; simp [State.setReg, State.regNow, hn, Dest.trunc]
      · simp [State.setReg, State.regNow, hn, hm, lookD_put_ne]
    | _ => simp [State.setReg, State.regNow, hn]
  | preg n =>
    have hn : n ≠ 0 := by simpa [Dest.small] using h
    cases e with
    | preg m =>
      by_cases hm : m = n
      · subst hm; simp [State.setReg, State.regNow, hn, Dest.trunc]
      · simp [State.setReg, State.regNow, hn, hm, lookD_put_ne]
    | _ => simp [State.setReg, State.regNow, hn]
  | _ => simp [Dest.small] at h

theorem State.setReg_regs (s : State) (k : Nat) {d : Dest} (h : d.small) (v : Vec) :
    ∃ sr pr, s.setReg k d v = s.modCtx k fun c => { c with sregs := sr, pregs := pr } := by
  cases d with
  | sreg n =>
    have hn : n ≠ 0 := by simpa [Dest.small] using h
    exact ⟨put (s.ctx k).sregs n (v.setWidth 64), (s.ctx k).pregs, by simp [State.setReg, hn, State.modCtx]⟩
  | preg n =>
    have hn : n ≠ 0 := by simpa [Dest.small] using h
    exact ⟨(s.ctx k).sregs, put (s.ctx k).pregs n (v.setWidth 32), by simp [State.setReg, hn, State.modCtx]⟩
  | _ => simp [Dest.small] at h

theorem mergeDest_small {d : Dest} (h : d.small) (m : BitVec 32) (v old : Vec) : mergeDest d m v old = v := by
  cases d <;> simp_all [Dest.small, mergeDest]

/-- Flights to other registers say nothing of this one. -/
theorem settle_other (fs : List Flight) (d : Dest) (v : Vec) (h : fs.any (fun f => f.dest = d) = false) :
    fs.foldl (fun v f => if f.dest = d then mergeDest d f.mask f.val v else v) v = v := by
  induction fs generalizing v with
  | nil => rfl
  | cons f r ih =>
    simp only [List.any_cons, Bool.or_eq_false_iff, decide_eq_false_iff_not] at h
    simp [h.1, ih v h.2]

theorem settle_congr (fs : List Flight) (d : Dest) {v w : Vec} (h : v = w) :
    fs.foldl (fun v f => if f.dest = d then mergeDest d f.mask f.val v else v) v =
      fs.foldl (fun v f => if f.dest = d then mergeDest d f.mask f.val v else v) w := by rw [h]

/-- A posted result is the only change. -/
theorem State.post_spec (s : State) (k : Nat) {d : Dest} (h : d.small) (v : Vec) (hv : d.trunc v = v) (lat : Nat) :
    Regs s (s.post k d v lat) k [(d, v)] := by
  unfold State.post
  simp only
  split
  · rename_i hc
    have hno : (s.ctx k).flights.any (fun f => f.dest = d) = false := by simpa using hc.2
    unfold State.landNow
    simp only [mergeDest_small h]
    generalize hm : (s.modCtx k fun c => { c with run := c.run.map fun r =>
      if r.seq = (s.ctx k).seqNow ∧ (oldOf r.olds d).isNone then { r with olds := (d, s.regNow k d) :: r.olds } else r }) = s1
    have hreg : ∀ e, s1.regNow k e = s.regNow k e := by
      intro e; subst hm; cases e <;> simp [State.regNow]
    have hfl : (s1.ctx k).flights = (s.ctx k).flights := by subst hm; simp
    obtain ⟨sr, pr, hs⟩ := State.setReg_regs s1 k h v
    refine ⟨?_, fun e => ?_, fun r => if r.seq = (s.ctx k).seqNow ∧ (oldOf r.olds d).isNone then (d, s.regNow k d) :: r.olds else r.olds, ?_⟩
    · rw [hs]
      subst hm
      exact State.onlyCtx_trans (State.onlyCtx_modCtx _ _ _) (State.onlyCtx_modCtx _ _ _)
    · unfold State.settled
      rw [State.regNow_setReg s1 k h v e]
      have hf2 : ((s1.setReg k d v).ctx k).flights = (s.ctx k).flights := by rw [hs]; simp [hfl]
      rw [hf2]
      by_cases he : e = d
      · subst he
        simp [oldOf, settle_other _ _ _ hno, hv]
      · have : ¬ d = e := fun x => he x.symm
        simp [he, oldOf, this, hreg]
    · rw [hs]
      subst hm
      simp only [State.ctx_modCtx_self]
      congr 2
      funext r
      split <;> rfl
  · refine ⟨State.onlyCtx_modCtx _ _ _, fun e => ?_, fun r => r.olds, by simp⟩
    unfold State.settled
    have hreg : (s.modCtx k fun c => { c with flights := c.flights ++ [s.flight k d (BitVec.allOnes 32) v lat true .none] }).regNow k e = s.regNow k e := by
      cases e <;> simp [State.regNow]
    rw [hreg]
    simp only [State.ctx_modCtx_self, List.foldl_append, List.foldl_cons, List.foldl_nil]
    by_cases he : e = d
    · subst he
      simp [State.flight, oldOf, mergeDest_small h]
    · have : ¬ d = e := fun x => he x.symm
      simp [State.flight, oldOf, this]

theorem State.postS_spec (s : State) (k : Nat) (d : BitVec 6) (v : Word) (lat : Nat) : Regs s (s.postS k d v lat) k (wS d v) := by
  unfold State.postS wS
  split
  · exact Regs.refl s k
  · rename_i h
    refine State.post_spec s k ?_ _ ?_ lat
    · simp only [Dest.small, bne_iff_ne, ne_eq]
      exact fun x => h (BitVec.eq_of_toNat_eq (by simpa using x))
    · simp [Dest.trunc]

theorem State.postP_spec (s : State) (k : Nat) (d : BitVec 6) (v : BitVec 32) (lat : Nat) : Regs s (s.postP k d v lat) k (wP d v) := by
  unfold State.postP wP
  split
  · exact Regs.refl s k
  · rename_i h
    refine State.post_spec s k ?_ _ ?_ lat
    · simp only [Dest.small, bne_iff_ne, ne_eq]
      exact fun x => h (BitVec.eq_of_toNat_eq (by simpa using x))
    · simp [Dest.trunc]

/-- What the back-edge test makes of a context does not rest on its registers, its results on their way or the old values of its bundle. -/
theorem Ctx.backEdge_regs (c : Ctx) (sr : Tab Word) (pr : Tab (BitVec 32)) (fl : List Flight) (o : Run → List (Dest × Vec)) :
    ∃ o', ({ c with sregs := sr, pregs := pr, flights := fl, run := c.run.map fun r => { r with olds := o r } } : Ctx).backEdge =
      { c.backEdge with sregs := sr, pregs := pr, flights := fl, run := c.backEdge.run.map fun r => { r with olds := o' } } := by
  cases hr : c.run with
  | none => exact ⟨[], by simp [Ctx.backEdge, hr]⟩
  | some r =>
    refine ⟨o r, ?_⟩
    unfold Ctx.backEdge
    simp only [hr, Option.map_some]
    have hh : ({ c with sregs := sr, pregs := pr, flights := fl, run := some { r with olds := o r } } : Ctx).inHandler = c.inHandler := rfl
    rw [hh]
    split
    · simp [hr]
    · cases hb : (backEdgeTest r.xb.addr [3, 2, 1, 0] c.lcnt c.lbody).2.2 with
      | none => simp
      | some a => simp only [Option.map_some]; rfl

/-- The S slot commits after an effect `f` on what is not a register, and results `ws`. -/
theorem State.finishSlot_S {s t u : State} {k : Nat} {r : Run} {ws : List (Dest × Vec)} (hr : (t.ctx k).run = some r) (h0 : r.slot = 0)
    (hst : s.onlyCtx t k) (hset : ∀ d, t.settled k d = s.settled k d) (h : Regs t u k ws) :
    ∃ o, s.onlyCtx (u.finishSlot k) k ∧ s.hasWritten (u.finishSlot k) k ws ∧
      (u.finishSlot k).ctx k = { (t.ctx k).backEdge with
        sregs := ((u.finishSlot k).ctx k).sregs, pregs := ((u.finishSlot k).ctx k).pregs, flights := ((u.finishSlot k).ctx k).flights, wait := .none
        run := (t.ctx k).backEdge.run.map fun r => { r with slot := r.slot + 1, olds := o } } := by
  obtain ⟨ha, hw, o1, he⟩ := h
  obtain ⟨o2, hb⟩ := Ctx.backEdge_regs (t.ctx k) (u.ctx k).sregs (u.ctx k).pregs (u.ctx k).flights o1
  rw [← he] at hb
  have hbr : ∃ r1, (t.ctx k).backEdge.run = some r1 ∧ r1.slot = 0 := by
    unfold Ctx.backEdge
    simp only [hr]
    split
    · exact ⟨r, hr, h0⟩
    · split
      · exact ⟨r, by simp, h0⟩
      · exact ⟨_, rfl, h0⟩
  obtain ⟨r1, hr1, h1⟩ := hbr
  have hur : (u.ctx k).run = some { r with olds := o1 r } := by rw [he]; simp [hr]
  have hfin : u.finishSlot k = u.bumpFree.putCtx k { (u.ctx k).backEdge with run := some { r1 with slot := 1, olds := o2 }, wait := .none } := by
    unfold State.finishSlot
    simp only [State.ctx_bumpFree, hur, h0, if_true, hb, hr1, Option.map_some, h1]
    simp
  have hcc : ∀ c : Ctx, c.backEdge.sregs = c.sregs ∧ c.backEdge.pregs = c.pregs ∧ c.backEdge.vregs = c.vregs ∧ c.backEdge.tds = c.tds ∧
      c.backEdge.flights = c.flights := by
    intro c
    unfold Ctx.backEdge
    split
    · simp
    · split
      · simp
      · simp only
        split <;> simp
  refine ⟨o2, ?_, fun d => ?_, ?_⟩
  · rw [hfin]
    exact State.onlyCtx_trans hst (State.onlyCtx_trans ha (State.onlyCtx_trans (State.onlyCtx_bumpFree _ _) (State.onlyCtx_putCtx _ _ _)))
  · rw [← hset d, ← hw d, hfin]
    unfold State.settled
    have hx := hcc (u.ctx k)
    have hreg : (u.bumpFree.putCtx k { (u.ctx k).backEdge with run := some { r1 with slot := 1, olds := o2 }, wait := .none }).regNow k d = u.regNow k d := by
      cases d <;> simp [State.regNow, hx.1, hx.2.1, hx.2.2.1, hx.2.2.2.1]
    rw [hreg]
    simp [hx.2.2.2.2]
  · rw [hfin]
    simp only [State.ctx_putCtx_self]
    rw [hb]
    simp [hr1, h1]

/-- The general commit of an S slot under a guard. -/
theorem commits_of {i : Instr} {s : State} {r : Run} (g : Guard) (f : State → Nat → State) (ws : List (Dest × Vec)) (hs : s.atS r)
    (hi : exec i s = .next (s.guarded g fun k => .done (f s k))) (h : Regs s (f s s.cur) s.cur ws) :
    Commits i s (if s.guard s.cur g then ws else []) Ctx.backEdge := by
  unfold Commits CommitsFrom
  rw [hi]
  unfold State.guarded State.slot
  by_cases hg : s.guard s.cur g
  · simp only [hg, if_true, State.apply]
    obtain ⟨o, a, b, c⟩ := State.finishSlot_S hs.1 hs.2 (s.onlyCtx_refl _) (fun _ => rfl) h
    exact ⟨_, o, rfl, a, b, c⟩
  · simp only [hg, State.apply]
    obtain ⟨o, a, b, c⟩ := State.finishSlot_S hs.1 hs.2 (s.onlyCtx_refl _) (fun _ => rfl) (Regs.refl s s.cur)
    exact ⟨_, o, rfl, a, by simpa using b, c⟩

/-- A scalar result under a guard. -/
theorem computes_of {i : Instr} {g : Guard} {d : BitVec 6} {v : State → Word} (f : State → Nat → Word)
    (hi : ∀ s, exec i s = scalarRes g d (f s) s) (hv : ∀ s, f s s.cur = v s) : Computes i g d v := by
  intro s r hs
  refine commits_of g (fun s k => s.putS k d (f s k)) _ hs (hi s) ?_
  rw [← hv s]
  exact State.postS_spec s s.cur d _ 1

/-- A predicate result under a guard. -/
theorem tests_of {i : Instr} {g : Guard} {pd : BitVec 6} {v : State → BitVec 32} (f : State → Nat → BitVec 32)
    (hi : ∀ s, exec i s = predRes g pd (f s) s) (hv : ∀ s, f s s.cur = v s) : Tests i g fun s => [(pd, v s)] := by
  intro s r hs
  have h := commits_of g (fun s k => s.putP k pd (f s k)) _ hs (hi s) (State.postP_spec s s.cur pd _ 1)
  simpa [hv s] using h

/-- A compare under a guard. -/
theorem tests_compare {i : Instr} {g : Guard} {pd pe : BitVec 6} {v : State → Bool} (f : State → Nat → Bool)
    (hi : ∀ s, exec i s = compareRes g pd pe (f s) s) (hv : ∀ s, f s s.cur = v s) :
    Tests i g fun s => [(pe, rep32 (!v s)), (pd, rep32 (v s))] := by
  intro s r hs
  have h := commits_of g (fun s k => (s.putP k pd (rep32 (f s k))).putP k pe (rep32 (!f s k))) _ hs (hi s)
    ((State.postP_spec s s.cur pd _ 1).trans (State.postP_spec _ s.cur pe _ 1))
  simpa [hv s] using h

end Sys2Proof.Machine
end

