-- ==== Sys2Proof/Laws/Vector.lean ====
section
/-!
SUPPORT. What an instruction of a vector slot changes: lanes, results on their way, and the engine's acceptance.
-/
namespace Sys2Proof.Machine

theorem State.onlyCtxEng_of (s t : State) (k : Nat) (h : s.onlyCtx t k) : s.onlyCtxEng t k := by
  have hc : t.cores = s.cores := by rw [h.1]
  have hcore : ∀ n, t.core n = s.core n := fun n => by simp [State.core, hc]
  refine ⟨by rw [h.1], h.2, fun n _ => hcore n, by simp [hcore]⟩

theorem State.onlyCtxEng_trans {s t u : State} {k : Nat} (h1 : s.onlyCtxEng t k) (h2 : t.onlyCtxEng u k) : s.onlyCtxEng u k := by
  obtain ⟨a1, b1, c1, d1⟩ := h1
  obtain ⟨a2, b2, c2, d2⟩ := h2
  refine ⟨by rw [a2, a1], fun j hj => (b2 j hj).trans (b1 j hj), fun n hn => (c2 n hn).trans (c1 n hn), ?_⟩
  rw [d2, d1]

/-- A context's own reading of a register rests on its files and on its core's rows alone. -/
theorem State.regNow_congr {s t : State} {k : Nat} (h1 : (t.ctx k).sregs = (s.ctx k).sregs) (h2 : (t.ctx k).pregs = (s.ctx k).pregs)
    (h3 : (t.ctx k).vregs = (s.ctx k).vregs) (h4 : (t.ctx k).tds = (s.ctx k).tds) (h5 : (t.core (coreOf k)).rows = (s.core (coreOf k)).rows) (d : Dest) :
    t.regNow k d = s.regNow k d := by
  cases d <;> simp [State.regNow, h1, h2, h3, h4, h5]

/-- What acceptance may do to a result on its way: it can land from some cycle on; the rest stays. -/
def Flight.marked (f g : Flight) : Prop := g.dest = f.dest ∧ g.mask = f.mask ∧ g.val = f.val ∧ g.seq = f.seq ∧ g.nominal = f.nominal

theorem settle_map (fs : List Flight) (m : Flight → Flight) (hm : ∀ f : Flight, f.marked (m f)) (d : Dest) (v : Vec) :
    (fs.map m).foldl (fun v f => if f.dest = d then mergeDest d f.mask f.val v else v) v =
      fs.foldl (fun v f => if f.dest = d then mergeDest d f.mask f.val v else v) v := by
  induction fs generalizing v with
  | nil => rfl
  | cons f r ih =>
    obtain ⟨h1, h2, h3, _, _⟩ := hm f
    simp [h1, h2, h3, ih]

/-- A vector engine accepts the oldest result that waits for it, or nothing. -/
theorem State.acceptFirst_vector (s : State) (k : Nat) (vb : Bool) :
    let t := s.acceptFirst k (if vb then 2 else 1)
    s.onlyCtxEng t k ∧ (∃ m : Flight → Flight, (∀ f : Flight, f.marked (m f)) ∧ (t.ctx k).flights = (s.ctx k).flights.map m) ∧
      t.ctx k = { s.ctx k with flights := (t.ctx k).flights, buf := (t.ctx k).buf } ∧ (t.core (coreOf k)).rows = (s.core (coreOf k)).rows := by
  have hsame : s.onlyCtxEng s k ∧ (∃ m : Flight → Flight, (∀ f : Flight, f.marked (m f)) ∧ (s.ctx k).flights = (s.ctx k).flights.map m) ∧
      s.ctx k = { s.ctx k with flights := (s.ctx k).flights, buf := (s.ctx k).buf } ∧ (s.core (coreOf k)).rows = (s.core (coreOf k)).rows :=
    ⟨State.onlyCtxEng_of _ _ _ (s.onlyCtx_refl k), ⟨id, fun f => ⟨rfl, rfl, rfl, rfl, rfl⟩, by simp⟩, rfl, rfl⟩
  simp only
  unfold State.acceptFirst
  split
  · rename_i b hb
    split
    · have heng : b.eng = if vb then 2 else 1 := by simpa using List.find?_some hb
      cases hop : b.op with
      | result vb2 fs n =>
        simp only [State.accept, hop]
        generalize hm : startFlight ((s.modCtx k fun c => { c with buf := dropFirst (fun e => e == b) c.buf }).cyc k) b.issued fs = m
        have hmark : ∀ f : Flight, f.marked (m f) := by
          intro f; subst hm; unfold startFlight; split <;> exact ⟨rfl, rfl, rfl, rfl, rfl⟩
        refine ⟨⟨rfl, fun j hj => ?_, fun n hn => ?_, ?_⟩, ⟨m, hmark, by simp⟩, by simp, by simp⟩
        · simp [State.ctx_modCtx_ne _ _ hj]
        · simp [State.core_modCore_ne _ _ hn]
        · simp
      | load o => simp [BufOp.eng, EngOp.eng, hop] at heng; split at heng <;> omega
      | store o => simp [BufOp.eng, EngOp.eng, hop] at heng; split at heng <;> omega
      | copy m => simp [BufOp.eng, EngOp.eng, hop] at heng; split at heng <;> split at heng <;> omega
      | tile i a b c d => simp [BufOp.eng, EngOp.eng, hop] at heng; split at heng <;> omega
      | sync bar => simp [BufOp.eng, EngOp.eng, hop] at heng; split at heng <;> omega
      | append n tds => simp [BufOp.eng, EngOp.eng, hop] at heng; split at heng <;> omega
      | tdld td a lat => simp [BufOp.eng, EngOp.eng, hop] at heng; split at heng <;> omega
    · exact hsame
  · exact hsame

/-- Results of a vector slot on their way, and the engine's acceptance. -/
theorem State.vresults_spec (s : State) (k : Nat) {r : Run} (hr : (s.ctx k).run = some r) (hslot : r.slot = 1 ∨ r.slot = 2)
    (ds : List (Dest × Vec)) (mask : BitVec 32) (lat interval : Nat) :
    let t := s.vresults k ds mask lat interval
    s.onlyCtxEng t k ∧
      (∀ d, t.settled k d = (ds.foldl (fun v x => if x.1 = d then mergeDest d mask x.2 v else v) (s.settled k d))) ∧
      (∀ x ∈ ds, ∃ f ∈ (t.ctx k).flights, f.dest = x.1 ∧ f.seq = r.seq ∧ f.nominal = r.issued + lat) ∧
      t.ctx k = { s.ctx k with flights := (t.ctx k).flights, buf := (t.ctx k).buf } := by
  simp only
  have hv : s.vresults k ds mask lat interval =
      ((s.modCtx k fun c => { c with flights := c.flights ++ ds.map fun d => s.flight k d.1 mask d.2 lat false .none }).modCtx k fun c => { c with buf :=
        c.buf ++ [(s.modCtx k fun c => { c with flights := c.flights ++ ds.map fun d => s.flight k d.1 mask d.2 lat false .none }).bufOp k
          (.result ((s.ctx k).slotNow == 2) (ds.map fun d => s.flight k d.1 mask d.2 lat false .none) interval)] }).acceptFirst k
        (if ((s.ctx k).slotNow == 2) then 2 else 1) := rfl
  rw [hv]
  generalize hu : ((s.modCtx k fun c => { c with flights := c.flights ++ ds.map fun d => s.flight k d.1 mask d.2 lat false .none }).modCtx k fun c => { c with buf :=
    c.buf ++ [(s.modCtx k fun c => { c with flights := c.flights ++ ds.map fun d => s.flight k d.1 mask d.2 lat false .none }).bufOp k
      (.result ((s.ctx k).slotNow == 2) (ds.map fun d => s.flight k d.1 mask d.2 lat false .none) interval)] }) = u
  have h1 : s.onlyCtx u k := by
    subst hu; exact State.onlyCtx_trans (State.onlyCtx_modCtx _ _ _) (State.onlyCtx_modCtx _ _ _)
  have hfl : (u.ctx k).flights = (s.ctx k).flights ++ ds.map fun d => s.flight k d.1 mask d.2 lat false .none := by subst hu; simp
  have hctx : u.ctx k = { s.ctx k with flights := (u.ctx k).flights, buf := (u.ctx k).buf } := by subst hu; simp
  have hcore : ∀ n, u.core n = s.core n := by subst hu; intro n; simp
  obtain ⟨a, ⟨m, hm, hmf⟩, c, e⟩ := State.acceptFirst_vector u k ((s.ctx k).slotNow == 2)
  generalize u.acceptFirst k (if ((s.ctx k).slotNow == 2) then 2 else 1) = t at *
  refine ⟨State.onlyCtxEng_trans (State.onlyCtxEng_of _ _ _ h1) a, fun d => ?_, fun x hx => ?_, ?_⟩
  · unfold State.settled
    rw [hmf, settle_map _ m hm, hfl, List.foldl_append]
    rw [State.regNow_congr (s := s) (t := t) (by rw [c, hctx]) (by rw [c, hctx]) (by rw [c, hctx]) (by rw [c, hctx]) (by rw [e, hcore])]
    rw [List.foldl_map]
    rfl
  · refine ⟨m (s.flight k x.1 mask x.2 lat false .none), ?_, ?_⟩
    · rw [hmf, hfl]
      exact List.mem_map_of_mem (List.mem_append_right _ (List.mem_map_of_mem (f := fun d => s.flight k d.1 mask d.2 lat false .none) hx))
    · obtain ⟨h2, _, _, h3, h4⟩ := hm (s.flight k x.1 mask x.2 lat false .none)
      rw [h2, h3, h4]
      simp [State.flight, Ctx.seqNow, State.issuedAt, hr]
  · rw [c, hctx]

/-- A slot between S and Y commits. -/
theorem State.finishSlot_mid {s : State} {k : Nat} {r : Run} (hr : (s.ctx k).run = some r) (h0 : r.slot ≠ 0) (h7 : r.slot ≠ 7) :
    s.finishSlot k = s.bumpFree.putCtx k { s.ctx k with run := some { r with slot := r.slot + 1 }, wait := .none } := by
  unfold State.finishSlot
  simp [hr, h0, h7]

theorem State.settled_putRun (s : State) (k : Nat) (rn : Option Run) (w : Wait) (d : Dest) :
    (s.bumpFree.putCtx k { s.ctx k with run := rn, wait := w }).settled k d = s.settled k d := by
  unfold State.settled
  rw [State.regNow_congr (s := s)] <;> simp

/-- The latches are all that hold codes change. -/
theorem State.hold_spec (s : State) (k : Nat) (o : VSrc) (n : Nat) :
    s.onlyCtx (s.hold k o n) k ∧ (s.hold k o n).ctx k = { s.ctx k with latches := ((s.hold k o n).ctx k).latches } := by
  unfold State.hold
  split
  · exact ⟨State.onlyCtx_modCtx _ _ _, by simp⟩
  · exact ⟨s.onlyCtx_refl k, rfl⟩

theorem State.holdB_spec (s : State) (k : Nat) (o : VSrcB) :
    s.onlyCtx (s.holdB k o) k ∧ (s.holdB k o).ctx k = { s.ctx k with latches := ((s.holdB k o).ctx k).latches } := by
  cases o with
  | reg r => exact s.hold_spec k r 1
  | lit i => exact ⟨s.onlyCtx_refl k, rfl⟩

/-- A change of nothing but latches. -/
def Latched (s t : State) (k : Nat) : Prop := s.onlyCtx t k ∧ t.ctx k = { s.ctx k with latches := (t.ctx k).latches }

theorem Latched.settled {s t : State} {k : Nat} (h : Latched s t k) (d : Dest) : t.settled k d = s.settled k d := by
  have hc : t.core (coreOf k) = s.core (coreOf k) := by rw [h.1.1]; rfl
  unfold State.settled
  rw [State.regNow_congr (s := s) (by rw [h.2]) (by rw [h.2]) (by rw [h.2]) (by rw [h.2]) (by rw [hc]), h.2]

theorem Latched.both (s : State) (k : Nat) (a : VSrc) (b : VSrcB) : Latched s ((s.hold k a 0).holdB k b) k := by
  obtain ⟨h1, h2⟩ := s.hold_spec k a 0
  obtain ⟨h3, h4⟩ := (s.hold k a 0).holdB_spec k b
  exact ⟨State.onlyCtx_trans h1 h3, by rw [h4, h2]⟩

/-- Where no register is at or above the window, nothing faults. -/
theorem Ctx.window_none {c : Ctx} {regs : List Nat} (h : ∀ n ∈ regs, n < c.win) : c.window regs = none := by
  unfold Ctx.window
  rw [Option.map_eq_none_iff, List.find?_eq_none]
  intro n hn
  have := h n hn
  simp only [decide_eq_true_eq]
  omega

/-- A vector slot with room commits its results in the lanes of its mask. -/
theorem vectorSlot_commits {i : Instr} {s : State} {r : Run} {g : Guard} {regs : List Nat} {latch : State → Nat → State} {lat interval : Nat}
    {mask : BitVec 32 → BitVec 32} {f : Nat → BitVec 32 → List (Dest × Vec)} (hs : s.atV r regs)
    (hi : exec i s = vectorSlot g regs latch lat interval mask f s) (hl : Latched s (latch s s.cur) s.cur) (ws : List (Dest × Vec))
    (hz : s.mask s.cur g = 0 → ws = [])
    (hw : s.mask s.cur g ≠ 0 → (∀ x ∈ ws, x ∈ f s.cur (s.mask s.cur g)) ∧ ∀ d old,
      (f s.cur (s.mask s.cur g)).foldl (fun v x => if x.1 = d then mergeDest d (mask (s.mask s.cur g)) x.2 v else v) old =
        afterResults ws (mask (s.mask s.cur g)) d old) :
    VCommits i s (latch s s.cur) r lat (mask (s.mask s.cur g)) ws := by
  obtain ⟨hr, hslot, hfull, hwin⟩ := hs
  have h0 : r.slot ≠ 0 := by omega
  have h7 : r.slot ≠ 7 := by omega
  have hru : ((latch s s.cur).ctx s.cur).run = some r := by rw [hl.2]; exact hr
  unfold VCommits
  rw [hi]
  unfold vectorSlot State.slot
  simp only [Ctx.window_none hwin]
  by_cases hm : s.mask s.cur g = 0
  · simp only [hm, if_true, State.apply]
    refine ⟨_, rfl, ?_, fun d => ?_, ?_, ?_⟩
    · rw [State.finishSlot_mid hru h0 h7]
      exact State.onlyCtxEng_of _ _ _ (State.onlyCtx_trans (State.onlyCtx_bumpFree _ _) (State.onlyCtx_putCtx _ _ _))
    · rw [State.finishSlot_mid hru h0 h7, State.settled_putRun, hl.settled, hz hm]
      rfl
    · rw [hz hm]; simp
    · rw [State.finishSlot_mid hru h0 h7]
      simp
  · obtain ⟨hw1, hw2⟩ := hw hm
    have hsn : (s.ctx s.cur).slotNow = r.slot := by simp [Ctx.slotNow, hr]
    simp only [hm, if_false, State.withRoom, hsn, hfull, State.apply, Bool.false_eq_true]
    obtain ⟨a, b, c, e⟩ := State.vresults_spec (latch s s.cur) s.cur hru hslot (f s.cur (s.mask s.cur g)) (mask (s.mask s.cur g)) lat interval
    generalize (latch s s.cur).vresults s.cur (f s.cur (s.mask s.cur g)) (mask (s.mask s.cur g)) lat interval = t at *
    have hrt : (t.ctx s.cur).run = some r := by rw [e]; exact hru
    refine ⟨_, rfl, ?_, fun d => ?_, fun x hx => ?_, ?_⟩
    · rw [State.finishSlot_mid hrt h0 h7]
      exact State.onlyCtxEng_trans a (State.onlyCtxEng_of _ _ _ (State.onlyCtx_trans (State.onlyCtx_bumpFree _ _) (State.onlyCtx_putCtx _ _ _)))
    · rw [State.finishSlot_mid hrt h0 h7, State.settled_putRun, b d, hw2, hl.settled]
    · obtain ⟨y, hy, h⟩ := c x (hw1 x hx)
      rw [State.finishSlot_mid hrt h0 h7]
      exact ⟨y, by simpa using hy, h⟩
    · rw [State.finishSlot_mid hrt h0 h7]
      simp only [State.ctx_putCtx_self]
      rw [e]

/-- One result. -/
theorem vectorSlot_one {i : Instr} {s : State} {r : Run} {g : Guard} {regs : List Nat} {latch : State → Nat → State} {lat interval : Nat}
    {mask : BitVec 32 → BitVec 32} {d : Dest} {v : Vec} {f : Nat → BitVec 32 → List (Dest × Vec)} (hs : s.atV r regs)
    (hi : exec i s = vectorSlot g regs latch lat interval mask f s) (hl : Latched s (latch s s.cur) s.cur)
    (hf : f s.cur (s.mask s.cur g) = [(d, v)]) :
    VCommits i s (latch s s.cur) r lat (mask (s.mask s.cur g)) (if s.mask s.cur g = 0 then [] else [(d, v)]) := by
  refine vectorSlot_commits hs hi hl _ (fun h => by simp [h]) fun h => ⟨fun x hx => by rw [hf]; rw [if_neg h] at hx; exact hx, fun e old => ?_⟩
  simp only [h, if_false, hf, List.foldl_cons, List.foldl_nil, afterResults, oldOf]
  split <;> rfl

/-! ### Lanes and elements -/

theorem lane_eq (v : Vec) (i j : Nat) (h : j < 32) : (lane v i).getLsbD j = v.getLsbD (32 * i + j) := by
  simp [lane, h]

theorem ofLanes_bit (f : Nat → BitVec 32) (n : Nat) (h : n < 1024) : (ofLanes f).getLsbD n = (f (n / 32)).getLsbD (n % 32) := by
  have key : ∀ (l : List Nat) (acc : Vec), l.Nodup →
      (l.foldl (fun acc i => acc ||| ((f i).setWidth 1024 <<< (32 * i))) acc).getLsbD n =
        (acc.getLsbD n || (decide (n / 32 ∈ l) && (f (n / 32)).getLsbD (n % 32))) := by
    intro l
    induction l with
    | nil => simp
    | cons i r ih =>
      intro acc hn
      obtain ⟨hi, hr⟩ := List.nodup_cons.1 hn
      rw [List.foldl_cons, ih _ hr]
      by_cases hd : n / 32 = i
      · subst hd
        have h1 : ¬ n < 32 * (n / 32) := by omega
        have h2 : n - 32 * (n / 32) = n % 32 := by omega
        simp [h, h1, h2, hi]
      · by_cases h1 : n < 32 * i
        · simp [h, h1, hd]
        · have h3 : 32 ≤ n - 32 * i := by omega
          have h2 : (f i).getLsbD (n - 32 * i) = false := BitVec.getLsbD_of_ge _ _ h3
          simp [h, h1, h2, hd]
  unfold ofLanes
  rw [key _ _ List.nodup_range]
  have : n / 32 < 32 := by omega
  simp [this]

/-- A lane of a register made from lanes. -/
@[simp] theorem lane_ofLanes (f : Nat → BitVec 32) (i : Nat) (h : i < 32) : lane (ofLanes f) i = f i := by
  apply BitVec.eq_of_getLsbD_eq
  intro j hj
  rw [lane_eq _ _ _ hj, ofLanes_bit _ _ (by omega)]
  have h1 : (32 * i + j) / 32 = i := by omega
  have h2 : (32 * i + j) % 32 = j := by omega
  rw [h1, h2]

/-- A lane of a register of which a mask's lanes are new. -/
theorem lane_mergeLanes (m : BitVec 32) (new old : Vec) (i : Nat) (h : i < 32) :
    lane (mergeLanes m new old) i = if m.getLsbD i then lane new i else lane old i := by
  unfold mergeLanes
  split
  · rename_i h1
    have : m.getLsbD i = true := by rw [h1, BitVec.getLsbD_allOnes]; exact decide_eq_true h
    simp [this]
  · split
    · rename_i h1; simp [h1]
    · rw [lane_ofLanes _ _ h]

theorem elem_sum4 (a b c d : Nat) (ha : a < 256) (hb : b < 256) (hc : c < 256) (hd : d < 256) (j : Nat) (hj : j < 4) :
    (a + b * 256 + c * 65536 + d * 16777216) % 4294967296 / 2 ^ (8 * j) % 256 = if j = 0 then a else if j = 1 then b else if j = 2 then c else d := by
  have h : j = 0 ∨ j = 1 ∨ j = 2 ∨ j = 3 := by omega
  rcases h with rfl | rfl | rfl | rfl <;> norm_num <;> omega

theorem packElems8_toNat (f : Nat → Nat) :
    (packElems 8 f).toNat = (f 0 % 256 + f 1 % 256 * 256 + f 2 % 256 * 65536 + f 3 % 256 * 16777216) % 4294967296 := by
  have : List.range (32 / 8) = [0, 1, 2, 3] := by decide
  unfold packElems
  rw [BitVec.toNat_ofNat, this]
  rw [List.foldl_cons, List.foldl_cons, List.foldl_cons, List.foldl_cons, List.foldl_nil, Nat.zero_add, Nat.mul_zero, Nat.pow_zero, Nat.mul_one,
    show (2 : Nat) ^ (8 * 1) = 256 by decide, show (2 : Nat) ^ (8 * 2) = 65536 by decide, show (2 : Nat) ^ (8 * 3) = 16777216 by decide,
    show (2 : Nat) ^ 32 = 4294967296 by decide]

theorem packElems16_toNat (f : Nat → Nat) : (packElems 16 f).toNat = (f 0 % 65536 + f 1 % 65536 * 65536) % 4294967296 := by
  have : List.range (32 / 16) = [0, 1] := by decide
  unfold packElems
  rw [BitVec.toNat_ofNat, this]
  simp only [List.foldl_cons, List.foldl_nil, Nat.zero_add]
  norm_num

theorem elem_packElems8 (f : Nat → Nat) (j : Nat) (h : j < 4) : elem 8 (packElems 8 f) j = f j % 256 := by
  unfold elem bits
  rw [packElems8_toNat]
  have := elem_sum4 (f 0 % 256) (f 1 % 256) (f 2 % 256) (f 3 % 256) (Nat.mod_lt _ (by omega)) (Nat.mod_lt _ (by omega)) (Nat.mod_lt _ (by omega))
    (Nat.mod_lt _ (by omega)) j h
  rw [show (2 : Nat) ^ 8 = 256 from rfl, this]
  have h2 : j = 0 ∨ j = 1 ∨ j = 2 ∨ j = 3 := by omega
  rcases h2 with rfl | rfl | rfl | rfl <;> rfl

theorem elem_sum2 (a b : Nat) (ha : a < 65536) (hb : b < 65536) (j : Nat) (hj : j < 2) :
    (a + b * 65536) % 4294967296 / 2 ^ (16 * j) % 65536 = if j = 0 then a else b := by
  have h : j = 0 ∨ j = 1 := by omega
  rcases h with rfl | rfl <;> norm_num <;> omega

theorem elem_packElems16 (f : Nat → Nat) (j : Nat) (h : j < 2) : elem 16 (packElems 16 f) j = f j % 65536 := by
  unfold elem bits
  rw [packElems16_toNat]
  have := elem_sum2 (f 0 % 65536) (f 1 % 65536) (Nat.mod_lt _ (by omega)) (Nat.mod_lt _ (by omega)) j h
  rw [show (2 : Nat) ^ 16 = 65536 from rfl, this]
  have h2 : j = 0 ∨ j = 1 := by omega
  rcases h2 with rfl | rfl <;> rfl

theorem elem_packElems32 (f : Nat → Nat) : elem 32 (packElems 32 f) 0 = f 0 % 2 ^ 32 := by
  have : List.range (32 / 32) = [0] := by decide
  simp [elem, packElems, bits, this]

/-- An element of a lane packed from elements. -/
theorem elem_packElems {w : Nat} (hw : w = 8 ∨ w = 16 ∨ w = 32) (f : Nat → Nat) (j : Nat) (h : j < 32 / w) :
    elem w (packElems w f) j = f j % 2 ^ w := by
  rcases hw with rfl | rfl | rfl
  · exact elem_packElems8 f j h
  · exact elem_packElems16 f j h
  · have hj : j = 0 := by omega
    subst hj
    exact elem_packElems32 f

/-- An elementwise operation, element by element. -/
theorem mapElems_spec {w : Nat} (hw : w = 8 ∨ w = 16 ∨ w = 32) (f : Nat → Nat → Nat → Nat) (a b c : Vec) :
    EachElem w (mapElems w f a b c) fun i j => f (elem w (lane a i) j) (elem w (lane b i) j) (elem w (lane c i) j) := by
  intro i hi j hj
  unfold mapElems
  rw [lane_ofLanes _ _ hi, elem_packElems hw _ _ hj]

end Sys2Proof.Machine
end

