-- ==== Sys2Proof/Tests/Slice0.lean ====
section
/-!
SUPPORT. Tests. Expected results come from the spec's tables, its worked examples, or a calculation by hand from its rules; each group names its source.
The theorems named `test_hyp_…` are the witnesses of the statements in Certificates/Slice0: a state and operands that meet a statement's hypotheses, one for
each clause.
-/
namespace Sys2Proof.Tests
open Sys2Proof Sys2Proof.Machine

-- One theorem after another: the kernel evaluates each of them.
set_option Elab.async false

/-! ### Well-formedness: a term that each check refuses -/

theorem test_wf_guards_and_predicates :
    Instr.wf (.add 0x30 1 2 3) = false ∧ Instr.wf (.add 0x70 1 2 3) = false ∧ Instr.wf (.add 0x6f 1 2 3) = true ∧
    Instr.wf (.cmp 0 .eq 48 1 2 3) = false ∧ Instr.wf (.cmp 0 .eq 1 48 2 3) = false ∧ Instr.wf (.ptos 0 1 50) = false ∧
    Instr.wf (.vcmp .f32 .lt ⟨0, 48, 1, ⟨.read, 1⟩, .lit 0⟩) = false ∧ Instr.wf (.bart 0 1 63) = false ∧ Instr.wf (.qrel ⟨0, 48, 1, 2⟩) = false ∧
    Instr.wf (.ldlW ⟨0, 1, 2, 0, 48⟩) = false := by decide +kernel

theorem test_wf_scalar :
    Instr.wf (.lit 0 1 true 1) = false ∧ Instr.wf (.lit 0 1 true 2) = true ∧ Instr.wf (.cmpLit 0 .eq 1 2 3 true 3) = false ∧
    Instr.wf (.sext 0 1 2 0) = false ∧ Instr.wf (.zext 0 1 2 65) = false ∧ Instr.wf (.sext 0 1 2 64) = true ∧
    Instr.wf (.mfsr 0 1 0x009) = false ∧ Instr.wf (.mtsr 0 1 0x10b) = false ∧ Instr.wf (.mtsr 0 1 0x001) = true := by decide +kernel

theorem test_wf_vector :
    Instr.wf (.vmin .f32 ⟨0, .rtz, false, 1, ⟨.read, 2⟩, .lit 0⟩) = false ∧ Instr.wf (.viadd .i8 ⟨0, .rne, true, 1, ⟨.read, 2⟩, .lit 0⟩) = false ∧
    Instr.wf (.vsqrt ⟨0, .rup, false, 1, ⟨.read, 2⟩⟩) = true ∧ Instr.wf (.vsqrt ⟨0, .rup, true, 1, ⟨.read, 2⟩⟩) = false ∧
    Instr.wf (.vcvt .e4m3 .f32 ⟨0, .rne, false, 1, ⟨.read, 2⟩⟩) = false ∧ Instr.wf (.vcvt .f32 .f32 ⟨0, .rne, false, 1, ⟨.read, 2⟩⟩) = false ∧
    Instr.wf (.vredAdd .i32 ⟨0, .rtz, false, 1, ⟨.read, 2⟩⟩) = false ∧ Instr.wf (.vmov ⟨0, .rdn, false, 1, ⟨.read, 2⟩⟩) = false := by decide +kernel

theorem test_wf_tile :
    Instr.wf (.tepi 0 1 false 0 false 5 0 ⟨0, 0, 0, 0⟩) = false ∧ Instr.wf (.tew 0 1 2 3 6 ⟨0, 0, 0, 0⟩) = false ∧
    Instr.wf (.tew 0 1 2 3 5 ⟨0, 0, 0, 0⟩) = false ∧ Instr.wf (.tdrain 0 1 1 15 0 ⟨0, 0, 0, 0⟩) = false ∧ Instr.wf (.tdrain 0 1 0 15 0 ⟨0, 0, 0, 0⟩) = true ∧
    Instr.wf (.force 0 0 3 0) = false ∧ Instr.wf (.force 0 4 1 0) = false ∧ Instr.wf (.force 0 4 0 1) = false ∧
    Instr.wf (.tstore 0 1 2 true .rne false 0 ⟨0, 0, 0, 0⟩) = false ∧ Instr.wf (.tstore 0 1 2 false .rne false 1 ⟨0, 0, 0, 0⟩) = false ∧
    Instr.wf (.tdrop 0 true 1) = false := by decide +kernel

theorem test_wf_memory :
    Instr.wf (.ldW ⟨0, 64, 1, 0⟩) = false ∧ Instr.wf (.vld ⟨0, 64, 1, 0⟩) = true ∧ Instr.wf (.pld ⟨0, 48, 1, 0⟩) = false ∧ Instr.wf (.stq ⟨0, 8, 1, 0⟩) = false ∧
    Instr.wf (.acasW ⟨0, 3, 1, .c, 0⟩) = false ∧ Instr.wf (.acasD ⟨0, 0, 1, .c, 0⟩) = false ∧ Instr.wf (.acasD ⟨0, 62, 1, .c, 0⟩) = true ∧
    Instr.wf (.cpy ⟨0, 1, ⟨0, 0, 0, 0⟩, 2⟩) = false ∧ Instr.wf (.tmv ⟨0, 1, ⟨0, 0, 0, 0⟩, 1⟩) = false ∧ Instr.wf (.cflush ⟨0, 1, ⟨0, 0, 0, 0⟩, 1⟩) = false ∧
    Instr.wf (.cflush ⟨0, 0, ⟨0, 0, 0, 0⟩, 2⟩) = false ∧ Instr.wf (.cpq ⟨0, 1, ⟨0, 0, 0, 0⟩, 16⟩) = false := by decide +kernel

/-- Contexts, cores and clusters of memory and I/O dies do not exist (01 R12, R13); nor does link 24 (20 R417). -/
theorem test_wf_parts :
    Instr.wf (.bind 0) = false ∧ Instr.wf (.bind 768) = true ∧ Instr.wf (.bind 12288) = false ∧ Instr.wf (.engineAccept 768 0) = false ∧
    Instr.wf (.engineAccept 768 7) = false ∧ Instr.wf (.scribeComplete 0 (List.replicate 64 64) 0x8000 0) = false ∧
    Instr.wf (.scribeComplete 192 (List.replicate 63 64) 0x8000 0) = false ∧ Instr.wf (.kerfFirmwareWrite 192 66 0) = false ∧
    Instr.wf (.timerExpiry 0 0) = false ∧ Instr.wf (.stretchEnd 30) = false ∧ Instr.wf (.linkDown 24) = false ∧ Instr.wf (.linkRetrain 24 true) = false ∧
    Instr.wf (.scarfDrain 1) = false ∧ Instr.wf (.cxlPortLinkDown 1 0) = false := by decide +kernel

theorem test_wf_event_operands :
    Instr.wf (.coldReset true 65) = false ∧ Instr.wf (.launchGrid 0 0 0 64) = false ∧ Instr.wf (.launchGrid 0 0 0 33554432) = false ∧
    Instr.wf (.dispatchIndex 1 32) = false ∧ Instr.wf (.dispatchGang 1 []) = false ∧ Instr.wf (.dispatchGang 1 (List.replicate 96 32)) = false ∧
    Instr.wf (.dispatcherAccept 768 32) = false ∧ Instr.wf (.preemptRequest 768 0x10000100) = false ∧ Instr.wf (.spillfull 2 16777217) = false ∧
    Instr.wf (.pageMigration 2 0 0x100 0 0) = false ∧ Instr.wf (.pageMigration 2 0 0 0x100 0) = false ∧ Instr.wf (.pageMigration 2 0 0 0 3) = false ∧
    Instr.wf (.hostWrite 0 3 0 []) = false ∧ Instr.wf (.pageAllocation 2 0 0 false 0 3 true false 0 0) = false ∧
    Instr.wf (.pageAllocation 2 0 0x10000 true 0 0 true false 0 0) = false ∧ Instr.wf (.pageAllocation 2 0 0 false 0x100 0 true false 0 0) = false ∧
    Instr.wf (.pageAllocation 2 0 0 false 0 0 true false 0x1000 0) = false ∧ Instr.wf (.pageAllocation 2 0 0 false 0 0 true false 0 0x100) = false := by
  decide +kernel

/-! ### Decoding: words that the spec writes out -/

theorem test_decode_scalar :
    decode .s 0x00000c925380 = .ok (.shlImm 0 9 9 3) ∧ decode .s 0x018620714e02 = .ok (.cmp 2 .ltu 5 6 7 8) ∧
    decode .s 0x00004010d083 = .ok (.addImm 3 3 1 16) ∧ decode .s 0x000018402a80 = .ok (.loop 0 0 4 6) ∧
    decode .s 0x000000506a80 = .ok (.loop 0 1 5 0) := by decide +kernel

theorem test_decode_vector :
    decode .v 0x0001404d7c3 = .ok (.vmov ⟨0x43, .rne, false, 4, ⟨.read, 5⟩⟩) ∧
    decode .v 0x000041e0500a1004 = .ok (.vfma .f32 ⟨4, .rne, false, 10, ⟨.latch, 20⟩, .reg ⟨.read, 30⟩⟩) ∧
    decode .v 0x000800300a078d01 = .ok (.vcmp .f32 .lt ⟨1, 7, 40, ⟨.read, 2⟩, .reg ⟨.read, 3⟩⟩) ∧
    decode .v 0x000001002408ab80 = .ok (.vcvt .f32 .bf16 ⟨0, .rne, false, 8, ⟨.read, 9⟩⟩) := by decide +kernel

theorem test_decode_tile :
    decode .t 0x00000451ca00 = .ok (.tdld 0 7 10 2) ∧ decode .t 0x000645200080 = .ok (.mma 0 false 4 5 2 ⟨0, 0, 0, 6⟩) ∧
    decode .t 0x000645204080 = .ok (.mma 0 true 4 5 2 ⟨0, 0, 0, 6⟩) ∧ decode .t 0x00010210c300 = .ok (.rtopk 0 3 2 2 ⟨0, 0, 0, 1⟩) ∧
    decode .t 0x00002a1a4600 = .ok (.tepi 0 9 true 1 false 10 1 ⟨0, 0, 0, 0⟩) ∧ decode .t 0x00002f008700 = .ok (.tdrain 0 2 0 15 1 ⟨0, 0, 0, 0⟩) ∧
    decode .t 0x000000000c00 = .ok (.scribe 0) := by decide +kernel

theorem test_decode_memory :
    decode .l 0x000045008280 = .ok (.ldW ⟨0, 4, 10, 2⟩) ∧ decode .l 0xffffe300a380 = .ok (.ldD ⟨0, 5, 6, 0x7ffff⟩) ∧
    decode .l 0x240086010600 = .ok (.ldlW ⟨0, 8, 12, 4, 9⟩) ∧ decode .st 0x000025804800 = .ok (.strelW ⟨0, 2, 11, .c, 0⟩) ∧
    decode .c 0x00000d4080 = .ok (.cpy ⟨0, 20, ⟨0, 0, 0, 3⟩, 0⟩) := by decide +kernel

theorem test_decode_events_slot :
    decode .y 0x3c3c0080 = .ok (.wait 0 0 15 0 15) ∧ decode .y 0x00018100 = .ok (.waitk 0 6) ∧ decode .y 0x00030180 = .ok (.waitdc 0 12 0) ∧
    decode .y 0x04830180 = .ok (.waitdc 0 12 9) ∧ decode .y 0x00008200 = .ok (.drain 0 .d) ∧ decode .y 0x00010400 = .ok (.bara 0 4) ∧
    decode .y 0x00010480 = .ok (.barw 0 4) ∧ decode .y 0x00310500 = .ok (.bart 0 4 6) ∧ decode .y 0x00050800 = .ok (.snap 0 20) ∧
    decode .y 0x00954880 = .ok (.gview 0 21 9) ∧ decode .y 0x34c15000 = .ok (.qacq ⟨0, 5, 12, 13⟩) ∧ decode .y 0x00001400 = .ok (.eret 0) ∧
    decode .y 0x04831480 = .ok (.dcset 0 12 9) ∧ decode .y 0x1c615500 = .ok (.timer 0 5 6 7) ∧ decode .y 0x00001580 = .ok (.brkpt 0) := by decide +kernel

/-- Words that R54 rejects: an unassigned opcode, a guard of 48, a field that must be zero, a code that is not assigned. -/
theorem test_decode_rejects :
    decode .c 0x480 = .error .unassigned ∧ (decode .s 0x00000c9253b0).toOption = none ∧ (decode .y 0x80001400).toOption = none ∧
    (decode .y 0x00048200).toOption = none ∧ decode .s 0 = .ok .nop := by decide +kernel

/-! ### A small state: context 768, the first of socket 1's die, in the slot `n` of a bundle at 0x1000_1010 -/

def tXb : XBundle := ⟨0x10001010, 4, 0, 0, List.replicate 8 0, 0, 0⟩

def tRun (n : Nat) : Run :=
  { xb := tXb, slot := n, seq := 5, sys0 := Sys.reset, promote0 := 16, xfer := none, fall := mkRp 0x10001020 0 8 1, fallEnd := false, olds := []
    noBack := false, brk := false, segEnd := false, issued := 0, ldl := none, toks0 := [] }

def tCtx (n : Nat) : Ctx :=
  { Ctx.reset with
    status := .running, win := 64, nbank := 8, kown := true, pc := mkRp 0x10001010 n 4 0, run := some (tRun n), bundleSeq := 5, refetch := false }

def tAt (n : Nat) (f : Ctx → Ctx := id) : State := (State.reset.modCore 192 fun co => { co with owner := some 768 }).putCtx 768 (f (tCtx n))

/-- What register `d` holds after the instruction, once its results have landed. -/
def after (i : Instr) (s : State) (d : Dest) : Option Vec :=
  match exec i s with
  | .next t => some (t.settled 768 d)
  | _ => none

/-- A field of the context after the instruction. -/
def ctxAfter {α : Type} (i : Instr) (s : State) (f : Ctx → α) : Option α :=
  match exec i s with
  | .next t => some (f (t.ctx 768))
  | _ => none

def stateAfter (i : Instr) (s : State) : Option State :=
  match exec i s with
  | .next t => some t
  | _ => none

def sAt (xs : Tab Word) : State := tAt 0 fun c => { c with sregs := xs }
def vAt (xs : Tab Vec) (ps : Tab (BitVec 32) := []) : State := tAt 1 fun c => { c with vregs := xs, pregs := ps }

/-! ### Scalar results (08_scalar: the tables and examples beside the entries) -/

theorem test_div_by_zero : after (.div 0 5 1 2) (sAt [(1, 7)]) (.sreg 5) = some 0xffffffffffffffff ∧
    after (.rem 0 5 1 2) (sAt [(1, 7)]) (.sreg 5) = some 7 ∧ after (.divu 0 5 1 2) (sAt [(1, 7)]) (.sreg 5) = some 0xffffffffffffffff := by decide +kernel

theorem test_div_negative : after (.div 0 5 1 2) (sAt [(1, -7), (2, 2)]) (.sreg 5) = some 0xfffffffffffffffd ∧
    after (.rem 0 5 1 2) (sAt [(1, -7), (2, 2)]) (.sreg 5) = some 0xffffffffffffffff ∧
    after (.divu 0 5 1 2) (sAt [(1, -7), (2, 2)]) (.sreg 5) = some 0x7ffffffffffffffc ∧ after (.remu 0 5 1 2) (sAt [(1, -7), (2, 2)]) (.sreg 5) = some 1 := by
  decide +kernel

theorem test_div_overflow : after (.divImm 0 5 1 (-1)) (sAt [(1, 0x8000000000000000)]) (.sreg 5) = some 0x8000000000000000 ∧
    after (.remImm 0 5 1 (-1)) (sAt [(1, 0x8000000000000000)]) (.sreg 5) = some 0 ∧ after (.divuImm 0 5 1 (-1)) (sAt [(1, 0x8000000000000000)]) (.sreg 5) = some 0 ∧
    after (.remuImm 0 5 1 (-1)) (sAt [(1, 0x8000000000000000)]) (.sreg 5) = some 0x8000000000000000 := by decide +kernel

theorem test_mulh : after (.mulh 0 5 1 2) (sAt [(1, -1), (2, 1)]) (.sreg 5) = some 0xffffffffffffffff ∧
    after (.mulhu 0 5 1 2) (sAt [(1, -1), (2, 1)]) (.sreg 5) = some 0 := by decide +kernel

theorem test_predicate_counts :
    let s := tAt 0 fun c => { c with pregs := [(9, 0xa00)] }
    after (.pcnt 0 5 9) s (.sreg 5) = some 2 ∧ after (.pfirst 0 5 9) s (.sreg 5) = some 9 ∧ after (.ptos 0 5 9) s (.sreg 5) = some 0xa00 ∧
      after (.ptos 0 5 0) s (.sreg 5) = some 0xffffffff ∧ after (.pand 0 10 9 0) s (.preg 10) = some 0 := by decide +kernel

theorem test_lit :
    let s := fun l => tAt 0 fun c => { c with run := some { tRun 0 with xb := { tXb with lits := l } } }
    after (.lit 0 4 false 0) (s 0xfffffffe) (.sreg 4) = some 0xfffffffffffffffe ∧ after (.lit 0 4 true 0) (s 0xffffffff) (.sreg 4) = some 0xffffffff := by
  decide +kernel

/-- `(p2) cmp.ltu p5, p6, s7, s8` with s7 = 3 and s8 = −1. -/
theorem test_cmp_ltu :
    let s := tAt 0 fun c => { c with sregs := [(7, 3), (8, -1)], pregs := [(2, 1)] }
    after (.cmp 2 .ltu 5 6 7 8) s (.preg 5) = some 0xffffffff ∧ after (.cmp 2 .ltu 5 6 7 8) s (.preg 6) = some 0 := by decide +kernel

/-- The destination that is also the source; a wrap; a false guard; s0. -/
theorem test_add_wraps : after (.addImm 0 3 3 (-1)) (sAt []) (.sreg 3) = some 0xffffffffffffffff ∧
    after (.add 0 3 3 3) (sAt [(3, 0x8000000000000001)]) (.sreg 3) = some 2 ∧ after (.addImm 0x40 3 3 1) (sAt [(3, 5)]) (.sreg 3) = some 5 ∧
    after (.addImm 0 0 3 1) (sAt [(3, 5)]) (.sreg 0) = some 0 := by decide +kernel

theorem test_shifts : after (.sraImm 0 3 1 63) (sAt [(1, 0x8000000000000000)]) (.sreg 3) = some 0xffffffffffffffff ∧
    after (.shr 0 3 1 2) (sAt [(1, 16), (2, 66)]) (.sreg 3) = some 4 ∧ after (.sext 0 3 1 4) (sAt [(1, 0x8)]) (.sreg 3) = some 0xfffffffffffffff8 ∧
    after (.clz 0 3 0) (sAt []) (.sreg 3) = some 64 := by decide +kernel

/-- The hop counts of the example beside DHOP: socket 13 to sockets 8 and 0, and an absent die. -/
theorem test_dhop :
    let b := fun (n : Nat) (k : DieKind) => (⟨k, n, 0⟩ : DieBind)
    let rg := { Region.ofRoot 0 0xffff with rcb := { Rcb.ofRoot 0 0xffff with dbt := [b 13 .compute, b 8 .memory, b 0 .memory, b 0 .absent] } }
    let s := { sAt [(1, 1), (2, 2), (3, 3)] with regions := [(0, rg)] }
    after (.dhop 0 5 0 1) s (.sreg 5) = some 2 ∧ after (.dhop 0 5 0 2) s (.sreg 5) = some 4 ∧ after (.dhop 0 5 0 3) s (.sreg 5) = some 0xffffffffffffffff ∧
      after (.dhop 0 5 0 0) s (.sreg 5) = some 0 := by decide +kernel

/-! ### Transfers and loops (08_scalar: the listing of B0 to B4) -/

theorem test_loop_sets_up :
    let s := sAt [(4, 3)]
    ctxAfter (.loop 0 0 4 6) s (fun c => lookD c.lcnt 0 0) = some 3 ∧
      ctxAfter (.loop 0 0 4 6) s (fun c => (lbAct (lookD c.lbody 0 0), lbAddr (lookD c.lbody 0 0), lbEnd (lookD c.lbody 0 0))) =
        some (true, 0x10001020, 0x10001038) := by decide +kernel

/-- B3 of the listing, the end bundle of level 0 with count 3: back to the start, count 2; with count 1 the level ends. -/
theorem test_back_edge :
    let s := fun n => tAt 0 fun c => { c with lcnt := [(0, n)], lbody := [(0, mkLb 0x10001000 4 true)] }
    ctxAfter .nop (s 3) (fun c => (lookD c.lcnt 0 0, c.run.bind fun r => r.xfer.map rpAddr)) = some (2, some 0x10001000) ∧
      ctxAfter .nop (s 1) (fun c => (lookD c.lcnt 0 0, lbAct (lookD c.lbody 0 0), c.run.bind fun r => r.xfer)) = some (0, false, none) := by decide +kernel

theorem test_call_links : after (.call 0 5) (sAt []) (.sreg 63) = some ((mkRp 0x10001020 0 8 1).setWidth 1024) ∧
    ctxAfter (.call 0 5) (sAt []) (fun c => c.run.bind fun r => r.xfer.map rpAddr) = some (some 0x10001024) := by decide +kernel

/-! ### Vector results (09_vector and 06_formats: the worked examples) -/

/-- vfma.bf16.rtz: a = 2.0 and 1.0, b = 1.0, c = 1.0078125 and 0.00390625. -/
theorem test_vfma_bf16 :
    after (.vfma .bf16 ⟨0, .rtz, false, 3, ⟨.read, 1⟩, .reg ⟨.read, 2⟩⟩) (vAt [(1, 0x3f804000), (2, 0x3f803f80), (3, 0x3b803f81)]) (.vreg 3) = some 0x3f804040 := by
  decide +kernel

theorem test_vcmp_lt :
    let s := vAt [(2, 0x40000000_80000000_7fc00000_3f800000), (3, 0x3f800000_00000000_3f800000_40000000)] [(1, 7)]
    after (.vcmp .f32 .lt ⟨1, 7, 40, ⟨.read, 2⟩, .reg ⟨.read, 3⟩⟩) s (.preg 7) = some 1 ∧
      after (.vcmp .f32 .lt ⟨1, 7, 40, ⟨.read, 2⟩, .reg ⟨.read, 3⟩⟩) s (.preg 40) = some 6 := by decide +kernel

theorem test_vcvt_bf16 :
    let s := vAt [(9, 0xc2f70000_3f818000_3f808000_3f800000)]
    after (.vcvt .f32 .bf16 ⟨0, .rne, false, 8, ⟨.read, 9⟩⟩) s (.vreg 8) = some 0xc2f73f82_3f803f80 ∧
      after (.vcvt .f32 .bf16 ⟨0, .rtz, false, 8, ⟨.read, 9⟩⟩) s (.vreg 8) = some 0xc2f73f81_3f803f80 := by decide +kernel

/-- FP32 to E4M3: 300.0, 460.0 and 470.0, without and with saturation; to E5M2: 300.0. -/
theorem test_fp8 :
    e4m3.round .rne false (fp32.val 0x43960000) = 0x79 ∧ e4m3.round .rne false (fp32.val 0x43e60000) = 0x7e ∧
    e4m3.round .rne false (fp32.val 0x43eb0000) = 0x7f ∧ e4m3.round .rne true (fp32.val 0x43eb0000) = 0x7e ∧
    e4m3.round .rtz false (fp32.val 0x43eb0000) = 0x7e ∧ e5m2.round .rne false (fp32.val 0x43960000) = 0x5d := by decide +kernel

/-- The block of R123's example: 3.0, −0.5, 0.1 and 0.0625. -/
def tBlock : Vec := 0x3d800000_3dcccccd_bf000000_40400000

theorem test_vpkbx : after (.vpkbx .bx8 ⟨0, .rne, false, 4, ⟨.read, 3⟩⟩) (vAt [(3, tBlock)]) (.vreg 4) = some (0x04069060 + 0x17f * 2 ^ 256) ∧
    after (.vpkbx .bx4 ⟨0, .rne, false, 5, ⟨.read, 3⟩⟩) (vAt [(3, tBlock)]) (.vreg 5) = some (0x96 + 0x17f * 2 ^ 128) := by decide +kernel

theorem test_vupbx : after (.vupbx .bx8 ⟨0, .rne, false, 6, ⟨.read, 4⟩⟩) (vAt [(4, 0x04069060 + 0x17f * 2 ^ 256)]) (.vreg 6) =
    some 0x3d800000_3dc00000_bf000000_40400000 := by decide +kernel

/-- The sum in tree order of 1.0, 2^24, 1.0 and −2^24 is 1.0 in every lane. -/
theorem test_vred_add : after (.vredAdd .f32 ⟨6, .rne, false, 2, ⟨.read, 1⟩⟩) (vAt [(1, 0xcb800000_3f800000_4b800000_3f800000)] [(6, 0xf)]) (.vreg 2) =
    some (splat 0x3f800000) := by decide +kernel

/-- VLOG2 of 8.0 is 3.0. -/
theorem test_vlog2 : (after (.vlog2 ⟨0, .rne, false, 2, ⟨.read, 1⟩⟩) (vAt [(1, splat 0x41000000)]) (.vreg 2)).map (fun v => lane v 31) = some 0x40400000 := by
  decide +kernel

/-- The latch of slot VA: held(v20) latches although the guard is false. -/
theorem test_hold :
    let s := vAt [(10, splat 1), (20, splat 5), (30, splat 3)]
    let i := Instr.viadd .i32 ⟨0x40, .rne, false, 10, ⟨.latch, 20⟩, .reg ⟨.read, 30⟩⟩
    (stateAfter i s).map (fun t => (t.settled 768 (.vreg 10), (t.ctx 768).latches.map fun e => e.2)) = some (splat 1, [splat 5]) := by decide +kernel

/-! ### Kerf arithmetic and races (07_kerf, 17_tile: the worked examples) -/

/-- BlockInteger and contribution of a BX4 × BX4 block; BX8 × BX8's 262,145 rounds to 262,144 in AF26. -/
theorem test_block_integer :
    let a := BxBlock.ofBits .bx4 0x96 0x17f
    let b := BxBlock.ofBits .bx4 0x23 0x80
    blockInteger a b = 32 ∧ contribution .bx4 .bx4 a b = .fin false 32 (-3) ∧ af26.val (af26Add 0 (.fin false 262145 0)) = af26.val (af26Add 0 (.fin false 262144 0)) := by
  decide +kernel

theorem test_race_order :
    let keys := [0x3f81, 0xc000, 0x3f80, 0x0000, 0x8000, 0x4040, 0x3f80, 0xbf80]
    arrivals keys false false = [1, 7, 4, 3, 2, 6, 0, 5] ∧ arrivals keys false true = [1, 7, 4, 3, 0, 2, 6, 5] := by decide +kernel

/-- The sums of the TEPI example with ReLU, and their E4M3 bytes. -/
theorem test_tepi :
    let f := fun x b => e4m3.round .rne false (fp32.val (tepiVal 1 (some (bf16.val b)) x))
    f 0x43964000 0xbf00 = 0x79 ∧ f 0xc0400000 0x3f80 = 0 ∧ f 0x43eb0000 0 = 0x7f ∧ f 0x3f800000 0x3e80 = 0x3a := by decide +kernel

/-! ### Memory, rings, pages (13_memops, 14_queues, 15_tables) -/

def sramOf (a : Nat) (n v : Nat) (s : State) : State := { s with mem := s.mem.putNat (scratchPhys false 768 a) n v }

/-- `ld.w s5, s6, #-4`: the load reads little-endian bytes and sign-extends; `ld.bu` reads one. -/
theorem test_load_word :
    let s := sramOf 0xfc 4 0x800000fe (tAt 4 fun c => { c with sregs := [(6, 0x100)] })
    after (.ldW ⟨0, 5, 6, 0x7ffff⟩) s (.sreg 5) = some 0xffffffff800000fe ∧ after (.ldBu ⟨0, 5, 6, 0x7fffc⟩) s (.sreg 5) = some 0xfe ∧
      after (.ldW ⟨0, 0, 6, 0x7ffff⟩) s (.sreg 0) = some 0 ∧ ctxAfter (.ldW ⟨0, 5, 6, 0x7ffff⟩) s (fun c => (c.ldc, c.flights.map (fun f => f.nominal))) = some (1, [4]) := by
  decide +kernel

/-- A store's bytes are in its own context's view at once and reach memory when it performs, after the copy slot of its bundle (12 R234; 13 R257, R270). -/
theorem test_store_then_perform :
    let s := tAt 5 fun c => { c with sregs := [(6, 0x100), (7, 0x0102030405060708)] }
    let t := (stateAfter (.stH ⟨0, 7, 6, 1⟩) s).getD s
    (t.mem.nat (phys (unitTag 192) 0x102) 2, leNat (t.ownBytes 768 6 (phys (unitTag 192) 0x102) 2)) = (0, 0x0708) ∧
      (stateAfter (.storePerform 768) t).map (fun u => u.mem.nat (phys (unitTag 192) 0x100) 8) = some 0 ∧
      (stateAfter (.storePerform 768) (t.modCtx 768 fun c => { c with run := none })).map
        (fun u => (u.mem.nat (phys (unitTag 192) 0x100) 8, (u.ctx 768).stc, u.mem.wf)) = some (0x07080000, 0, true) := by
  decide +kernel

/-- A misaligned load traps: ALIGN at slot 4, FADDR the address (13 R255, 19 R388). -/
theorem test_align :
    let s := tAt 4 fun c => { c with sregs := [(6, 0x101)], sys := { c.sys with evec := 0x10002000 } }
    ctxAfter (.ldW ⟨0, 5, 6, 0⟩) s (fun c => (c.sys.fstat.toNat % 256, c.sys.fstat.toNat / 256 % 8, c.sys.faddr, c.inHandler, c.pc, rpSlot c.sys.epc)) =
      some (5, 4, 0x101, true, 0x10002000, 4) := by decide +kernel

/-- The ring block of the example with RSV, CMT and RD, REL being 6; its context's s12 and s13. -/
def ringAt (r c d v x : Nat) : State :=
  sramOf 0x10002000 32 (0x10010000 + 0x00020040 * 2 ^ 32 + r * 2 ^ 64 + c * 2 ^ 96 + d * 2 ^ 128 + 6 * 2 ^ 160)
    (tAt 7 fun c => { c with sregs := [(12, BitVec.ofNat 64 v), (13, BitVec.ofNat 64 x)] })

/-- s13, p5 and the words RSV, CMT and RD after a ring instruction. -/
def ringAfter (i : Instr) (s : State) : Option (List Nat) :=
  (stateAfter i s).map fun t => [(t.settled 768 (.sreg 13)).toNat, (t.settled 768 (.preg 5)).toNat] ++
    [8, 12, 16].map fun o => t.mem.nat (phys (clusterTag 2) (0x2000 + o)) 4

/-- Steps 1, 3 and 7 of the ring-block example, and the release. -/
theorem test_ring :
    ringAfter (.qacq ⟨0, 5, 12, 13⟩) (ringAt 6 6 6 0x10002000 0) = some [0x0000000610010080, 0xffffffff, 7, 6, 6] ∧
      ringAfter (.qcommit ⟨0, 5, 12, 13⟩) (ringAt 8 6 6 0x10002000 0x00000007100100c0) = some [0x00000007100100c0, 0, 8, 6, 6] ∧
      ringAfter (.qacq ⟨0, 5, 12, 13⟩) (ringAt 8 8 6 0x10002001 0) = some [0x0000000610010080, 0xffffffff, 8, 8, 7] ∧
      ringAfter (.qrel ⟨0, 5, 12, 13⟩) (ringAt 8 8 7 0x10002000 0x0000000610010080) = some [0x0000000610010080, 0xffffffff, 8, 8, 7] := by decide +kernel

/-- The interleaving example: groups of two rows; the lone third row under zero-fill, pack and skip. -/
def ilvPieces (part : Nat) : List (Option Word × Word) :=
  let d := { Desc.blank with cnt := [4, 3, 1, 1, 1, 1], sstr := [8, 32, 0, 0, 0, 0], dstr := [0, 64, 0, 0, 0, 0], ilv := 2, part := part }
  (List.range (d.pieces .cpyil)).map fun n => d.piece .cpyil (fun _ => 0) n

theorem test_interleave :
    ([(some 0, 0), (some 32, 8), (some 8, 16), (some 40, 24), (some 16, 32), (some 48, 40), (some 24, 48), (some 56, 56), (some 64, 64), (none, 72), (some 72, 80),
        (none, 88), (some 80, 96), (none, 104), (some 88, 112), (none, 120)] : List (Option Word × Word)).Perm (ilvPieces 0) ∧
      (ilvPieces 1).drop 8 = [(some 64, 64), (some 72, 72), (some 80, 80), (some 88, 88)] ∧
      (ilvPieces 2).drop 8 = [(some 64, 64), (some 72, 80), (some 80, 96), (some 88, 112)] := by decide +kernel

/-- The leaf entry of the page example: frame 0x1234_0000, writable, interleaved. -/
theorem test_leaf_entry : leafEntry 0x12340000 2 true false = 0x12340017 := by decide +kernel

/-! ### The Y slot (11_generations, 15_tables, 18_counters) -/

/-- `grow s5, s6` on a grid of 10 groups, with 4 and with 0xffff_fff8. -/
theorem test_grow :
    let s := fun v => { tAt 7 (fun c => { c with grid := 1, region := 0, wait := .accepted 0, sregs := [(6, v)] }) with
      grids := [(1, { Grid.reset with live := true, groups := 10 })] }
    after (.grow 0 5 6) (s 4) (.sreg 5) = some 10 ∧ (stateAfter (.grow 0 5 6) (s 4)).map (fun t => (t.grid 1).groups) = some 14 ∧
      after (.grow 0 5 6) (s 0xfffffff8) (.sreg 5) = some 0x8200000000000000 := by decide +kernel

/-- The SNAP of the example opens generation 42 with 41 live. -/
theorem test_snap_opens :
    let s := { tAt 7 (fun c => { c with wait := .cut }) with gencur := 41, live := [3, 7], cut := some ⟨41, 768, 20, true, 0xffff⟩ }
    (stateAfter .open_ s).map (fun t => (t.settled 768 (.sreg 20), t.gencur, t.live)) = some (0x2a0029, 42, [3, 7, 41]) := by decide +kernel

theorem test_gview :
    let s := { tAt 7 (fun c => { c with sregs := [(9, 5)] }) with gencur := 6, live := [5] }
    ctxAfter (.gview 0 21 9) s (fun c => c.sys.gvsel) = some 0x10005 ∧
      after (.gview 0 21 9) { s with live := [4] } (.sreg 21) = some 0x8200000000000000 := by decide +kernel

/-- A span of 0 arms nothing and returns TIME; with all 64 timers armed the result has bit 63 set (18 R382). -/
theorem test_timer :
    let s := { tAt 7 (fun c => { c with sregs := [(6, 2000), (7, 12)] }) with time := 100 }
    (stateAfter (.timer 0 5 7 6) s).isSome = true ∧ after (.timer 0 5 0 7) s (.sreg 5) = some 100 ∧
      after (.timer 0 5 6 7) (s.modCluster 2 fun cl => { cl with timers := (List.range 64).map fun i => (i, ⟨500, 1⟩) }) (.sreg 5) = some 0x8000000000000000 := by
  decide +kernel

/-- The second arrival at a barrier word of TARGET 2 ends the phase, and PERR takes the phase's ERR. -/
theorem test_barrier_phase :
    let s := (tAt 7).modCluster 2 fun cl => { cl with bars := [(4, ⟨2, 1, false, true, false⟩)] }
    (stateAfter (.bara 0 4) s).map (fun t => lookD (t.cluster 2).bars 4 Barrier.reset) = some ⟨2, 0, true, false, true⟩ := by decide +kernel

/-! ### The package (01_package, 05_registers, 18_counters, 20_boundary) -/

/-- An alarm at cycle 1,000 sets STR from cycle 1,002. -/
theorem test_droop :
    let s := State.reset.modCluster 2 fun cl => { cl with cycle := 1000 }
    let tick := fun t => (stateAfter (.arithmeticClockCycle 4) t).getD t
    let t := (stateAfter (.droopAlarm 2 40) s).getD s
    ((t.cluster 2).sticky, (t.cluster 2).droopev, (tick t).cluster 2 |>.droop, (tick (tick t)).cluster 2 |>.droop) = (true, 1, .off, .stretch 1002) := by
  decide +kernel

/-- The hops of the example beside R17: socket 5 to 4, 5 to 11, and 13 to 8 and 0. -/
theorem test_hops : hops 5 4 = 1 ∧ hops 5 11 = 3 ∧ hops 13 8 = 2 ∧ hops 13 0 = 4 := by decide +kernel

/-- A link that fails to retrain a fourth time is down for good, and the queues stop (20 R407, R408). -/
theorem test_link_down :
    let s := { State.reset with retrains := [(4, 3)] }
    (stateAfter (.linkDown 4) s).map (fun t => (t.linksDown, t.gencur, t.mem.nat (windowAddr 0x44) 4)) = some (16, 8, 2) := by decide +kernel

/-! ### Whole steps -/

/-- Each slot's word, placed where the step fetches, runs. -/
theorem test_step_runs_placed_word :
    let run := fun n w d => match step (State.reset.withFetchWord n w) with | .next t => some (t.settled 768 d) | _ => none
    run 44 0x00004010d080 (.sreg 3) = some 16 ∧ run 48 0x000000000000 (.sreg 3) = some 0 ∧
      (match step (State.reset.withFetchWord 32 0x00001580) with | .next t => (t.ctx 768).sys.fstat.toNat % 256 | _ => 0) = 0x0b := by decide +kernel

/-- With no agenda and nothing bound the reset machine's clocks run. -/
theorem test_step_from_reset : (match step State.reset with | .next t => decide (t.time ≤ 1) | _ => false) = true := by decide +kernel

/-- An ill-formed event does nothing; a well-formed one of the agenda runs. -/
theorem test_step_agenda :
    (match step { State.reset with agenda := [.linkRetrain 24 false] } with | .next t => t.retrains | _ => [(9, 9)]) = [] ∧
      (match step { State.reset with agenda := [.linkRetrain 4 false] } with | .next t => t.retrains | _ => []) = [(4, 1)] := by decide +kernel

/-- The root RCBs that the reset machine holds are the resolved root RCBs, field by field (15 R309, R312). -/
theorem test_root_rcbs :
    ([0, 1].all fun p => ((Rcb.ofRoot p State.reset.populated).fields 0).all fun f => State.reset.mem.nat (rootRcbAddr p + f.1) f.2.1 == f.2.2) = true := by
  decide +kernel

/-! ### Witnesses: encoding and the machine -/

theorem test_hyp_SlotsDecodeToExactlyTheLegalEncodings : Instr.slotKind (.vmovs 0 1 2 3) = some .v ∧ Instr.slotKind .nop = none := by decide +kernel

theorem test_hyp_CopyOpcodesAreAssigned :
    (0x00000d4080 : Nat) < 2 ^ 40 ∧ decode .c 0x00000d4080 = .ok (.cpy ⟨0, 20, ⟨0, 0, 0, 3⟩, 0⟩) ∧ 9 ≤ (0x480 : Nat) / 2 ^ 7 % 2 ^ 5 ∧
    Instr.wf (.cpq ⟨0, 20, ⟨0, 0, 0, 3⟩, 15⟩) = true := by decide +kernel

theorem test_hyp_ConversionFormatsAreCoded :
    (0x000001002408ab80 : Nat) < 2 ^ 56 ∧ 0x000001002408ab80 / 2 ^ 7 % 2 ^ 9 = 0x157 ∧
    decode .v 0x000001002408ab80 = .ok (.vcvt .f32 .bf16 ⟨0, .rne, false, 8, ⟨.read, 9⟩⟩) ∧ 0xab80 / 2 ^ 7 % 2 ^ 9 = 0x157 ∧ 0xab80 / 2 ^ 36 % 16 = 0xab80 / 2 ^ 40 % 16 ∧
    Guard.ok 0x2f = true := by decide +kernel

/-- A bundle whose VA slot holds VCVT from FP32 to FP32, which R75 excludes. -/
def tBadRun : Run := { tRun 1 with xb := { tXb with words := [0, 0xab80, 0, 0, 0, 0, 0, 0] } }

theorem test_hyp_ConversionFormatsAreCoded_raise :
    let s := tAt 1 fun c => { c with run := some tBadRun }
    (s.ctx s.cur).run = some tBadRun ∧ tBadRun.slot = 1 ∧ ∃ e, tBadRun.xb.instr tBadRun.slot = .error e := by
  refine ⟨by decide +kernel, by decide +kernel, ?_⟩
  cases h : tBadRun.xb.instr tBadRun.slot with
  | ok i =>
    have : (tBadRun.xb.instr tBadRun.slot).toOption = none := by decide +kernel
    rw [h] at this; simp [Except.toOption] at this
  | error e => exact ⟨e, rfl⟩

/-- An event at the head of the agenda; a bundle in progress whose slot decodes, or does not. -/
theorem test_hyp_StepRunsTheNextInstruction :
    (Instr.isSlot .writeCompletion = false ∧ Instr.wf .writeCompletion = true) ∧
    (∀ s ∈ [tAt 7, tAt 1 fun c => { c with run := some tBadRun }], s.agenda = [] ∧
      (firstOf (fun (f : State → Option Move) => f s) State.internalMoves).isNone = true ∧ s.slotOrder = 768 :: [768] ∧ (s.ctx s.cur).status = .running ∧
      s.waitOver s.cur = true ∧ s.engineReady s.cur 0 = false) ∧ ((tRun 7).issued = (tAt 7).cyc (tAt 7).cur) ∧
    decode .y (tXb.word 7) = .ok .nop ∧ (decode .v (tBadRun.xb.word 1)).toOption = none := by decide +kernel

/-- A context about to issue: the machine with a word placed. -/
theorem test_hyp_StepRunsTheNextInstruction_fetch :
    let s := State.reset.withFetchWord 44 0x00004010d083
    let c := s.ctx s.cur
    s.agenda = [] ∧ (firstOf (fun (f : State → Option Move) => f s) State.internalMoves).isNone = true ∧ c.status = .running ∧ s.waitOver s.cur = true ∧
      c.run = none ∧ c.committing = false ∧ c.ending = false ∧ c.stepDue = false ∧ c.atBoundary = false ∧ s.noIssue s.cur = false ∧ s.lateNext s.cur = false ∧
      c.prot = false ∧ s.slotOrder.head? = some s.cur ∧ s.engineReady s.cur 0 = false ∧
      (match c.locate with
        | .at_ _ b x => decide (b.readyAt x ≤ s.cyc s.cur) && x.defect.isNone && (x.pastEnd c.mapped).isNone && !x.segBit &&
            decide (decode (kindOfSlot (rpSlot c.pc)) (x.word (rpSlot c.pc)) = .ok (.addImm 3 3 1 16))
        | _ => false) = true := by decide +kernel

theorem test_hyp_NopsPassAndTheBundleEnds :
    ((tAt 3).ctx (tAt 3).cur).run = some (tRun 3) ∧ ((tAt 7).ctx (tAt 7).cur).run = some (tRun 7) ∧ (tRun 7).ldl = none ∧
    (tRun 7).brk = false ∧ (tRun 7).segEnd = false ∧ ((tAt 7).ctx (tAt 7).cur).seg = none := by decide +kernel

theorem test_hyp_HardwiredScalar : (tAt 0).atS (tRun 0) := by unfold State.atS; decide +kernel

/-- No result on its way; one of an earlier bundle, landed or in its shadow; one of this bundle; a register this bundle has written. -/
theorem test_hyp_ReadsSeeTheStateBeforeTheBundle :
    let f := fun seq nom => (⟨.vreg 3, 0xffffffff, splat 1, seq, nom, nom, true, .none⟩ : Flight)
    let s := fun l => tAt 1 fun c => { c with flights := l }
    (∀ l ∈ [[], [f 4 0], [f 4 3], [f 5 3]], ((s l).ctx 768).run = some (tRun 1) ∧ oldOf (tRun 1).olds (.vreg 3) = none ∧ ((s l).ctx 768).flights = l) ∧
    (f 4 0).seq < (tRun 1).seq ∧ (f 4 0).nominal ≤ (tRun 1).issued ∧ (tRun 1).issued < (f 4 3).nominal ∧ (tRun 1).seq ≤ (f 5 3).seq ∧
    oldOf [(Dest.vreg 3, splat 7)] (.vreg 3) = some (splat 7) := by decide +kernel

theorem test_hyp_MemoryStaysCanonical : State.reset.mem.wf = true ∧ (match step State.reset with | .next t => t.mem.wf | _ => false) = true := by decide +kernel

def tHandler (c : Ctx) : Ctx := { c with sys := { c.sys with psw := 0x10 } }
def tRegion5 (s : State) : State := { s with regions := put s.regions 5 { Region.ofRoot 0 0xffff with root := false } }

theorem test_hyp_FaultsEnterTheHandler :
    (∀ s ∈ [tAt 4, tAt 4 tHandler, tRegion5 (tAt 4 fun c => { tHandler c with region := 5 })], (s.ctx 768).run = some (tRun 4)) ∧
    (tRun 4).ldl = none ∧ ((tAt 4).ctx 768).inHandler = false ∧ ((tAt 4).ctx 768).held = [] ∧ ((tAt 4).ctx 768).committing = false ∧
    ((tAt 4 tHandler).ctx 768).inHandler = true ∧ ((tAt 4 tHandler).region 0).root = true ∧ ((tRegion5 (tAt 4)).region 5).root = false ∧
    ((tRegion5 (tAt 4)).region 5).live = true ∧ ((tAt 4).ctx 768).mustCommit = false := by decide +kernel

/-- A segment of a lockstep pair, or a commit under way, makes a trap wait; a live grid of a region that fails. -/
theorem test_hyp_FaultsEnterTheHandler_commit :
    let c := fun f => ((tAt 4 f).ctx 768)
    let s := { tRegion5 (tAt 4 fun c => { tHandler c with region := 5 }) with grids := [(1, { Grid.reset with live := true, region := 5 })] }
    ((c fun c => { c with committing := true }).inHandler = false ∧ (c fun c => { c with committing := true }).committing = true) ∧
      ((s.ctx 768).inHandler = true ∧ ∃ e ∈ s.grids, e.2.live = true ∧ e.2.region = (s.ctx 768).region) ∧
      (({ tAt 4 with ctxs := [(768, tCtx 4), (772, { tCtx 4 with region := 5 })] } : State).ctx 772).ofRegions (failSet (tAt 4) 0) = false := by decide +kernel

theorem test_hyp_EretReturns :
    (tAt 7 tHandler).atSlot 7 (tRun 7) ∧ (tAt 7).atSlot 7 (tRun 7) ∧ (tRun 7).brk = false ∧ ((tAt 7 tHandler).ctx 768).inHandler = true ∧
    ((tAt 7).ctx 768).inHandler = false ∧ (tAt 7 tHandler).guard 768 0 = true ∧ (tAt 7 tHandler).guard 768 0x40 = false := by unfold State.atSlot; decide +kernel

/-! ### Witnesses: the S slot -/

/-- ScalarSumsLogicAndShifts, ScalarProductsAndExtremes, ScalarDivisions, ScalarUnary, ComparesAndPredicates and PredicatesToScalars speak of every S slot. -/
theorem test_hyp_scalar_statements : (tAt 0).atS (tRun 0) ∧ (tAt 0).guard 768 0 = true ∧ (tAt 0).guard 768 0x40 = false ∧ Instr.wf (.sext 0 1 2 64) = true ∧
    Instr.wf (.zext 0 1 2 1) = true ∧ Instr.wf (.lit 0 1 true 2) = true := by unfold State.atS; decide +kernel

theorem test_hyp_TransfersTake : (tAt 0).atS (tRun 0) ∧ (tAt 0).guard 768 0 = true ∧ (tAt 0).guard 768 0x40 = false := by unfold State.atS; decide +kernel

/-- LOOP with a count and without; LOOPX of an active level and of an inactive one. -/
theorem test_hyp_LoopsBeginAndEnd :
    let s := tAt 0 fun c => { c with sregs := [(4, 3)], lbody := [(1, mkLb 0x10001000 4 true)] }
    s.atS (tRun 0) ∧ (s.xS 4).setWidth 32 ≠ (0 : BitVec 32) ∧ (s.xS 5).setWidth 32 = (0 : BitVec 32) ∧ lbAct (lookD (s.ctx 768).lbody 1 0) = true ∧
      lbAct (lookD (s.ctx 768).lbody 0 0) = false := by unfold State.atS; decide +kernel

/-- A bundle that ends level 2 and no other, with count `n`; which levels a bundle ends. -/
def tLoop (n : BitVec 32) : State := tAt 0 fun c => { c with lcnt := [(2, n)], lbody := [(2, mkLb 0x10001000 4 true)] }

def tEnds (s : State) : List Bool :=
  (List.range 4).map fun n => lbAct (lookD (s.ctx 768).lbody n 0) && decide ((lbEnd (lookD (s.ctx 768).lbody n 0)).toNat = tXb.addr.toNat)

theorem test_hyp_BackEdgeTestOfEveryBundle :
    (((tLoop 1).ctx 768).run = some (tRun 0) ∧ ((tLoop 3).ctx 768).run = some (tRun 0) ∧ (tRun 0).noBack = false ∧ ((tLoop 1).ctx 768).inHandler = false) ∧
    (tEnds (tLoop 1) = [false, false, true, false] ∧ tEnds (tLoop 3) = [false, false, true, false] ∧ tEnds (tAt 0) = [false, false, false, false]) ∧
    (lookD ((tLoop 3).ctx 768).lcnt 2 0 - 1).toNat = 2 ∧ (lookD ((tLoop 1).ctx 768).lcnt 2 0 - 1).toNat = 0 := by
  refine ⟨by decide +kernel, by decide +kernel, by decide +kernel, by decide +kernel⟩

theorem test_hyp_SystemRegisterReads : (tAt 0).atS (tRun 0) := by unfold State.atS; decide +kernel

theorem test_hyp_SystemRegisterWrites :
    let s := tAt 0 tHandler
    s.atS (tRun 0) ∧ s.guard 768 0 = true ∧ s.guard 768 0x40 = false ∧ (s.ctx 768).inHandler = true ∧ (s.ctx 768).kown = true ∧ (s.cluster 2).seen = [] := by
  unfold State.atS; decide +kernel

theorem test_hyp_PrivilegedWritesTrap :
    accessOf 0x010 = .r ∧ accessOf 0x001 = .h ∧ ((tAt 0).ctx 768).inHandler = false ∧ ((tAt 0 tHandler).ctx 768).inHandler = true ∧
    ((tAt 0 fun c => { c with kown := false }).ctx 768).kown = false := by decide +kernel

theorem test_hyp_TrapInstructionEntersHandler :
    (tAt 0).atS (tRun 0) ∧ (tRun 0).ldl = none ∧ ((tAt 0).ctx 768).inHandler = false ∧ ((tAt 0).ctx 768).held = [] ∧
    ((tAt 0).ctx 768).committing = false ∧ ((tAt 0).ctx 768).mustCommit = false ∧ (tAt 0).guard 768 0 = true ∧ (tAt 0).guard 768 0x40 = false := by unfold State.atS; decide +kernel

/-! ### Witnesses: the vector slots -/

/-- VectorFloatArithmetic, VectorFunctions, VectorIntegers, VectorBitsAndMoves, VectorCompares and VectorConversionsAndReductions speak of every vector slot,
VA and VB, whose registers lie in the window: here its last register. -/
theorem test_hyp_vector_statements : (tAt 1).atV (tRun 1) [63, 0, 63] ∧ (tAt 2).atV (tRun 2) [63, 0, 63] := by unfold State.atV; decide +kernel

theorem test_hyp_BanksAndQueuesFromVectorSlots :
    let s := (tAt 1).modCore 192 fun co => { co with rq := [(2, [splat 5])] }
    s.atV (tRun 1) [63] ∧ (s.ctx 768).kown = true ∧ (7 : BitVec 3).toNat < (s.ctx 768).nbank ∧ (s.ctx 768).openGoals (s.ctx 768).skips ((s.ctx 768).bankWriters 7) = [] ∧
      (s.ctx 768).openGoals (s.ctx 768).skips ((s.ctx 768).bankUsers 7) = [] ∧ (s.ctx 768).openGoals (s.ctx 768).skips ((s.ctx 768).queueGoals 2) = [] ∧
      s.mask 768 0 ≠ 0 ∧ s.mask 768 0x40 = 0 ∧ s.rqRows 768 2 = [splat 5] ∧ s.rqRows 768 3 = [] ∧
      ((tAt 1 fun c => { c with nbank := 2 }).ctx 768).nbank ≤ (2 : BitVec 3).toNat := by unfold State.atV; decide +kernel

theorem test_hyp_RegistersOutsideTheWindowFault :
    ((tAt 1).ctx 768).run = some (tRun 1) ∧ [63, 64, 65].find? (fun x => decide (((tAt 1).ctx 768).win ≤ x)) = some 64 := by decide +kernel

/-! ### Witnesses: the T slot -/

/-- A descriptor of one plane of `e2` rows of `e3` elements, a row every `16 * s2` bytes (17 R345). -/
def tTd (base side e2 e3 s2 fmt : Nat) : BitVec 256 :=
  BitVec.ofNat 256 (base + side * 2 ^ 32 + 2 ^ 64 + 2 ^ 80 + e2 * 2 ^ 96 + e3 * 2 ^ 112 + s2 * 2 ^ 176 + fmt * 2 ^ 200)

/-- td4 and td5: BX8 operands of an MMA; td2: eight BF16 keys; td3, td6, td7: one, eight and three results; td9, td10: FP32 rows of four. -/
def tTds : Tab (BitVec 256) :=
  [(2, tTd 0x100 0 1 8 1 1), (3, tTd 0x200 0 1 1 1 3), (4, tTd 0x1000 0x4000 16 512 32 8), (5, tTd 0x8000 0xc000 32 512 32 8), (6, tTd 0x200 0 1 8 2 3),
   (7, tTd 0x200 0 1 3 1 3), (9, tTd 0x2000 0 1 4 1 0), (10, tTd 0x2100 0 1 4 1 0)]

def tTile : State := (tAt 3 fun c => { c with tds := tTds }).modCore 192 fun co => { co with rq := [(2, [splat 5])] }

def tD (n : Nat) : TD := TD.ofBits (lookD tTds n 0)

theorem test_hyp_TileInstructionsAppendNodes_slot :
    (∀ tds ∈ ([[4, 5], [3, 2], [6, 2], [7, 2], [5], [], [9, 10], [9, 10, 10]] : List (List (BitVec 5))), tTile.atT (tRun 3) 0 tds) ∧
    (tTile.ctx 768).nodes.length < 128 ∧ (tTile.ctx 768).kown = true ∧ (7 : BitVec 3).toNat < (tTile.ctx 768).nbank ∧
    (lookD (tTile.core 192).rq 2 []).length + lookD (tTile.core 192).rqv 2 0 + 15 ≤ 16 ∧ 16 < (lookD (tTile.core 192).rq 2 []).length + lookD (tTile.core 192).rqv 2 0 + 16 := by
  unfold State.atT State.atSlot; decide +kernel

theorem test_hyp_TileInstructionsAppendNodes_descriptors :
    checkDescs [⟨4, 1, tD 4, (tD 4).isBx && (tD 4).e0 == 1 && (tD 4).e1 == 1 && (tD 4).e2 ≤ 16 && (tD 4).mapK, true⟩,
      ⟨5, 2, tD 5, (tD 5).isBx && (tD 5).e0 == 1 && (tD 5).e1 == 1 && (tD 5).e2 ≤ 32 && (tD 5).e3 == (tD 4).e3 && (tD 5).mapK && (tD 5).e3 ≤ 512, false⟩] = none ∧
    (∀ x ∈ [(3, 1), (6, 8), (7, 3)], let D := tD x.1
      checkDescs [⟨BitVec.ofNat 5 x.1, 0, D, D.fmt == 3 && D.e0 == (tD 2).e0 && D.e1 == (tD 2).e1 && D.e2 == (tD 2).e2 && D.e3 == x.2 && D.asDest, false⟩,
        ⟨2, 1, tD 2, (tD 2).fmt == 1 && (tD 2).e3 ≤ 32 && (tD 2).kind != 1, false⟩] = none) ∧
    checkDescs [⟨5, 2, tD 5, (tD 5).isBx && (tD 5).e0 == 1 && (tD 5).e1 == 1 && (tD 5).e2 ≤ 32 && 16 ≤ (tD 5).e3 && (tD 5).e3 ≤ 512 && (tD 5).kind == 0, true⟩] = none ∧
    checkDescs [⟨9, 0, tD 9, floatDest (tD 9) && (tD 9).e0 == 1 && (tD 9).e1 == 1 && (tD 9).e2 ≤ 16 && (tD 9).e3 ≤ 32 && (tD 9).asDest, false⟩,
      ⟨10, 2, tD 10, (tD 10).fmt ≤ 2 && (tD 10).sameExtents (tD 9), false⟩] = none ∧
    checkDescs [⟨9, 0, tD 9, floatDest (tD 9) && (tD 9).asDest, false⟩, ⟨10, 1, tD 10, (tD 10).fmt ≤ 2 || (tD 10).isBx, false⟩,
      ⟨10, 2, tD 10, (tD 10).fmt ≤ 2 || (tD 10).isBx, false⟩] = none := by decide +kernel

/-- A node of a TEW that writes td9 from td10, with no tokens. -/
def tNode : Node :=
  { appc := mkRp 0x10001000 3 0 0, seq := 1, op := 0x0d, failed := false, rfast := false, bankDst := false, qDst := false, acc := 5, passes := 0
    toks := ⟨0, 0, 0, 0⟩, koutBind := 0, kinBind := [], fcode := 0, nt := 1, aux := 0, done := 0, dd := lookD tTds 9 0, da := lookD tTds 10 0, db := 0, appSeq := 3 }

theorem test_hyp_TileSlotsThatActAtOnce :
    let s := (tTile.modCtx 768 fun c => { c with sregs := [(10, 0x10000100)] }).modCluster 2 fun cl => { cl with cycle := 2 }
    let n := s.modCtx 768 fun c => { c with nodes := [tNode] }
    let c := s.ctx 768
    (∀ l ∈ ([[], [9]] : List (List (BitVec 5))), s.atT (tRun 3) 0 l ∧ n.atT (tRun 3) 0 l) ∧ c.kown = true ∧ (7 : BitVec 3).toNat < c.nbank ∧ c.prot = false ∧
      checkDescs [⟨9, 0, tD 9, true, false⟩] = none ∧ c.openGoals false (c.readGoals ((tD 9).areas (tD 9).full)) = [] ∧
      (n.ctx 768).openGoals false ((n.ctx 768).readGoals ((tD 9).areas (tD 9).full)) ≠ [] ∧ (n.ctx 768).openGoals false (n.ctx 768).allGoals ≠ [] ∧
      (∀ j, (n.core (coreOf 768)).job = some j → ∀ m ∈ (n.ctx 768).nodes, m.failed = true → m.seq ≠ j.seq) ∧ c.nodeOf (3, (c.tok 3).bind) = none ∧
      (let m := { tNode with failed := true, toks := { kout := 3, kin0 := 0, kin1 := 0, kin2 := 0 }, koutBind := 1 }
       let b := (s.modCtx 768 fun c => { c with nodes := [m], toks := [(3, ⟨.pending, false, 1⟩)] }).ctx 768
       (3 : BitVec 4) ≠ 0 ∧ b.nodeOf (3, (b.tok 3).bind) = some m ∧ (b.tok m.toks.kout.toNat).st = .pending ∧ (b.tok m.toks.kout.toNat).bind = m.koutBind) ∧
      (∀ m ∈ (n.ctx 768).nodes, m.toks.kout = 0 ∧ m.qDst = false ∧ m.op.toNat ≠ 0x0e) ∧ ((n.ctx 768).nodes.map Node.seq).Nodup ∧ c.tlc < 63 ∧
      (s.xS 10).toNat + 32 * (2 : BitVec 7).toInt = 0x10000140 ∧ spaceOf 0x10000140 = 1 ∧ inRange false 0x10000140 32 = true ∧
      s.demands (c.readGoals [areaOf 0x10000140 32]) = [] ∧ s.mustNotRead 768 (tRun 3).seq [(scratchPhys false 768 0x10000140, 32)] = false ∧ s.bufFull 768 3 = false ∧
      s.demands (c.bankUsers 7) = [] ∧ s.drainedAll 768 (tRun 3).seq = true ∧ Max.max c.workAt (tRun 3).issued + 2 ≤ s.cyc 768 + 1 ∧ c.openGoals false c.allGoals = [] ∧ s.demands c.allGoals = [] := by
  unfold State.atT State.atSlot; decide +kernel

/-- A TSTORE of a bank row and one of a scratchpad tile. -/
theorem test_hyp_TileStoreWritesItsTiles :
    let s := tTile.modCluster 2 fun cl => { cl with cycle := 2 }
    let c := s.ctx 768
    s.atT (tRun 3) 0 [9] ∧ s.atT (tRun 3) 0 [9, 10] ∧ c.kown = true ∧ (7 : BitVec 3).toNat < c.nbank ∧
      checkDescs [⟨9, 0, tD 9, (tD 9).asDest && ((tD 9).e0 == 1 && (tD 9).e1 == 1 && (tD 9).e2 ≤ 16 && (tD 9).e3 ≤ 32), false⟩] = none ∧
      checkDescs [⟨9, 0, tD 9, (tD 9).asDest && (tD 10).sameExtents (tD 9), false⟩, ⟨10, 1, tD 10, (tD 10).fmt != 6 && (tD 10).fmt != 7, false⟩] = none ∧
      kinsOf c.tok ⟨0, 0, 0, 0⟩ = [] ∧ c.openGoals false (c.bankWriters 7) = [] ∧ c.openGoals false (c.readGoals ((tD 10).areas (tD 10).full)) = [] ∧
      c.openGoals false (c.writeGoals ((tD 9).areas (tD 9).full)) = [] ∧ s.drainedAll 768 (tRun 3).seq = true ∧
      Max.max c.workAt (tRun 3).issued + ((tD 9).bytes + 255) / 256 ≤ s.cyc 768 + 1 ∧ (tD 9).tiles = 1 := by unfold State.atT State.atSlot; decide +kernel

/-- An open segment. -/
def tSeg : Seg :=
  { point := mkRp 0x10001000 0 0 0, bundles := 1, stores := 0, rewound := false, performed := false, toks := [], lcnt := [], lbody := [], loopRp := []
    popped := [], counts := (0, 0, 0, 0) }

theorem test_hyp_TileSlotsUnderAFalseGuardOrInASegment :
    let s := tAt 3 fun c => { c with seg := some tSeg }
    s.atSlot 3 (tRun 3) ∧ (s.ctx 768).kown = true ∧ (7 : BitVec 3).toNat < (s.ctx 768).nbank ∧ s.guard 768 0x40 = false ∧ s.guard 768 0 = true ∧
      (tileToks (.force 0x40 0 2 0)).kout = 0 ∧ (s.ctx 768).seg.isSome = true ∧ s.acquiring 768 (tRun 3).seq = false := by unfold State.atSlot; decide +kernel

/-! ### Witnesses: memory -/

/-- Base s6 at the bottom, and its last legal byte, of each memory that a context reaches; `v7` holds word indices. -/
def tMem (n : Nat) (base : BitVec 64) : State :=
  tAt n fun c => { c with sregs := [(6, base)], vregs := [(7, ofLanes fun i => BitVec.ofNat 32 i)] }

theorem test_hyp_LoadsReadWhatTheContextSees :
    ∀ b ∈ [(0x0, 1), (0x5fff8, 8), (0x10000000, 128), (0x11fffffc, 4), (0x20000000, 128), (0x30000000, 4), (0x37fffff8, 8), (0xe0000010, 4)],
      let s := tMem 4 (BitVec.ofNat 64 b.1)
      s.atSlot 4 (tRun 4) ∧ s.guard 768 0 = true ∧ s.engineOpen (tRun 4) 4 ∧ (s.ctx 768).ldc < 63 ∧ s.inWindow [63] ∧ (s.ctx 768).seg = none ∧
        s.legalAt ((s.readS 768 6).toNat + 0) b.2 1 ∧ s.demands ((s.ctx 768).readGoals [areaOf b.1 b.2]) = [] ∧ s.mustNotRead 768 (tRun 4).seq [(s.at b.1, b.2)] = false ∧
        s.windowOpen (socketOf 768) [s.at b.1] = true ∧ s.lockMine (lockOf (s.at b.1)) 768 = true ∧
        ({ s with locks := [(lockOf (s.at b.1), ⟨772, 1, 0, 0⟩)] }).lockMine (lockOf (s.at b.1)) 768 = false := by
  unfold State.atSlot State.engineOpen State.inWindow State.legalAt State.at; decide +kernel

theorem test_hyp_LoadsReadWhatTheContextSees_gather :
    let s := tMem 4 0x100
    let x : Nat → Int := fun l => (s.readS 768 6).toNat + ((lane (s.readV 768 7) l).toNat * 2 ^ 2 : Nat)
    s.inWindow [63, 7] ∧ (∀ l, l < 32 → s.legalAt (x l) 4 4) ∧ s.demands ((s.ctx 768).readGoals ((List.range 32).map fun l => areaOf (x l).toNat 4)) = [] ∧
      s.mustNotRead 768 (tRun 4).seq ((List.range 32).map fun l => (s.at (x l), 4)) = false ∧
      s.windowOpen (socketOf 768) ((List.range 32).map fun l => s.at (x l)) = true := by
  unfold State.inWindow State.legalAt State.at; decide +kernel

/-- The context's own bytes: none at an address; one, the last of its stores. -/
theorem test_hyp_LoadsReadWhatTheContextSees_own :
    let o := fun v => (⟨.plain, [(100, v)], 100, 1, [(100, 1)], 0, .u⟩ : StoreOp)
    let c := (tAt 4 fun c => { c with stq := [⟨1, 0, o 7, none⟩, ⟨2, 0, o 9, none⟩] }).ctx 768
    (c.ownCells 5).all (fun x => decide (x.1 ≠ 101)) = true ∧ c.ownCells 5 = [(100, 7)] ++ (100, 9) :: [] := by decide +kernel

theorem test_hyp_StoresEnterTheirQueue :
    ∀ b ∈ [(0x0, 1), (0x5fff8, 8), (0x10000000, 128), (0x11fffffc, 4), (0x20000000, 128), (0x30000000, 4)],
      let s := (tMem 5 (BitVec.ofNat 64 b.1)).modCore 192 fun co => { co with rq := [(2, [splat 5])] }
      let g := s.modCtx 768 fun c => { c with seg := some tSeg }
      s.atSlot 5 (tRun 5) ∧ s.guard 768 0 = true ∧ s.engineOpen (tRun 5) 5 ∧ (s.ctx 768).stc < 63 ∧ s.inWindow [63] ∧ (s.ctx 768).seg = none ∧
        s.legalAt ((s.readS 768 6).toNat + 0) b.2 1 ∧ s.demands ((s.ctx 768).writeGoals [areaOf b.1 b.2]) = [] ∧ s.demands (s.ctx 768).scratchGoals = [] ∧
        s.demands ((s.ctx 768).queueGoals 2) = [] ∧ s.rqRows 768 2 = splat 5 :: [] ∧ s.rqRows 768 3 = [] ∧ g.atSlot 5 (tRun 5) ∧ (g.ctx 768).seg.isSome = true ∧
        g.bufFull 768 5 = false := by
  unfold State.atSlot State.engineOpen State.inWindow State.legalAt; decide +kernel

theorem test_hyp_StoresEnterTheirQueue_scatter :
    let s := tMem 5 0x100
    let x : Nat → Int := fun l => (s.readS 768 6).toNat + ((lane (s.readV 768 7) l).toNat * 2 ^ 2 : Nat)
    s.inWindow [63, 7] ∧ (∀ l, l < 32 → s.legalAt (x l) 4 4) ∧ s.demands ((s.ctx 768).writeGoals ((List.range 32).map fun l => areaOf (x l).toNat 4)) = [] := by
  unfold State.inWindow State.legalAt; decide +kernel

/-- Addresses that fault: the host window without its right; misaligned; past the unit scratchpad's end; past 2^32; in no space. -/
theorem test_hyp_AccessesThatMayNotHappenFault :
    let noWin := { tMem 4 0xe0000000 with regions := [(0, { Region.ofRoot 0 0xffff with rcb := { Rcb.ofRoot 0 0xffff with hwin := false } })] }
    ((tMem 4 0).ctx 768).run = some (tRun 4) ∧ (tMem 4 0).guard 768 0 = true ∧ (tMem 4 0).guard 768 0x40 = false ∧ (tMem 4 0).engineOpen (tRun 4) 4 ∧
      (tMem 4 0).engineOpen (tRun 4) 5 ∧ (tRun 4).slot = 4 ∧ (tRun 5).slot = 5 ∧ ((tMem 4 0).ctx 768).ldc < 63 ∧ ((tMem 5 0).ctx 768).stc < 63 ∧ ((tMem 5 0).ctx 768).run = some (tRun 5) ∧
      (tMem 5 0).guard 768 0x40 = false ∧ (tMem 5 0).engineOpen (tRun 5) 5 ∧ spaceOf ((noWin.readS 768 6).toNat) = 14 ∧ (noWin.rcb 768).hwin = false ∧ ((tMem 4 0x101).readS 768 6).toNat % 4 ≠ 0 ∧
      inRange false 0x60000 4 = false ∧ inRange false 0x5fffe 4 = false ∧ inRange false 0x40000000 4 = false ∧ crossesStripe false 0x60000 4 = false ∧
      2 ^ 32 ≤ ((tMem 4 0x100000000).readS 768 6).toNat := by unfold State.engineOpen; decide +kernel

def tPend (kd : StoreKind) : State :=
  tAt 7 fun c => { c with run := none, stc := 1, stq := [⟨3, 0, ⟨kd, [(phys (unitTag 192) 0x100, 7)], phys (unitTag 192) 0x100, 4, [(0x100, 4)], 4, .u⟩, none⟩] }

theorem test_hyp_StoresPerformAtMemory :
    (∀ kd ∈ [.plain, .release, .unlock 3, .atomic .add 5 1 0], ((tPend kd).ctx 768).stq.length = 1 ∧ (tPend kd).storeReady 768 = true) ∧
    (tPend (.atomic .add 5 1 0)).lockMine (lockOf (phys (unitTag 192) 0x100)) 768 = true ∧
    ([(5, (1 : BitVec 8)), (6, 2)] : List Host.Cell) = [(5, 1)] ++ (6, 2) :: [] := by decide +kernel

def tEngCmd : Cmd :=
  { id := 0, kind := .cpy, k := 768, gen := 0, region := 0, desc := Desc.blank, mapped := false, gv := none, kins := [], kout := 0, koutBind := 0, seq := 3
    started := false, next := 0, total := 1, code := none, data := [], reads := [], waitLanding := false, tries := 0, acceptedAt := 0 }

/-- An instruction of each kind in front of its engine; a result and a load about to land behind another. -/
theorem test_hyp_EnginesAcceptAndResultsLand :
    let fl : Flight := ⟨.sreg 3, 0xffffffff, 7, 3, 4, 4, false, .none⟩
    let o : LoadOp := ⟨.scalar false, .sreg 3, [(phys (unitTag 192) 0x100, 4)], [(0x100, 4)], 4⟩
    let ops := [EngOp.copy tEngCmd, .store ⟨.plain, [], 0, 0, [], 4, .u⟩, .result false [fl] 1, .load o, .tdld 4 (phys (unitTag 192) 0x100) 4, .append 1 []]
    let s := fun e => tAt 7 fun c => { c with buf := [⟨3, 0, 0, 4, e⟩], flights := [fl] }
    let early : Flight := ⟨.sreg 4, 0xffffffff, 7, 2, 9, 9, true, .none⟩
    let landed := fun (ctr : Ctr) => (tAt 7 fun c => { c with flights := [early, ⟨.sreg 3, 0xffffffff, 7, 3, 0, 0, true, ctr⟩] }).ctx 768
    (∀ op ∈ ops, let b : BufOp := ⟨3, 0, 0, 4, op⟩
      ((s op).ctx 768).buf.find? (fun x => x.eng == b.eng) = some b ∧ b.eng < 8 ∧ (s op).canAccept 768 b = true) ∧
    (∀ pd, o.kind ≠ .lock pd) ∧ fl ∈ [fl] ∧ (∀ f ∈ [fl], f.nominal = fl.nominal) ∧ (∀ f ∈ [fl], { f with nominal := early.nominal } ≠ early) ∧
    (∀ ctr ∈ [Ctr.none, .ldc], (landed ctr).flights = [early] ++ ⟨.sreg 3, 0xffffffff, 7, 3, 0, 0, true, ctr⟩ :: [] ∧ 0 ≤ (tAt 7).cyc 768 ∧ (tAt 7).cyc 768 < early.due ∧
      early.dest ≠ .sreg 3) :=
  ⟨by decide +kernel, fun _ h => (nomatch h), by decide +kernel, by decide +kernel, by decide +kernel, by decide +kernel⟩

/-- A lock asked for by an LDL and by an atomic; one held for 64 cycles of its die; an LDL that has waited for 256. -/
theorem test_hyp_EnginesAcceptAndResultsLand_locks :
    let l := lockOf (phys (unitTag 192) 0x100)
    let o : LoadOp := ⟨.lock 5, .sreg 3, [(phys (unitTag 192) 0x100, 4)], [(0x100, 4)], 4⟩
    let q := { (tAt 7) with lockReqs := [⟨l, 768, false, some (o, 3), 0⟩] }
    let a := { tPend (.atomic .add 5 1 0) with lockReqs := [⟨l, 768, false, none, 0⟩] }
    o.kind = .lock 5 ∧ o.lock = l ∧ q.lockReqs = [] ++ ⟨l, 768, false, some (o, 3), 0⟩ :: [] ∧ q.lockOpen l 768 = true ∧
    ((a.ctx 768).stq.map fun p => p.op.kind) = [.atomic .add 5 1 0] ∧ a.lockOpen l 768 = true ∧
    (let t := { q with locks := [(l, ⟨772, 1, 0, 0⟩)] }.modCluster 2 fun cl => { cl with cycle := 256, fifths := 256 }
     look? t.locks l = some ⟨772, 1, 0, 0⟩ ∧ 0 + 64 * (t.die 1).period ≤ (t.cluster (clusterOf 772)).fifths ∧ 0 + 256 ≤ t.cyc 768) := by decide +kernel

/-! ### Witnesses: copies -/

/-- The descriptor of a copy of four 8-byte elements of the unit scratchpad, 0x100 to 0x200, as its 128 bytes (13 R271). -/
def tDescBytes : Nat := 0x100 + 0x200 * 2 ^ 64 + (4 + 2 ^ 32 + 2 ^ 64 + 2 ^ 96 + 2 ^ 128 + 2 ^ 160) * 2 ^ 128 + 8 * 2 ^ 320 + 8 * 2 ^ 512

def tCopy (base : BitVec 64) : State :=
  (sramOf 0x1000 128 tDescBytes (tAt 6 fun c => { c with sregs := [(20, base)] })).modCore 192 fun co => { co with rq := [(2, [splat 5])] }

theorem test_hyp_CopyCommandsEnterTheQueue :
    let s := tCopy 0x1000
    let c := s.ctx 768
    let d := Desc.ofBytes (s.ownBytes 768 (tRun 6).seq (scratchPhys false 768 0x1000) 128)
    s.atSlot 6 (tRun 6) ∧ s.guard 768 0 = true ∧ s.guard 768 0x40 = false ∧ s.engineOpen (tRun 6) 6 ∧ s.copyRoom 2 = true ∧ s.copyTurn 192 = true ∧ c.cpc < 63 ∧ c.tlc < 63 ∧
      (s.readS 768 20).toNat = 0x1000 ∧ d.bad .cpy = false ∧ d.pieces .cpy = 4 ∧ s.demands (c.readGoals [areaOf 0x1000 128]) = [] ∧
      s.mustNotRead 768 (tRun 6).seq [(scratchPhys false 768 0x1000, 128)] = false ∧ c.seg = none ∧
      (∀ kd ∈ [CmdKind.cpy, .cpyil, .cgath, .tmv, .ccoll, .cpre, .cflush],
        s.demands (c.kinGoals (c.copyKins ⟨0, 0, 0, 3⟩) ++ c.readGoals (d.srcAreas kd (s.collBlocks c.region d))) = []) ∧
      (1 : BitVec 6).getLsbD 0 = true ∧ (0 : BitVec 6).getLsbD 0 = false ∧ s.demands (c.queueGoals 2) = [] ∧ s.rqRows 768 2 = [splat 5] ∧ s.rqRows 768 3 = [] ∧
      ((tCopy 0x1004).readS 768 20).toNat % 128 ≠ 0 ∧ ((tCopy 0x60000).readS 768 20).toNat % 128 = 0 ∧ 0x60000 ≤ ((tCopy 0x60000).readS 768 20).toNat ∧
      (((s.modCtx 768 fun c => { c with seg := some tSeg }).ctx 768).seg.isSome = true) := by
  unfold State.atSlot State.engineOpen; decide +kernel

/-- A copy command of four pieces, as it stands before and after its start. -/
def tCmd (kd : CmdKind) (started : Bool) (next : Nat) : Cmd :=
  { id := 1, kind := kd, k := 768, gen := 0, region := 0
    desc := { Desc.blank with src := 0x100, dst := 0x200, cnt := [4, 1, 1, 1, 1, 1], sstr := [8, 0, 0, 0, 0, 0], dstr := [8, 0, 0, 0, 0, 0] }
    mapped := false, gv := none, kins := [], kout := 3, koutBind := 1, seq := 3, started := started, next := next, total := 4, code := none, data := []
    reads := [], waitLanding := false, tries := 0, acceptedAt := 0 }

def tWith (m : Cmd) : State :=
  { tAt 7 (fun c => { c with cpc := 1, tlc := 1, toks := [(3, ⟨.pending, false, 1⟩)] }) with cmds := [m], cmdSrc := 1 }

/-- A command that may start; its first and its last piece; its completion. -/
theorem test_hyp_CopiesStartMoveAndComplete :
    (∀ kd ∈ [CmdKind.cpy, .tmv],
      (tWith (tCmd kd false 0)).cmds.find? (fun (x : Cmd) => x.id == 1) = some (tCmd kd false 0) ∧ (tWith (tCmd kd false 0)).canStart (tCmd kd false 0) = true ∧
      (∀ n ∈ [0, 3], let m := tCmd kd true n
        let s := tWith m
        let e := m.desc.piece m.kind (fun _ => 0) m.next
        m.started = true ∧ m.waitLanding = false ∧ m.next < m.total ∧ m.desc.svirt = false ∧ m.desc.dvirt = false ∧ s.cut = none ∧ m.desc.esize ≤ 9 ∧ m.k < 12288 ∧
          e.1 = some (BitVec.ofNat 64 (0x100 + 8 * n)) ∧ e.2.toNat = 0x200 + 8 * n ∧ spaceOf 0x100 ≠ 14 ∧
          (∀ a ∈ [0x100 + 8 * n, 0x200 + 8 * n], a % 8 = 0 ∧ inRange m.mapped a 8 = true ∧ crossesStripe m.mapped a 8 = false) ∧ (s.ctx m.k).openGoals false ((s.ctx m.k).touchGoals (m.ownLanding e.2 8)) = []) ∧
      (tWith (tCmd kd true 4)).piecesDone (tCmd kd true 4) = true ∧ ((tWith (tCmd kd true 4)).ctx 768).gen = (tCmd kd true 4).gen) ∧
    (tWith (tCmd .cpy true 4) |>.ctx 768).tok 3 = ⟨.pending, false, 1⟩ ∧
    (let s := (tWith { tCmd .cpy true 4 with desc := { Desc.blank with dcen := true, dc := 12 } }).modCluster 2 fun cl => { cl with dcs := [(12, ⟨1, false, []⟩)] }
     (lookD (s.cluster 2).dcs 12 DepCtr.reset).count ≠ 0 ∧ (lookD (s.cluster 2).dcs 12 DepCtr.reset).links = []) ∧
    (let m := { tCmd .cpy true 4 with code := some 0x27 }
     (tWith m).piecesDone m = true ∧ ((tWith m).ctx 768).gen = m.gen ∧ m.kout ≠ 0 ∧ m.code = some 0x27) := by decide +kernel

/-- A piece that reads die SRAM of socket 1 through virtual die 1, with a retry left and with none; a held landing. -/
theorem test_hyp_CopiesStartMoveAndComplete_transport :
    let m := { tCmd .cpy true 0 with desc := { (tCmd .cpy true 0).desc with svirt := true, src := 0x0010000000000100, retry := 1 } }
    let p := fun m => (tWith m).piece m (some 0x0010000000000100) (m.desc.piece .cpy (fun _ => 0) 0).2
    let l := { tCmd .cpy true 0 with waitLanding := true, data := [(phys (unitTag 192) 0x200, 7)] }
    ((m.desc.piece .cpy (fun _ => 0) 0).1 = some 0x0010000000000100 ∧ (p m).nowhere = false ∧ (p m).parts ≠ [] ∧
      (tWith m).canTravel m (touchedBytes ((p m).reads ++ (p m).writes)) = true ∧
      (let m := { m with tries := 1 }; (tWith m).canTravel m (touchedBytes ((p m).reads ++ (p m).writes)) = true) ∧ m.tries < m.desc.retry ∧ (p m).codes = [] ∧
      (p { m with tries := 1 }).codes = [] ∧ m.desc.retry ≤ ({ m with tries := 1 } : Cmd).tries ∧ m.code = none) ∧
    l.waitLanding = true ∧ isGen (phys (unitTag 192) 0x200) = false ∧ ownerSocket (phys (unitTag 192) 0x200) = socketOf l.k ∧ (tWith l).cut = none ∧ (tWith l).landingGoals l = [] := by decide +kernel

/-- A broadcast in group 0 of region 0, whose table lies in die SRAM of socket 1 (which a warm reset leaves undefined), with one
member: the issuer's cluster. -/
def tColl : Cmd := { tCmd .ccoll true 0 with
  total := 1, desc := { Desc.blank with src := 0x100, dst := 0x200, cnt := [1, 1, 1, 1, 1, 1], aux := 0 } }

def tCollState (tab : Nat) (word : Nat) : State :=
  let s := tWith tColl
  { s with
    regions := [(0, { Region.ofRoot 0 0xffff with rcb := { Rcb.ofRoot 0 0xffff with colltab := 0x0010000000001000 } })]
    mem := (({ s.mem with warm := true } : Memory).putNat (phys (dieTag 1) 0x1000) 32 tab).putNat (phys (dieTag 1) 0x2000) 4 word }

def tCollTable : State := tCollState (1 + 0x0010000000002000 * 2 ^ 64) (ownWord 2)

theorem test_hyp_CopiesStartMoveAndComplete_nogroup : (tCollState 0 0).membersOf tColl = none ∧
    (tCollState 0 0).cmds.find? (fun (x : Cmd) => x.id == 1) = some tColl ∧ tColl.next < tColl.total := by decide +kernel

/-- The step of the broadcast, as `m`. -/
def tStep (m : Cmd) : State := { tCollTable with cmds := [m] }

/-- The result of member 0 of the one that has arrived. -/
def tOut (m : Cmd) : Option (List Byte) := collResult m.desc.aux (m.desc.cnt.headD 0) 0 ((tStep m).collAll [(0, m)] 1 [])

/-- One member, which has started and arrived; it agrees with itself, may travel, and is repeated while tries are left; one that has another LEN. -/
theorem test_hyp_CopiesStartMoveAndComplete_group :
    (tStep tColl).membersOf tColl = some [ownWord 2] ∧
    ((localMembers [ownWord 2]).map fun p => (p.1, (tStep tColl).instanceOf tColl.region (collGroup tColl.desc.aux) p.2)) = [(0, tColl)].map (fun p => (p.1, some p.2)) ∧
    (∀ m ∈ [tColl, { tColl with desc := { tColl.desc with retry := 1 } }],
      let src := (tStep m).collSrc m 1 0
      m.started = true ∧ m.id = 1 ∧ partsGone src = false ∧ partCodes src = [] ∧ (tStep m).badReads.contains m.id = false ∧
        partsGone ((tStep m).collDst m (tOut m)) = false ∧
        (tStep m).collCut 1 (fun p => partRanges ((tStep m).collDst p.2 (tOut m))) (0, m) = false ∧
        (tStep m).canTravel m (touchedBytes (partRanges src ++ partRanges ((tStep m).collDst m (tOut m)))) = true) ∧
    Nat.min tColl.desc.retry ((tStep tColl).region 0).rcb.cretry ≤ tColl.tries ∧
    tColl.tries < Nat.min 1 ((tStep tColl).region 0).rcb.cretry ∧ collKey { tColl with desc := { tColl.desc with cnt := [2, 1, 1, 1, 1, 1] } } ≠ collKey tColl ∧
    (let m := tColl
     let s := tStep m
     let bs : List Byte := [1, 2, 3, 4, 5, 6, 7, 8]
     m.desc.dvirt = false ∧ s.cut = none ∧ bs.length = 8 ∧ m.desc.dst.toNat = 0x200 ∧ spaceOf 0x200 ≠ 14 ∧ inRange m.mapped 0x200 8 = true ∧
       crossesStripe m.mapped 0x200 8 = false ∧ (s.ctx m.k).openGoals false ((s.ctx m.k).touchGoals (m.ownLanding m.desc.dst 8)) = []) := by
  obtain ⟨p, hp⟩ : ∃ p, Config.pkg.toNat = p := ⟨_, rfl⟩
  have hl : p < 65536 := hp ▸ Config.pkg.isLt
  have hx : ownWord 2 = p + 65536 := by rw [ownWord, memberWord, hp]; norm_num
  have hw : tCollTable.mem.nat (phys (dieTag 1) 0x2000) 4 = ownWord 2 := by
    have h : Memory.wf (({ (tWith tColl).mem with warm := true } : Memory).putNat (phys (dieTag 1) 0x1000) 32 (1 + 0x0010000000002000 * 2 ^ 64)) = true := by
      decide +kernel
    exact (Memory.nat_putNat h _ _ _).trans (Nat.mod_eq_of_lt (by rw [hx]; omega))
  have ha : tCollTable.groupEntry 0 0 = some (phys (dieTag 1) 0x1000) := by decide +kernel
  have hn : tCollTable.mem.nat (phys (dieTag 1) 0x1000) 4 = 1 ∧ tCollTable.mem.nat (phys (dieTag 1) 0x1000 + 4) 4 = 0 ∧
      tCollTable.mem.nat (phys (dieTag 1) 0x1000 + 16) 16 = 0 ∧ tCollTable.mem.nat (phys (dieTag 1) 0x1000 + 8) 8 = 0x0010000000002000 := by decide +kernel
  have hv : tCollTable.vaPhys 0 (0x0010000000002000#64) = some (phys (dieTag 1) 0x2000) := by decide +kernel
  have hb : bits (ownWord 2) 21 11 = 0 := by rw [hx, bits]; omega
  have hg : tCollTable.groupMembers 0 0 = some [ownWord 2] := by
    rw [State.groupMembers, ha]
    simp [hn, hv, hw, hb]
  have he : tStep tColl = tCollTable := rfl
  have hi : tCollTable.instanceOf 0 0 2 = some tColl := by decide +kernel
  rw [he]
  refine ⟨?_, ?_, by decide +kernel, by decide +kernel, by decide +kernel, by decide +kernel, by decide +kernel⟩
  · simp [State.membersOf, show tColl.region = 0 from rfl, show collGroup tColl.desc.aux = 0 from rfl, hg, countIf, show clusterOf tColl.k = 2 from rfl]
  · have h1 : bits (ownWord 2) 0 16 = p := by rw [hx, bits]; omega
    have h2 : 2 * bits (ownWord 2) 16 4 + bits (ownWord 2) 20 1 = 2 := by rw [hx, bits, bits]; omega
    simp [localMembers, h1, h2, hp, show tColl.region = 0 from rfl, show collGroup tColl.desc.aux = 0 from rfl, hi]

/-! ### Witnesses: the Y slot -/

def tHeld : BufOp := ⟨4, 0, 0, 4, .store ⟨.plain, [], 0, 0, [], 4, .u⟩⟩

/-- Every condition that a wait tests, met and not met; a segment with an operation held. -/
theorem test_hyp_WaitsEndWhenTheirConditionHolds :
    let r := { tRun 7 with toks0 := [(3, ⟨.pending, false, 1⟩)] }
    let s := (tAt 7 fun c => { c with ldc := 1, toks := [(3, ⟨.pending, false, 1⟩)], run := some r }).modCluster 2 fun cl => { cl with dcs := [(12, ⟨1, false, []⟩)] }
    let z := tAt 7
    let c := s.ctx 768
    (z.atSlot 7 (tRun 7) ∧ s.atSlot 7 r ∧ s.guard 768 0 = true ∧ s.guard 768 0x40 = false) ∧
      (let h := (tAt 7 fun c => { c with seg := some tSeg, held := [tHeld] }).ctx 768; h.held ≠ [] ∧ h.mustCommit = true) ∧
      c.ldc ≤ (1 : BitVec 4).toNat ∧ ¬ c.ldc ≤ (0 : BitVec 4).toNat ∧ (c.tok0 3).st = .pending ∧ (c.tok0 4).st ≠ .pending ∧ (c.tok0 0).st ≠ .pending ∧
      s.demands (c.kinGoals [(3, (c.tok0 3).bind)]) = [] ∧ s.kinOpen 768 (3, (c.tok0 3).bind) = true ∧
      (s.modCtx 768 fun c => { c with toks := [(3, ⟨.produced, false, 1⟩)] }).kinOpen 768 (3, 1) = false ∧
      ((tAt 7 fun c => { c with wait := .dcMet 12 true }).ctx 768).wait = .dcMet 12 true ∧
      (let h := (tAt 7 fun c => { c with seg := some tSeg, held := [tHeld], stc := 1, wait := .pathCycle 9 }).ctx 768
       h.held ≠ [] ∧ h.countersDone = true) ∧ (lookD (s.cluster 2).dcs 12 DepCtr.reset).count ≠ 0 ∧ (lookD (s.cluster 2).dcs 511 DepCtr.reset).count = 0 ∧
      s.demands c.scratchGoals = [] ∧ c.held = [] ∧ (tRun 7).ldl = none ∧ c.ldc ≠ 0 ∧
      ((z.ctx 768).ldc = 0 ∧ (z.ctx 768).stc = 0 ∧ (z.ctx 768).cpc = 0 ∧ (z.ctx 768).tlc = 0 ∧ (z.ctx 768).wait = .none) ∧
      ((tAt 7 fun c => { c with wait := .pathCycle 9 }).ctx 768).wait = .pathCycle 9 ∧ (z.ctx 768).inHandler = false ∧
      (z.ctx 768).committing = false ∧ (z.ctx 768).mustCommit = false :=
  ⟨by unfold State.atSlot; decide +kernel, by decide +kernel⟩

/-- A continuation of grid 1 that waits in the overflow ring of region 0, which is full. -/
def tSpilled (s : State) : State :=
  let e : Ready := ⟨2, 0x11f80000, 0, 1, 0, 0, 0, none, false⟩
  { s with
    grids := [(1, { Grid.reset with live := true, groups := 10 })], conts := [(contKey 2 0x11f80400, ⟨1, none, false, false⟩)]
    regions := [(0, { Region.ofRoot 0 0xffff with ring := [e], ringTail := 1 })] }

def tFree (s : State) : State :=
  { s with grids := [(1, { Grid.reset with live := true, groups := 10 })], conts := [(contKey 2 0x11f80400, ⟨1, none, false, false⟩)] }

/-- DCSET to 0 with nothing linked, with a continuation linked that can become ready, and with one that cannot; TIMER with a timer free and with none;
expiry early, of a count above 1, of a count of 1, and of 0. -/
theorem test_hyp_CountersAndTimersAct :
    let s := fun l => (tAt 7 fun c => { c with sregs := [(9, 0), (10, 3), (11, 2000)] }).modCluster 2 fun cl => { cl with dcs := [(12, ⟨2, false, l⟩)] }
    let set := fun (s : State) => (s.closeSeg 768).modCluster 2 fun c => { c with dcs := put c.dcs 12 ⟨0, false, []⟩ }
    let full := (s []).modCluster 2 fun cl => { cl with timers := (List.range 64).map fun i => (i, ⟨500, 1⟩) }
    ((s []).atSlot 7 (tRun 7) ∧ (s []).guard 768 0 = true ∧ (s []).alone (tRun 7)) ∧
      look? ((s []).cluster 2).decAt 12 ≠ some ((s []).cyc 768) ∧
      (let n := (s []).modCluster 2 fun cl => { cl with decAt := [(12, 0)] }; look? (n.cluster 2).decAt 12 = some (n.cyc 768)) ∧ ((s []).readS 768 10).setWidth 16 ≠ (0 : BitVec 16) ∧
      ((s []).readS 768 9).setWidth 16 = (0 : BitVec 16) ∧
      (State.readyLinks 2 false [0x11f80400] (set (tFree (s [0x11f80400])))).isSome = true ∧
      State.readyLinks 2 false [0x11f80400] (set (tSpilled (s [0x11f80400]))) = none ∧
      ((s []).readS 768 9).toNat % 2 ^ 32 = 0 ∧ ((s []).readS 768 11).toNat % 2 ^ 32 ≠ 0 ∧ look? ((s []).cluster 2).timers 63 = none ∧
      (∀ i, i < 64 → look? (full.cluster 2).timers i ≠ none) :=
  ⟨by unfold State.atSlot State.alone; decide +kernel, by decide +kernel⟩

theorem test_hyp_CountersAndTimersAct_expiry :
    let s := fun t n => { (State.reset.modCluster 2 fun cl => { cl with dcs := [(12, ⟨n, false, []⟩)], timers := [(5, ⟨500, 12⟩)] }) with time := t }
    look? ((s 0 0).cluster 2).timers 5 = some ⟨500, 12⟩ ∧ (s 499 0).time < 500 ∧ 500 ≤ (s 500 0).time ∧
      [0, 1, 2, 65535].map (fun n => (lookD ((s 500 n).cluster 2).dcs 12 DepCtr.reset).count) = [0, 1, 2, 65535] := by decide +kernel

/-- Arrival with everything retired and with a load out; BARW unarmed, in the phase it arrived in, and after it. -/
theorem test_hyp_BarriersArriveWaitAndTest :
    let s := tAt 7 fun c => { c with barst := 0x10 }
    let late := tAt 7 fun c => { c with barst := 0x10, ldc := 1, flights := [⟨.sreg 3, 0xffffffff, 0, 3, 9, 9, false, .ldc⟩] }
    (s.atSlot 7 (tRun 7) ∧ s.guard 768 0 = true ∧ (s.ctx 768).seg = none ∧ s.released) ∧ (late.ctx 768).seg = none ∧ late.demands (late.ctx 768).scratchGoals = [] ∧ late.priorDone 768 = false ∧
      (let g := fun b => (tAt 7 fun c => { c with seg := some tSeg, held := [⟨4, 0, 0, 4, .sync (some b)⟩] }).ctx 768
       (g 4).seg.isSome = true ∧ (g 4).held.any (fun (x : BufOp) => x.op == .sync (some 4)) = true ∧ (g 5).held.any (fun (x : BufOp) => x.op == .sync (some 4)) = false) ∧
      ((tAt 7 fun c => { c with wait := .phaseMet }).ctx 768).wait = .phaseMet ∧
      (s.ctx 768).barst.getLsbD 3 = false ∧ (s.ctx 768).barst.getLsbD 4 = true ∧
      (lookD (s.cluster 2).bars 4 Barrier.reset).phase = (s.ctx 768).barst.getLsbD (32 + 4) ∧
      (let t := s.modCluster 2 fun cl => { cl with bars := [(4, ⟨96, 0, true, false, false⟩)] }
       (lookD (t.cluster 2).bars 4 Barrier.reset).phase ≠ (t.ctx 768).barst.getLsbD (32 + 4)) :=
  ⟨by unfold State.atSlot State.released; decide +kernel, by decide +kernel⟩

/-- SNAP during a cut, without the right, with a link down, with seven live, and free to go; GVIEW of s0, of a mark, of a generation that is not live, of one that
is, and of the current one. -/
theorem test_hyp_SnapshotsBeginAndViewsAreSelected :
    let s := { tAt 7 (fun c => { c with sregs := [(9, 5), (10, 0x8000000000000000), (11, 7), (12, 6)] }) with gencur := 6, live := [5] }
    let z := tAt 7
    let noRight := { s with regions := [(0, { Region.ofRoot 0 0xffff with rcb := { Rcb.ofRoot 0 0xffff with snapRight := false } })] }
    (s.atSlot 7 (tRun 7) ∧ s.guard 768 0 = true ∧ s.alone (tRun 7) ∧ z.alone (tRun 7)) ∧
      ({ s with cut := some ⟨6, 768, 20, false, 0⟩ } : State).cut ≠ none ∧ s.cut = none ∧
      ((s.closeSeg 768).snapAsk 768).snapQ = (768, false) :: [] ∧ ({ s with snapQ := [(772, true)] }.snapAsk 768).snapQ = (772, true) :: [(768, false)] ∧
      ({ s with snapQ := [(768, true)] }.snapAsk 768).snapQ = (768, true) :: [] ∧ ((tAt 7 fun c => { c with wait := .pathTime 9 }).ctx 768).wait = .pathTime 9 ∧ (noRight.region 0).rcb.snapRight = false ∧
      (s.region (s.ctx 768).region).rcb.snapRight = true ∧ ({ s with linksDown := 16 } : State).linksDown ≠ 0 ∧ s.linksDown = 0 ∧
      ({ s with live := [0, 1, 2, 3, 4, 5, 6] } : State).live.length = 7 ∧ z.live = [] ∧ (z.closeSeg 768).demands (z.ctx 768).scratchGoals = [] ∧
      ((z.ctx 768).ldc = 0 ∧ (z.ctx 768).stc = 0 ∧ (z.ctx 768).cpc = 0 ∧ (z.ctx 768).tlc = 0 ∧ (z.ctx 768).wait = .none) ∧
      (s.readS 768 10).getLsbD 63 = true ∧ (s.readS 768 9).getLsbD 63 = false ∧ (s.readS 768 9).setWidth 16 ∈ s.live ∧
      (s.readS 768 11).setWidth 16 ≠ s.gencur ∧ (s.readS 768 11).setWidth 16 ∉ s.live ∧ (s.readS 768 12).setWidth 16 = s.gencur :=
  ⟨by unfold State.atSlot State.alone; decide +kernel, by decide +kernel⟩

/-- A context in the dispatcher's hands, for SPAWN and for GROW; SPAWN with the pool empty, linked, and ready; GROW without the right, by 0, past 2^32, in a mapped
grid by a number that 96 does not divide, and free to go. -/
theorem test_hyp_SpawnAndGrowAreAccepted :
    let run := { tRun 7 with xb := { tXb with words := [0, 0, 0, 0, 0, 0, 0, BitVec.ofNat 56 (encode (.spawn 0 5 6 7))] } }
    let s := tFree (tAt 7 fun c => { c with grid := 1, wait := .accept, run := some run, sregs := [(7, 0x20c), (8, 4), (9, 0xfffffff8)] })
    let a := s.modCtx 768 fun c => { c with wait := .accepted 0x11f80000 }
    let dc := fun n => a.modCluster 2 fun cl => { cl with dcs := [(12, ⟨n, false, []⟩)] }
    (a.atSlot 7 run ∧ a.guard 768 0 = true ∧ a.alone run ∧ (a.closeSeg 768).released) ∧
      ((s.ctx 768).wait = .accept ∧ (s.ctx 768).run = some run ∧ run.xb.instr run.slot = .ok (.spawn 0 5 6 7)) ∧
      ({ s with poolKib := 0 } : State).poolFree 2 = 0 ∧ s.poolFree 2 ≠ 0 ∧ s.recFree 2 0x11f80000 = true ∧ s.recFree 2 0x11f80400 = false ∧
      s.canReady (s.childOf 768 0x11f80000) = true ∧ ((a.readS 768 7).toNat.testBit 9 && (lookD ((dc 3).cluster 2).dcs 12 DepCtr.reset).count != 0) = true ∧
      ((a.readS 768 7).toNat.testBit 9 && (lookD ((dc 0).cluster 2).dcs 12 DepCtr.reset).count != 0) = false ∧
      (a.region 0).rcb.growRight = true ∧ (a.readS 768 0).toNat = 0 ∧ 2 ^ 32 ≤ (a.grid 1).groups + (a.readS 768 9).toNat % 2 ^ 32 ∧
      (a.grid 1).groups + (a.readS 768 8).toNat % 2 ^ 32 < 2 ^ 32 ∧ (a.readS 768 8).toNat % 96 ≠ 0 ∧ (a.grid 1).mapped = false ∧ State.reset.mem.wf = true :=
  ⟨by unfold State.atSlot State.alone State.released; decide +kernel, by decide +kernel⟩

theorem test_hyp_SpawnAndGrowAreAccepted_grow :
    let run := { tRun 7 with xb := { tXb with words := [0, 0, 0, 0, 0, 0, 0, BitVec.ofNat 56 (encode (.grow 0 5 6))] } }
    run.xb.instr run.slot = .ok (.grow 0 5 6) ∧
      (let s := { tAt 7 with regions := [(0, { Region.ofRoot 0 0xffff with rcb := { Rcb.ofRoot 0 0xffff with growRight := false } })] }
       (s.region 0).rcb.growRight = false ∧ (s.closeSeg 768).demands (s.ctx 768).scratchGoals = [] ∧ s.alone run) ∧
      (let s := { tAt 7 with grids := [(1, { Grid.reset with live := true, groups := 96, mapped := true })] }
       (s.grid 1).mapped = true ∧ (s.grid 1).groups + 4 < 2 ^ 32) := by
  unfold State.alone; decide +kernel

/-- A suspension point that drains; one that waits for its Kerf's pass; the last continuation of a grid and another; WAITON with a counter at 0 and not. -/
theorem test_hyp_SuspensionPointsFreeTheContext :
    let s := tFree (tAt 7 fun c => { c with grid := 1, record := 0x11f80400 })
    let u := s.closeSeg 768
    let job := s.modCore 192 fun co => { co with job := some ⟨768, 1, 1, false, 0, [], Plane.reset, Plane.reset, [], false⟩ }
    let last := { s with grids := [(1, { Grid.reset with live := true, groups := 10, issued := 10, conts := 1 })] }
    let wo := { s with mem := s.mem.putNat (clusterPhys 2 0x11f80400 + 0x28) 4 0x20c }
    (s.atSlot 7 (tRun 7) ∧ s.guard 768 0 = true ∧ s.alone (tRun 7) ∧ u.demands (s.ctx 768).allGoals = []) ∧
      ((s.ctx 768).ldc = 0 ∧ (s.ctx 768).stc = 0 ∧ (s.ctx 768).tlc = 0 ∧ (s.ctx 768).flights = [] ∧ (s.ctx 768).inHandler = false) ∧
      ((tAt 7 fun c => { c with stc := 1 }).ctx 768).stc ≠ 0 ∧ (job.ctx 768).kown = true ∧ (job.core (coreOf 768)).job = some ⟨768, 1, 1, false, 0, [], Plane.reset, Plane.reset, [], false⟩ ∧
      (s.core (coreOf 768)).job = none ∧ ((last.grid 1).live = true ∧ (last.grid 1).issued = (last.grid 1).groups ∧ (last.grid 1).conts ≤ 1) ∧
      (s.grid 1).issued ≠ (s.grid 1).groups ∧ s.mem.wf = true ∧ s.time < 2 ^ 64 ∧ s.mustSpill (s.readyOf 2 0x11f80400) = false ∧
      (s.mem.nat (clusterPhys 2 0x11f80400 + 0x28) 4).testBit 9 = false ∧ (wo.mem.nat (clusterPhys 2 0x11f80400 + 0x28) 4).testBit 9 = true ∧ wo.mem.wf = true ∧
      (let t := wo.modCluster 2 fun cl => { cl with dcs := [(12, ⟨3, false, []⟩)] }
       (lookD (t.cluster 2).dcs (0x20c % 512) DepCtr.reset).count ≠ 0) ∧ (lookD (wo.cluster 2).dcs (0x20c % 512) DepCtr.reset).count = 0 :=
  ⟨by unfold State.atSlot State.alone; decide +kernel, by decide +kernel⟩

/-- A block address outside the spaces, past the last block, misaligned, with its side bit, and good; the block empty, full, and with room. -/
theorem test_hyp_RingBlocksActAtomically :
    let bad := fun v => decide (2 ^ 32 ≤ v) || decide (spaceOf (v % 2 ^ 32 / 32 * 32) ≠ 1 ∧ spaceOf (v % 2 ^ 32 / 32 * 32) ≠ 3) || !inRange false (v % 2 ^ 32 / 32 * 32) 32
    let rd := fun (s : State) o => s.mem.nat (scratchPhys false 768 0x10002000 + o) 4
    let good := fun (s : State) => decide (s.mem.nat (scratchPhys false 768 0x10002000 + 24) 8 = 0 ∧ rd s 4 < 2 ^ 20 ∧ rd s 4 % 2 ^ 16 % 8 = 0 ∧
      8 ≤ rd s 4 % 2 ^ 16 ∧ rd s 4 % 2 ^ 16 ≤ 32768 ∧ rd s 16 - rd s 20 ≤ rd s 12 - rd s 20 ∧ rd s 12 - rd s 20 ≤ rd s 8 - rd s 20 ∧ rd s 8 - rd s 20 ≤ 4)
    let s := ringAt 8 7 6 0x10002000 0x0000000710010080
    (s.atSlot 7 (tRun 7) ∧ s.guard 768 0 = true ∧ s.alone (tRun 7) ∧ (s.closeSeg 768).released) ∧
      ([0x100002000, 0x2000, 0x12000000, 0x10002002, 0x10002001, 0x10002000, 0x11ffffe0, 0x37ffffe0].map bad = [true, true, true, false, false, false, false, false]) ∧
      (0x10002002 % 32 / 2 ≠ 0 ∧ 0x10002001 % 2 = 1) ∧ (s.closeSeg 768).ringOpen 768 (scratchPhys false 768 0x10002000) = true ∧
      (let l := { s with locks := [(lockOf (scratchPhys false 768 0x10002008), ⟨772, 1, 0, 0⟩)] }
       (l.closeSeg 768).ringOpen 768 (scratchPhys false 768 0x10002000) = false ∧ (l.closeSeg 768).released) ∧
      (let p := s.modCtx 768 fun c => { c with stq := [⟨3, 0, ⟨.plain, [(scratchPhys false 768 0x10002010, 7)], scratchPhys false 768 0x10002010, 4, [(0x10002010, 4)], 4, .u⟩, none⟩] }
       (p.ctx 768).storing (tRun 7).seq [(scratchPhys false 768 0x10002000, 32)] = true ∧
         (s.ctx 768).storing (tRun 7).seq [(scratchPhys false 768 0x10002000, 32)] = false) ∧
      (let l := s.modCtx 768 fun c => { c with buf := [⟨4, 0, 0, 4, .load ⟨.scalar false, .sreg 3, [(scratchPhys false 768 0x10002008, 8)], [(0x10002008, 8)], 20⟩⟩] }
       l.readsBefore 768 (tRun 7).seq [(scratchPhys false 768 0x10002000, 32)] = true ∧ s.readsBefore 768 (tRun 7).seq [(scratchPhys false 768 0x10002000, 32)] = false) ∧
      (good s = true ∧ rd s 16 ≠ rd s 12 ∧ rd s 8 - rd s 20 ≠ 4 ∧ (s.readS 768 13).toNat / 2 ^ 32 = rd s 12 ∧ rd s 12 ≠ rd s 8) ∧
      (good (ringAt 10 10 10 0x10002000 0x0000000600000000) = true ∧ rd (ringAt 10 10 10 0 0) 8 - rd (ringAt 10 10 10 0 0) 20 = 4) ∧
      ((ringAt 10 10 10 0 0x0000000600000000).readS 768 13).toNat / 2 ^ 32 = rd (ringAt 10 10 10 0 0) 20 ∧ good (tAt 7) = false :=
  ⟨by unfold State.atSlot State.alone State.released; decide +kernel, by unfold State.released; decide +kernel⟩

/-! ### Witnesses: nodes, contexts, the dispatcher -/

/-- A node of opcode `op` with destination `d`, operands `a` and `b`, and kins bound to `kins`. -/
def tOp (op d a b : Nat) (kins : List (Nat × Nat)) : Node :=
  { tNode with op := BitVec.ofNat 7 op, acc := 0, passes := 16, kinBind := kins, dd := lookD tTds d 0, da := lookD tTds a 0, db := lookD tTds b 0 }

/-- The context demands tile 0 of the node; `landing`: a landing demands it. -/
def tDemand (n : Node) (kcal : Word) (landing : Bool) : State :=
  (tAt 3 fun c => { c with
    status := .blocked, wait := .demand, nodes := [n], goals := if landing then [] else [⟨1, 1⟩], landGoals := if landing then [⟨1, 1⟩] else [] }).modCore 192
    fun co => { co with kcal := kcal }

def tRuns (n : Node) (kcal : Word) (landing : Bool) : Bool := match (tDemand n kcal landing).runnable 768 n.isRace with | some (m, t, l, _) => m == n && t == 1 && l == landing | none => false

theorem test_hyp_DemandedNodesRunRetireOrFail :
    (tRuns (tOp 8 0 0 5 []) 0 false && tRuns (tOp 9 0 0 0 []) 0 false && tRuns (tOp 0x0c 9 0 10 []) 0 false && tRuns (tOp 0x0d 9 10 10 []) 0 false &&
      tRuns (tOp 0x0e 0 0 0 []) 0 false && tRuns (tOp 1 0 4 5 []) 1 false && tRuns (tOp 1 0 4 5 []) 0 true && tRuns (tOp 2 0 4 5 []) 1 true &&
      tRuns (tOp 5 6 2 0 []) 1 false) = true ∧
    (let n := tOp 1 0 4 5 []
     let c := (tDemand n 1 false).ctx 768
     c.nodes = [n] ∧ c.goals = [⟨n.seq, 1⟩] ∧ n.kinBind = [] ∧ n.done = 0 ∧ n.all ≠ 0 ∧ n.failed = false ∧ c.stq = [] ∧ c.buf = [] ∧ c.flights = [] ∧ n.strm = false ∧ c.begun = none ∧
       ((tDemand n 1 false).core 192).job = none ∧ ((tDemand n 1 false).core 192).fwPend = [] ∧ ((tDemand n 1 false).core 192).passCal = none ∧
       c.inHandler = false ∧ c.mustCommit = false ∧ c.held = [] ∧ c.committing = false ∧ c.run = some (tRun 3) ∧ (tRun 3).ldl = none ∧ n.passCount = 1 ∧ ((tDemand n 1 false).core 192).kcal.toNat % 4 = 1 ∧ n.daT.e2 ≤ 16 ∧ n.dbT.e2 ≤ 32) ∧
    (tOp 5 6 2 0 []).raceRows 1 = [(0, 0, 0)] := by decide +kernel

/-- A node whose tiles are done retires; one with a kin that carries ERR fails. -/
theorem test_hyp_DemandedNodesRunRetireOrFail_retire :
    let n := { tOp 0x0d 9 10 10 [] with done := 1, toks := ⟨0, 0, 0, 3⟩, koutBind := 1 }
    let f := tOp 0x0d 9 10 10 [errKin]
    let s := (tDemand n 0 false).modCtx 768 fun c => { c with toks := [(3, ⟨.pending, false, 1⟩)] }
    (s.ctx 768).node 1 = some n ∧ n.op ≠ 0x0e ∧ (match s.nextAction 768 with | (.retire 1, false) => true | _ => false) = true ∧
      (s.ctx 768).tok 3 = ⟨.pending, false, 1⟩ ∧ ((tDemand f 0 false).ctx 768).node 1 = some f ∧
      (match (tDemand f 0 false).nextAction 768 with | (.fail 1 _, false) => true | _ => false) = true := by decide +kernel

/-- SCRIBE not begun, early and due; codes in range and one of them out of range; firmware writes. -/
theorem test_hyp_DemandedNodesRunRetireOrFail_scribe :
    let s := fun t => { ((tAt 3 fun c => { c with wait := .scribe }).modCore 192 fun co => { co with scribe := some (768, 100) }) with time := t }
    let bad := fun n => ((List.range 64).map fun i => if i = n then (7 : BitVec 7) else 64)
    ((tAt 3).core 192).scribe = none ∧ ((s 0).core 192).settleWrites = (s 0).core 192 ∧ ((s 0).core 192).scribe = some (768, 100) ∧ (s 41059).time < 100 + 40960 ∧ 100 + 40960 ≤ (s 41060).time ∧
      ((s 0).core 192).fwPend = [] ∧ ((s 0).ctx 768).prot = false ∧ (tAt 3).inPass 192 = false ∧ (List.replicate 64 (64 : BitVec 7)).length = 64 ∧ ((s 0).ctx 768).wait = .scribe ∧
      (List.replicate 64 (64 : BitVec 7)).all (fun c => 8 ≤ c.toNat && c.toNat ≤ 119) = true ∧ (bad 37).length = 64 ∧ ((bad 37).getD 37 0).toNat < 8 ∧
      ((bad 37).take 37).all (fun c => 8 ≤ c.toNat && c.toNat ≤ 119) = true ∧ ((s 0).core 192).scribe.isSome = true ∧ (63 : BitVec 7).toNat < 64 := by decide +kernel

/-- Two ready contexts; a blocked one whose wait is over, and one whose wait is not, beside a running one; the selector on an idle core. -/
theorem test_hyp_SelectorGivesIssueToTheBestReadyContext :
    let c := fun st w (p : Nat) => { tCtx 7 with status := st, wait := w, boundPrio := p }
    let at5 := fun l => ({ State.reset with ctxs := l } : State).modCluster 2 fun cl => { cl with cycle := 5 }
    let two := at5 [(768, c .ready .none 5), (770, c .ready .none 7)]
    let busy := fun w => at5 [(768, c .blocked w 5), (769, c .running .none 5)]
    let idle := fun (s : State) => (List.range 4).all fun j => decide ((s.ctx (768 + j)).status ≠ .running ∧
      ¬ ((s.ctx (768 + j)).wait = .follower ∧ (s.ctx (768 + j - 4)).status = .running) ∧ ¬ ((s.ctx (768 + j)).status = .blocked ∧ (s.ctx (768 + j)).since = s.cyc 768))
    two.chosen 192 = some 770 ∧ (∀ w ∈ [Wait.none, .counters], ((busy w).ctx 768).status = .blocked) ∧ (busy .none).waitOver 768 = true ∧
      (busy (.pathTime 9)).waitOver 768 = false ∧ ((busy .none).ctx 769).status = .running ∧ 769 / 4 = 768 / 4 ∧ (two.ctx 768).status ≠ .blocked ∧
      (two.ctx 768).since < two.cyc 768 ∧ idle two = true ∧ idle (busy (.pathTime 9)) = false ∧ (at5 []).chosen 192 = none ∧
      (two.core 192).lastCtx ≠ 770 % 4 ∧ ((two.modCore 192 fun co => { co with lastCtx := 2 }).core 192).lastCtx = 770 % 4 := by decide +kernel

/-- A block of one bundle, RDV set, and a context that has issued from it. -/
def tBlock1 : Block := ⟨0x10001000, 0x10001020, false, [{ tXb with pfx := 2 }], none, 0, 0⟩
def tFetch (f : Ctx → Ctx) : State :=
  tAt 0 fun c => f { c with run := none, pc := mkRp 0x10001010 0 4 0, halves := (some tBlock1, none), curHalf := false, halfAt := some 0 }

theorem test_hyp_FetchTrapsAndRewindsBetweenBundles :
    let c := (tFetch id).ctx 768
    let st := (tFetch fun c => { c with stepDue := true }).ctx 768
    let rd := (tFetch fun c => { c with prot := true, inStep := false }).ctx 768
    (c.halfAt = some 0 ∧ c.half c.curHalf = some tBlock1 ∧ tBlock1.defect = none ∧ c.refetch = false ∧ c.half (!c.curHalf) = none) ∧
      (let n := (tFetch fun c => { c with halves := (some tBlock1, some { tBlock1 with head := 0x10001020 }) }).ctx 768
       n.half (!n.curHalf) = some { tBlock1 with head := 0x10001020 } ∧ tBlock1.next = 0x10001020) ∧
      (((tFetch fun c => { c with refetch := true }).ctx 768).refetch = true ∧ c.status ≠ .free ∧ c.run = none) ∧
      (rd.prot = true ∧ rd.inStep = false ∧ (match rd.locate with | .at_ _ _ x => x.pfx.getLsbD 1 | _ => false) = true) ∧
      (st.stepDue = true ∧ st.run = none ∧ st.status = .running ∧ st.ending = false ∧ st.committing = false ∧ st.mustCommit = false ∧ st.held = [] ∧ st.inHandler = false) ∧
      Ctx.reset.status = .free ∧ Ctx.reset.prot = false := by decide +kernel

theorem test_hyp_FetchTrapsAndRewindsBetweenBundles_faults :
    let t : Trap := ⟨0x10, 0, 0, true⟩
    let inSlot := (tAt 3 fun c => { c with landFault := some t, status := .blocked }).ctx 768
    let between := (tFetch fun c => { c with landFault := some t }).ctx 768
    let u := (tRegion5 (tAt 3 fun c => { c with region := 5, seg := some tSeg }))
    let done := fun g => (tAt 3 fun c => { c with seg := some g }).ctx 768
    let pops := (tAt 3 fun c => { c with seg := some { tSeg with popped := [(2, splat 5)] }, goals := [⟨1, 1⟩] }).ctx 768
    (inSlot.landFault = some t ∧ inSlot.committing = false ∧ inSlot.run = some (tRun 3) ∧ inSlot.status = .blocked ∧ inSlot.begun = none ∧ ((tAt 3).core 192).job = none ∧ between.ending = false) ∧
      (between.landFault = some t ∧ between.run = none ∧ between.status ≠ .free ∧ rpSlot between.pc = 0 ∧ between.held = [] ∧ between.mustCommit = false ∧ between.begun = none ∧ between.inHandler = false ∧
        t.late = true ∧ t.code ≠ 0x0a ∧ t.code ≠ 0x0c) ∧
      ((u.ctx 768).seg = some tSeg ∧ tSeg.rewound = false ∧ tSeg.performed = false ∧ (u.ctx 768).status ≠ .free ∧ (u.ctx 768).wait ≠ .follower) ∧
      (pops.seg = some { tSeg with popped := [(2, splat 5)] } ∧ pops.goals ≠ [] ∧ pops.kown = true) ∧
      (∀ g ∈ [{ tSeg with rewound := true }, { tSeg with performed := true }], (done g).seg = some g ∧ (done g).status ≠ .free ∧ (done g).wait ≠ .follower) ∧
      ((u.region 5).root = false ∧ (u.region 5).live = true ∧ (u.region 0).root = true ∧ ((tAt 3).ctx 768).seg = none) := by decide +kernel

/-- A striped grid and a mapped one in cluster 2, region 0. -/
def tGrid (mapped : Bool) : Grid :=
  { Grid.reset with live := true, lrec := 0x10000000, entry := 0x10001000, groups := 96, win := 64, nbank := 8, kerf := true, mapped := mapped, clusters := [2], conts := 1 }

def tGrids (mapped : Bool) : State := { State.reset with grids := [(1, tGrid mapped)] }
def tRecs : List (BitVec 32) := (List.range 96).map fun i => BitVec.ofNat 32 (0x11f80000 + 64 * i)

theorem test_hyp_DispatcherIssuesAndContextsBind_issue :
    let s := tGrids false
    let full := { tSpilled s with grids := [(1, tGrid false)] }
    (s.grid 1).live = true ∧ (s.grid 1).mapped = false ∧ (s.grid 1).issued < (s.grid 1).groups ∧
      (full.queueRoom 2 (full.region (full.grid 1).region).rcb.prio 1 = false ∧ (full.grid 1).clusters = [2]) ∧
      s.queueRoom 2 (s.region (s.grid 1).region).rcb.prio 1 = true ∧ s.recFree 2 0x11f80000 = true ∧ s.recFree 2 0x11f80020 = false ∧ s.mem.wf = true := by decide +kernel

theorem test_hyp_DispatcherIssuesAndContextsBind_gang :
    let s := tGrids true
    ((s.grid 1).live = true ∧ (s.grid 1).mapped = true ∧ (s.grid 1).issued + 96 ≤ (s.grid 1).groups ∧ tRecs.length = 96) ∧ (tRecs.map fun r => r.toNat).Nodup ∧
      (s.grid 1).turns.find? (fun t => s.gangRoom (s.grid 1) t.2) = some (0, 2) ∧ tRecs.all (s.recFree 2) = true := by decide +kernel

/-- A ready continuation of grid 1; `kerf`: the grid owns the Kerf, `prot`: region 0 runs in protected mode. -/
def tReady (saved kerf prot : Bool) : State :=
  { tGrids false with
    grids := [(1, { tGrid false with kerf := kerf })]
    regions := [(0, { Region.ofRoot 0 0xffff with rcb := { Rcb.ofRoot 0 0xffff with prot := prot } })]
    ready := [⟨2, 0x11f80000, 0, 1, 0, 1, 0, none, saved⟩], conts := [(contKey 2 0x11f80000, ⟨1, none, saved, false⟩)] }

/-- The continuation that is ready, and what context 768 binds. -/
def tE (saved : Bool) : Ready := ⟨2, 0x11f80000, 0, 1, 0, 1, 0, none, saved⟩
def tBinds (saved kerf prot : Bool) : Bool :=
  match (tReady saved kerf prot).nextBinding 768 with
  | some (e, l) => decide (e = tE saved ∧ l = [(768, tE saved, [])])
  | none => false

theorem test_hyp_DispatcherIssuesAndContextsBind :
    (∀ x ∈ [(false, false, false), (false, true, false), (false, false, true), (true, false, false), (true, true, false)],
      tBinds x.1 x.2.1 x.2.2 = true ∧ (tReady x.1 x.2.1 x.2.2).mem.wf = true) ∧
    (let s := tReady false true false
     let e := tE false
     s.ready = [e] ∧ e.cluster = clusterOf 768 ∧ (s.ctx 768).status = .free ∧ s.windowUse (coreOf 768) + (s.grid e.grid).win ≤ 1024 ∧
       (s.core (coreOf 768)).owner = none ∧ (s.region 0).rcb.prot = false ∧
       (s.regionCores e.region).length + (if coreOf 768 ∈ s.regionCores e.region then 0 else 1) ≤ (s.region e.region).rcb.cores) := by decide +kernel

/-! ### Witnesses: preemption, generations, the rest of the machine -/

/-- The context of a region has been asked to save itself at time 1 into the frame of scratchpad offset `f`. -/
def tPre (f : Ctx → Ctx) : State := tAt 0 fun c => f { c with run := none, boundary := true, preempt := some ⟨1, 0x10004000⟩ }

theorem test_hyp_PreemptionAgeingAndOverflow_preempt :
    (let c := (tAt 0).ctx 768
     c.status ≠ .free ∧ c.preempt = none ∧ c.wait ≠ .follower ∧ spaceOf 0x10004000 = 1 ∧ inRange false 0x10004000 (0x18000 + 128 * c.win) = true ∧
       spaceOf 0x20004000 ≠ 1 ∧ spaceOf 0x20004000 ≠ 3) ∧
    (let late := fun (s : State) => { s with time := 2000 + 1000 * 4294967295 }
     let root := late (tPre fun c => { c with boundary := false })
     let busy := late (tPre fun c => { c with buf := [tHeld] })
     let sub := late (tRegion5 (tPre fun c => { c with boundary := false, region := 5 }))
     (∀ s ∈ [root, sub], (s.ctx 768).preempt = some ⟨1, 0x10004000⟩ ∧ (s.ctx 768).boundary = false ∧
       1 + 1000 * (s.region (s.ctx 768).region).rcb.preempt < s.time) ∧ (root.region (root.ctx 768).region).root = true ∧
       (sub.region (sub.ctx 768).region).root = false ∧ (sub.region (sub.ctx 768).region).live = true ∧ ((tPre id).ctx 768).boundary = true ∧
       ((busy.ctx 768).atBoundary = true ∧ busy.quiet 768 = false ∧ 1 + 1000 * (busy.region (busy.ctx 768).region).rcb.preempt < busy.time)) ∧
    (let quiet := tPre id
     let busy := tPre fun c => { c with buf := [tHeld] }
     let seg := tPre fun c => { c with seg := some tSeg, held := [tHeld] }
     (∀ s ∈ [quiet, busy, seg], let c := s.ctx 768
       c.preempt = some ⟨1, 0x10004000⟩ ∧ c.boundary = true ∧ c.run = none ∧ c.inHandler = false ∧ c.stepDue = false ∧ c.landFault = none ∧ c.ending = false ∧
         c.status ≠ .free) ∧
       ((seg.ctx 768).seg.isSome = true ∧ (seg.ctx 768).committing = false ∧ (seg.ctx 768).mustCommit = true) ∧ ((busy.ctx 768).seg = none ∧ busy.quiet 768 = false) ∧
       ((quiet.ctx 768).seg = none ∧ quiet.quiet 768 = true ∧
         quiet.mustSpill { quiet.readyOf (clusterOf 768) (quiet.ctx 768).record with core := some (coreIn 768), saved := true } = false ∧ quiet.mem.wf = true ∧
         quiet.time < 2 ^ 64)) := by decide +kernel

/-- One continuation ready at priority 8 and one spilled at priority 9, at time `t`; the ring has `n` slots. -/
def tAging (t n : Nat) (spilled : Bool) : State :=
  { State.reset with
    time := t, ready := [⟨2, 0x11f80000, 0, 1, 0, 1, 0, none, false⟩]
    regions := [(0, { Region.ofRoot 0 0xffff with
      rcb := { Rcb.ofRoot 0 0xffff with ovrBase := 0x0010000000000000, ovrSlots := n }, ring := if spilled then [⟨2, 0x11f80040, 0, 1, 1, 1, 0, none, false⟩] else []
      ringTail := 1 })] }

theorem test_hyp_PreemptionAgeingAndOverflow_ageing :
    let e : Ready := ⟨2, 0x11f80000, 0, 1, 0, 1, 0, none, false⟩
    let due := fun (s : State) => (s.region 0).rcb.prio + e.aging < max (s.region 0).rcb.agecap (s.region 0).rcb.prio ∧ e.tready + (e.aging + 1) * 1000000 ≤ s.time
    let full := fun (s : State) => s.spilledAt e.cluster ((s.region 0).rcb.prio + e.aging + 1)
    (∀ t ∈ [999999, 1000000], (tAging t 1 true).ready[0]? = some e) ∧ ¬ due (tAging 999999 1 false) ∧
      (due (tAging 1000000 1 false) ∧ full (tAging 1000000 1 false) = false ∧ (tAging 1000000 1 false).queueLen e.cluster 9 < 1024) ∧
      (due (tAging 1000000 1 true) ∧ full (tAging 1000000 1 true) = true ∧ (tAging 1000000 1 true).ringFull 0 = true) ∧
      (due (tAging 1000000 2 true) ∧ full (tAging 1000000 2 true) = true ∧ (tAging 1000000 2 true).ringFull 0 = false ∧
        ((tAging 1000000 2 true).vaPhys 0 (((tAging 1000000 2 true).region 0).rcb.ringVa 1)).isSome = true) ∧
      (let g := { e with core := some 3 }
       ({ tAging 1000000 2 true with ready := [g] } : State).ready[0]? = some g ∧ g.core.isSome = true ∧ g.saved = false) ∧
      (ringSpot (tAging 2000000 2 true).regions 0 = some (0, 0) ∧ (let r : Ready := ⟨2, 0x11f80040, 0, 1, 1, 1, 0, none, false⟩
        ((tAging 2000000 2 true).region 0).ring[0]? = some r ∧ 8 + r.aging < max ((tAging 0 2 true).region 0).rcb.agecap 8 ∧ r.tready + (r.aging + 1) * 1000000 ≤ 2000000)) ∧
      ((((tAging 0 2 true).region 0).ring = [⟨2, 0x11f80040, 0, 1, 1, 1, 0, none, false⟩] ∧ (tAging 0 2 true).heldWrites = []) ∧ (tAging 0 2 true).queueFull 2 9 = false ∧
        ((tAging 0 2 true).vaPhys 0 (((tAging 0 2 true).region 0).rcb.ringVa (1 - (0 + 1)))).isSome = true) := by decide +kernel

/-- `n` continuations are ready in cluster 2, region 0. -/
def tFull (n : Nat) : State := { tAging 0 2 true with ready := List.replicate n ⟨2, 0x11f80000, 0, 1, 0, 1, 0, none, false⟩ }

theorem tFull_clusterLen (n : Nat) : (tFull n).clusterLen 2 = n := by
  simp [State.clusterLen, countIf, tFull]

/-- The ready queues of cluster 2 hold 4,096 continuations, and a record waits in the ring. -/
theorem test_hyp_PreemptionAgeingAndOverflow_full :
    (tFull 4096).queueFull 2 9 = true ∧ ((tFull 4096).region 0).ring = [⟨2, 0x11f80040, 0, 1, 1, 1, 0, none, false⟩] := by
  refine ⟨?_, rfl⟩
  rw [State.queueFull, tFull_clusterLen, Bool.or_eq_true]
  exact .inr rfl

theorem test_hyp_PreemptionAgeingAndOverflow_spillfull :
    let s := fun (w : Nat) (ring : List Ready) => { State.reset with
      regions := [(5, { Region.ofRoot 0 0xffff with root := false, spillWait := w, rcb := { Rcb.ofRoot 0 0xffff with stall := 1 }, ring := ring })] }
    let due := fun (s : State) => (s.region 5).live = true ∧ (s.region 5).root = false ∧ 1000 * (s.region 5).rcb.stall < (s.region 5).spillWait
    ¬ due (s 1000 []) ∧ due (s 1001 []) ∧ ((s 1001 []).region 5).rcb.ovrSlots < (2 : BitVec 25).toNat ∧ ((s 1001 []).region 5).ring = [] := by
  decide +kernel

/-- A cut that closes generation 1, asked for by context 768 in its Y slot. -/
def tCut (done : BitVec 16) (hs : List HeldWrite) (f : Ctx → Ctx) : State :=
  { tAt 7 f with gencur := 1, cut := some ⟨1, 768, 20, true, done⟩, heldWrites := hs }

/-- A write held for the reserve of memory die 0, in granule 0 of its HBM. -/
def tHeldWrite (a : Nat) : HeldWrite := ⟨3, 0, 1, 5, false, [(a, 0x2a)], []⟩

theorem test_hyp_GenerationsCutPreserveAndDrain_cut :
    (let all := fun (s : State) (c : Cut) => s.cut = some c ∧ c.sent = true ∧ ∀ d ∈ [0, 3, 4, 7, 8, 11, 12, 15], c.done.getLsbD d = true
     let h := tHeldWrite (phys 0x5000 0)
     State.reset.cut = none ∧ all (tCut 0x9999 [] fun c => { c with wait := .cut }) ⟨1, 768, 20, true, 0x9999⟩ ∧
       ((tCut 0x9999 [] fun c => { c with wait := .cut }).ctx 768).wait = .cut ∧ all (tCut 0x9999 [] id) ⟨1, 768, 20, true, 0x9999⟩ ∧
       ((tCut 0x9999 [] id).ctx 768).wait ≠ .cut ∧ ¬ all (tCut 0x9998 [] id) ⟨1, 768, 20, true, 0x9998⟩ ∧ (tCut 0x9999 [] id).heldWrites = [] ∧
       (h ∈ (tCut 0 [h] id).heldWrites ∧ h.forCut = false ∧ h.die = 0 ∧ h.die ≠ 15)) := by decide +kernel

/-- Generation 2; one snapshot, 1, is live; the reserve of memory die 0 has `gib` GiB; the granule was last written in generation `b`. -/
def tHold (b : BitVec 16) (gib : Nat) : State :=
  { State.reset with
    gencur := 2, live := [1], heldWrites := [tHeldWrite (phys 0x5000 0)], births := [(0x5000 * 2 ^ 36, b)], dies := [(0, { Die.reset with reserveGiB := gib })] }

theorem test_hyp_GenerationsCutPreserveAndDrain_release :
    (∀ b ∈ [1, 2], ∀ g ∈ [0, 1], (tHold (BitVec.ofNat 16 b) g).heldAt 0 = some (tHeldWrite (phys 0x5000 0))) ∧
      (tHeldWrite (phys 0x5000 0)).cells = [(phys 0x5000 0, 0x2a)] ∧ (tHold 2 1).needsVersion (phys 0x5000 0 / 65536) = false ∧
      (tHold 1 0).needsVersion (phys 0x5000 0 / 65536) = true ∧ (tHold 1 0).versionRoom (phys 0x5000 0 / 65536) = false ∧
      (tHold 1 1).needsVersion (phys 0x5000 0 / 65536) = true ∧ (tHold 1 1).versionRoom (phys 0x5000 0 / 65536) = true := by decide +kernel

/-- A version of the granule, and a write of region 5 held longer than its STALL bound; `n` versions lie in the reserve of one GiB. -/
def tVersion : Version := ⟨0x5000 * 2 ^ 36, 1, 1, [], 0, 0, false⟩
def tGenfull (n : Nat) (p : GenPol) (w : Nat) : State :=
  { tHold 1 1 with
    versions := List.replicate n tVersion
    regions := [(5, { Region.ofRoot 0 0xffff with root := false, genWait := w, rcb := { Rcb.ofRoot 0 0xffff with stall := 1, genpol := p } })] }

theorem test_hyp_GenerationsCutPreserveAndDrain_drain :
    (tHold 1 1).scarfNext 0 = none ∧ (tGenfull 1 .reset 0).scarfNext 0 = some tVersion ∧ (tGenfull 1 .reset 0).storeRoom = true ∧
      ({ tGenfull 1 .reset 0 with storeGiB := [0, 0] } : State).storeRoom = false ∧
      (let due := fun (s : State) => (∃ h ∈ s.heldWrites, h.forCut = false ∧ h.region = 5) ∧ 1000 * (s.region 5).rcb.stall < (s.region 5).genWait
       ¬ due (tGenfull 1 .reset 1000) ∧ due (tGenfull 1 .reset 1001) ∧ due (tGenfull 1 .failRegion 1001) ∧ due (tGenfull 1 .dropOldest 1001)) ∧
      ((tGenfull 1 .reset 1001).region 5).rcb.genpol = .reset ∧ ((tGenfull 1 .failRegion 1001).region 5).rcb.genpol = .failRegion ∧
      ((tGenfull 1 .failRegion 1001).region 5).live = true ∧ ((tGenfull 1 .failRegion 1001).region 5).root = false := by decide +kernel

theorem tGenfull_room (n : Nat) (p : GenPol) (w : Nat) : (tGenfull n p w).reserveRoom 0 = decide (n < 16384) := by
  have h : ((tGenfull n p w).die 0).reserveGiB = 1 := rfl
  have v : (tGenfull n p w).versions = List.replicate n tVersion := rfl
  simp [State.reserveRoom, countIf, h, v, tVersion]

/-- A reserve of 16,384 versions, all of the one live snapshot. -/
theorem test_hyp_GenerationsCutPreserveAndDrain_dropOldest :
    (tGenfull 16384 .dropOldest 1001).heldWrites = [tHeldWrite (phys 0x5000 0)] ∧ (tGenfull 16384 .dropOldest 1001).reserveRoom 0 = false ∧
      (tGenfull 16384 .dropOldest 1001).oldestUndrained 0 = some 1 ∧ ((tGenfull 16384 .dropOldest 1001).dropSnap 1).reserveRoom 0 = true := by
  refine ⟨rfl, by rw [tGenfull_room]; rfl, ?_, ?_⟩
  · have h : (tGenfull 16384 .dropOldest 1001).undrained 0 1 = true := by
      simp only [State.undrained, List.any_eq_true]
      exact ⟨tVersion, List.mem_replicate.mpr ⟨by omega, rfl⟩, by decide +kernel⟩
    have l : (tGenfull 16384 .dropOldest 1001).live = [1] := rfl
    rw [State.oldestUndrained, l, List.filter_cons_of_pos h]
    rfl
  · have l : ((tGenfull 16384 .dropOldest 1001).dropSnap 1).versions = [] := by
      have f : (tGenfull 16384 .dropOldest 1001).live.filter (fun y => y != 1) = [] := by rfl
      simp only [State.dropSnap, f, List.any_nil, List.filter_false]
    rw [State.reserveRoom, l]
    decide +kernel

/-- Core 192 was calibrated at time 1000; cluster 2 as given; context 768 runs. -/
def tClock (time : Nat) (f : Cluster → Cluster) (g : Ctx → Ctx) : State :=
  { ((tAt 0 g).modCluster 2 f).modCore 192 fun co => { co with calTime := some 1000 } with time := time }

theorem test_hyp_ClocksDroopPowerAndLinks_clocks :
    ((tClock 0 id id).core 193).calTime = none ∧
      (∀ t ∈ [1999, 2000], ((tClock t id id).core 192).calTime = some 1000 ∧ 1000 < (tClock t id id).time + 1) ∧
      (1999 + 1 - 1000) % 1000 = 0 ∧ (2000 + 1 - 1000) % 1000 ≠ 0 ∧ ((tClock 0 id id).core 192).kcal.toNat / 2 ^ 8 % 2 ^ 32 + 1 < 2 ^ 32 ∧
      (2 < 32 ∧ 2 / 2 ∈ [1, 2, 5, 6, 9, 10, 13, 14] ∧ State.reset.populated.getLsbD (2 / 2) = true) ∧ ((tClock 0 id id).cluster 2).fifths + 4 < 5 * (0 + 1) ∧
      ¬ ((tClock 0 (fun c => { c with fifths := 5 }) id).cluster 2).fifths + 4 < 5 * (0 + 1) ∧ ((State.reset.die 1).period = 4) ∧ (tClock 0 id id).firmware = [] ∧ ((tClock 0 id id).cluster 2).barPend = [] ∧
      (let s : State := { tClock 0 id id with firmware := [.droopth 2 9, .eol 1 0] }
       s.firmware = .droopth (2 : BitVec 5).toNat 9 :: [.eol 1 0] ∧ [FwWrite.eol 1 0].all (fun w => decide (w.cluster ≠ some 2)) = true) ∧
      (let s := tClock 0 id fun c => { c with status := .blocked, wait := .engine }
       768 / 4 = 192 ∧ (s.ctx 768).wait = .engine ∧ (s.ctx 768).status = .blocked) ∧
      (0 : BitVec 32).getLsbD 2 = false ∧ (4 : BitVec 32).getLsbD 2 = true ∧
      (let c := (tClock 0 id id).cluster 2; c.alarms = [] ∧ c.droop = .off ∧ c.droopth.toNat ≤ 127) ∧
      (let c := (tClock 0 (fun c => { c with cycle := 15, droop := .stretch 10 }) id).cluster 2; c.alarms = [] ∧ c.droop = .stretch 10 ∧ c.cycle < 10 + 6) ∧
      (let c := (tClock 0 (fun c => { c with cycle := 79, droop := .half 16 }) id).cluster 2; c.alarms = [] ∧ c.droop = .half 16 ∧ c.cycle < 16 + 64) ∧
      (let c := (tClock 0 (fun c => { c with cycle := 8, alarms := [7] }) id).cluster 2; c.alarms = [7] ∧ 7 + 1 = c.cycle ∧ c.droop = .off) ∧
      (let c := (tClock 0 (fun c => { c with cycle := 7, alarms := [7] }) id).cluster 2; c.alarms = [7] ∧ 7 = c.cycle ∧ c.droop = .off) ∧
      (clusterOf 768 = 2 ∧ ((tClock 0 id id).ctx 768).status = .running ∧ ((tClock 0 id id).ctx 768).exhausted ((tClock 0 id id).cyc 768 + 1) = false) ∧
      (let s := tClock 0 id fun c => { c with buf := [{ tHeld with limit := 0 }] }
       (s.ctx 768).status = .running ∧ (s.ctx 768).exhausted (s.cyc 768 + 1) = true) ∧
      (let s := tClock 0 id fun c => { c with run := some (tRun 3), wait := .td 2 }
       (s.ctx 768).status = .running ∧ (s.ctx 768).exhausted (s.cyc 768 + 1) = false ∧ (s.ctx 768).run.isSome = true ∧ (s.ctx 768).waitsEngine = true ∧
         s.slackEnd 768 ≤ s.cyc 768) := by decide +kernel

theorem test_hyp_ClocksDroopPowerAndLinks_events :
    (((tClock 0 (fun c => { c with cycle := 16, droop := .stretch 10 }) id).cluster 2).droop = .stretch 10 ∧
        10 + 6 ≤ ((tClock 0 (fun c => { c with cycle := 16, droop := .stretch 10 }) id).cluster 2).cycle) ∧
      (((tClock 0 (fun c => { c with cycle := 80, droop := .half 16 }) id).cluster 2).droop = .half 16 ∧
        16 + 64 ≤ ((tClock 0 (fun c => { c with cycle := 80, droop := .half 16 }) id).cluster 2).cycle) ∧
      ((7 : BitVec 7).toNat < ((tClock 0 (fun c => { c with droopth := 8 }) id).cluster 2).droopth.toNat) ∧ (1999 % 2000 ≠ 0 ∧ 4000 % 2000 = 0) ∧
      (let s := { State.reset with credits := [(4, ⟨9, 5, 7, 0, 0, false⟩)] }
       let c := lookD s.credits 4 Credit.reset
       ((9 : BitVec 16) - c.seen).toNat ≤ (c.sent - c.seen).toNat ∧ (c.sent - c.seen).toNat < ((10 : BitVec 16) - c.seen).toNat ∧ c.recv = 7) ∧
      (let s := fun (t : Nat) (o : Option Nat) => { State.reset.modDie 1 fun d => { d with oscAt := o } with time := t }
       (((s 1000000 none).die 1).oscAt = none ∧ 1000000 ≤ (s 1000000 none).time) ∧ ¬ 1000000 ≤ (s 999999 none).time ∧
         (((s 1001000000 (some 1000000)).die 1).oscAt = some 1000000 ∧ 1000000 + 1000000000 ≤ (s 1001000000 (some 1000000)).time) ∧
         ¬ 1000000 + 1000000000 ≤ (s 1000999999 (some 1000000)).time) ∧
      (let s := { State.reset with linksDown := 8, retrains := [(23, 3)] }
       s.linksDown.getLsbD 3 = true ∧ s.linksDown.getLsbD 0 = false ∧ lookD s.retrains 0 0 < 3 ∧ s.linksDown.getLsbD 23 = false ∧ 3 ≤ lookD s.retrains 23 0 ∧
         s.mem.wf = true ∧ (s.regions.map fun e => e.1).Nodup ∧ (s.region 0).root = true ∧ s.mem.nat (windowAddr 0x44) 4 = 1 ∧
         s.mem.nat (windowAddr (31 * 65536 + 0x44)) 4 = 1 ∧ ((tRegion5 s).region 5).live = true ∧ ((tRegion5 s).region 5).root = false ∧
         ((tRegion5 s).regions.map fun e => e.1).Nodup) := by decide +kernel

theorem test_hyp_HostPortsMailboxAndResets :
    (State.reset.port 0).up = true ∧ ((State.reset.modPort 0 fun p => { p with up := false }).port 0).up = false ∧
      State.reset.pathUp 15 12 = true ∧ ({ State.reset with linksDown := 0x400 } : State).pathUp 15 12 = false ∧
      ((0x3ffff8 : BitVec 52).toNat + (List.replicate 8 (1 : Byte)).length ≤ 0x400000) ∧ (0x400000 < (0x3ffff9 : BitVec 52).toNat + (List.replicate 8 (1 : Byte)).length) ∧
      (0x0c : BitVec 52).toNat + (List.replicate 4 (1 : Byte)).length ≤ 0x10 ∧ 0x40 ≤ (0x40 : BitVec 52).toNat ∧
      (let s := fun (c : BitVec 32) => State.reset.modPort 1 fun p => { p with cseq := 1, cmd := c }
       (∀ c ∈ [1, 2, 3], let p := (s (BitVec.ofNat 32 c)).port 1; p.status = 1 ∧ p.cseq ≠ p.dseq ∧ p.cmd.toNat = c) ∧
         ¬ ((State.reset.port 1).cseq ≠ (State.reset.port 1).dseq)) ∧
      (let s := tRegion5 { State.reset with ended := [⟨0, 2, 3, 4, 0, 0⟩, ⟨1, 2, 3, 4, 0, 0⟩] }
       s.mem.wf = true ∧ (s.regions.map fun e => e.1).Nodup ∧ (s.region 5).live = true ∧ (s.region 5).root = false ∧ (s.region 5).port = 0 ∧
         (s.region 1).root = true ∧ (s.region 1).port ≠ 0 ∧ s.mem.nat (queueBase 0 15 + 0x44) 4 = 1 ∧ (∃ e ∈ s.ended, e.port ≠ 0) ∧
         (let u := { s with regions := put s.regions 6 { Region.ofRoot 1 0xffff with root := false }, grids := [(1, { Grid.reset with live := true, region := 6 })] }
          (u.region 6).port ≠ 0 ∧ ∃ g ∈ u.grids, g.2.live = true ∧ g.2.region = 6)) ∧
      (let s := fun (st : BitVec 32) => State.reset.modPort 0 fun p => { p with up := false, status := st }
       ∀ st ∈ [1, 2], ((s (BitVec.ofNat 32 st)).port 0).up = false ∧ ((s (BitVec.ofNat 32 st)).port 0).status.toNat = st ∧ (s 1).stopped = false) ∧
      ({ State.reset with stopped := true } : State).stopped = true ∧ State.reset.linksDown = 0 ∧ State.reset.ctxs = [] := by decide +kernel

/-- Queue 0 of port 0 holds one launch: OP, TARGET, LOOP, GROUPS, CLUSTERS, and the first reserved byte. Its template in die 1's SRAM inherits everything; its
loop record has 96 groups and the shape `shape`. -/
def tLaunch (op target loop groups csets resv shape : Nat) (f : State → State) : State :=
  let b := queueBase 0 0
  let r := f State.reset
  let m := r.mem.putFields b
    [(0, 4, 1), (0x100, 8, op), (0x108, 8, target), (0x110, 8, loop), (0x118, 8, groups), (0x120, 8, csets), (0x128, 8, 77), (0x130, 80, resv)]
  { r with mem := m.putFields (phys (dieTag 1) 0x1000) [(0x10, 8, 0x10001000), (0x18, 4, 96), (0x1c, 4, shape), (0x24, 1, 1)] }

/-- The queue is open, and its next slot's fields are the given ones (`b` tells apart what the slot holds). -/
def tOpen (s : State) (op target loop groups csets : Nat) (resv : Bool) : Bool :=
  let b := queueBase 0 0
  let rd := fun o n => s.mem.nat (b + o) n
  let l := fun o => s.mem.nat (b + 0x100 + 128 * (rd 0x40 4 % 256) + o) 8
  (s.port 0).status == 1 && rd 0x44 4 == 1 && rd 0x40 4 != rd 0 4 && (rd 0x40 4 + 2 ^ 32 - rd 8 4) % 2 ^ 32 < 256 && l 0 == op && l 8 == target && l 0x10 == loop &&
    l 0x18 == groups && l 0x20 == csets && (s.mem.nat (b + 0x100 + 128 * (rd 0x40 4 % 256) + 0x30) 80 != 0) == resv

theorem test_hyp_LaunchesCompletionsAndPages_rejects :
    (State.reset.mem.nat (queueBase 0 0 + 0x40) 4 = State.reset.mem.nat (queueBase 0 0) 4) ∧ tOpen (tLaunch 3 0 0 0 0 0 0 id) 3 0 0 0 0 false = true ∧
      tOpen (tLaunch 1 0 0 0 0 1 0 id) 1 0 0 0 0 true = true ∧ tOpen (tLaunch 257 0 0 0 0 0 0 id) 257 0 0 0 0 false = true ∧
      tOpen (tLaunch 1 0 0 (2 ^ 32) 0 0 0 id) 1 0 0 (2 ^ 32) 0 false = true ∧ tOpen (tLaunch 1 0 0 0 (2 ^ 32) 0 0 id) 1 0 0 0 (2 ^ 32) false = true := by decide +kernel

theorem test_hyp_LaunchesCompletionsAndPages_drops :
    tOpen (tLaunch 2 0 0 0 0 1 0 id) 2 0 0 0 0 true = true ∧ tOpen (tLaunch 258 0 0 0 0 0 0 id) 258 0 0 0 0 false = true ∧
      tOpen (tLaunch 2 65536 0 0 0 0 0 id) 2 65536 0 0 0 false = true ∧ tOpen (tLaunch 2 0 0 0 1 0 0 id) 2 0 0 0 1 false = true ∧
      (let s := tLaunch 2 9 0 0 0 0 0
       let no := fun s => { s with regions := [(0, { Region.ofRoot 0 0xffff with rcb := { Rcb.ofRoot 0 0xffff with snapRight := false } })] }
       let live := fun s => { s with live := [9] }
       tOpen (s id) 2 9 0 0 0 false = true ∧ ((s no).region 0).rcb.snapRight = false ∧ tOpen (s no) 2 9 0 0 0 false = true ∧ ((s id).region 0).rcb.snapRight = true ∧
         (9 : BitVec 16) ∉ (s id).live ∧ (9 : BitVec 16) ∈ (s live).live ∧ ((s live).region 0).rcb.snapRight = true ∧ tOpen (s live) 2 9 0 0 0 false = true) := by
  decide +kernel

/-- The die of VA 0x0010… is compute die 1, mapped; that of VA 0 is a memory die with no page table. -/
theorem test_hyp_LaunchesCompletionsAndPages_grids :
    (tOpen (tLaunch 1 0 0 0 0 0 0 id) 1 0 0 0 0 false = true ∧ (tLaunch 1 0 0 0 0 0 0 id).vaBytes 0 0 256 = none) ∧
      (let t := 0x0010000000000000
       let s := fun loop shape => tLaunch 1 t loop 0 0 0 shape id
       let made := (s 0 0).vaBytes 0 (BitVec.ofNat 64 t) 256
       let rcb := made.bind fun bs => (s 0 0).createRcb 0 bs
       tOpen (s 0 0) 1 t 0 0 0 false = true ∧ rcb.isSome = true ∧ (s 0 0).vaBytes 0 0 128 = none) := by decide +kernel

/-- Memory die 0 as root region 0 sees it: its page tables at 0x40000 and 0x80000, and the entry `e` of its first page. -/
def tMapped (e : Nat) (s : State) : State :=
  let h := fun o => phys (hbmTag 0) o
  { s with mem := ((s.mem.putNat (h 0x8000) 8 0x40001).putNat (h 0x40000) 8 0x80001).putNat (h 0x80000) 8 e }

/-- The grid that the launch makes, if firmware accepts it with the loop records at offset 64. -/
def tMade (shape : Nat) : Option (Grid × Nat) :=
  let s := tLaunch 1 0x0010000000000000 0x0010000000001000 0 0 0 shape (tMapped (leafEntry 0x30000 1 true false))
  match s.vaBytes 0 0x0010000000000000 256, s.vaBytes 0 0x0010000000001000 128, s.nextLaunch 0 0 with
  | some bs, some ls, some x =>
    match s.createRcb 0 bs with
    | some (_, rcb) =>
      match createGrid 0 0 x rcb ls with
      | some (g, c) => if s.lrecPlace g.clusters (0x10000000 + 64) then some (g, c) else none
      | none => none
    | none => none
  | _, _, _ => none

/-- A striped grid, a mapped one, and a shape (window 0) that R315 rejects. -/
theorem test_hyp_LaunchesCompletionsAndPages_accepted :
    (tMade 1).map (fun x => (x.1.mapped, x.1.clusters)) = some (false, [2]) ∧ (tMade 0x801).map (fun x => (x.1.mapped, x.1.clusters)) = some (true, [2]) ∧
      (let s := tLaunch 1 0x0010000000000000 0x0010000000001000 0 0 0 0 id
       (match s.vaBytes 0 0x0010000000000000 256, s.vaBytes 0 0x0010000000001000 128, s.nextLaunch 0 0 with
        | some bs, some ls, some x => match s.createRcb 0 bs with | some (_, rcb) => (createGrid 0 0 x rcb ls).isNone | none => false
        | _, _, _ => false) = true) := by decide +kernel

theorem test_hyp_LaunchesCompletionsAndPages_completion :
    State.reset.ended = [] ∧ (let s := { State.reset with ended := [⟨0, 2, 300, 4, 0, 0⟩] }; s.ended = [⟨0, 2, 300, 4, 0, 0⟩] ∧ s.mem.wf = true ∧ s.time < 2 ^ 64) := by
  decide +kernel

/-- The first GiB of memory die 0's HBM exists. -/
theorem tMemHas {s : State} (d : s.dies = State.reset.dies) (o : Nat) (h : o < 2 ^ 30) : s.memHas (phys (hbmTag 0) o) = true := by
  have k : genDie (phys (hbmTag 0) o) = 0 := by simp only [genDie, tagOf, phys, hbmTag]; omega
  have t : tagOf (phys (hbmTag 0) o) = 0x5000 := by simp only [tagOf, phys, hbmTag]; omega
  have f : offOf (phys (hbmTag 0) o) = o := by simp only [offOf, phys, hbmTag]; omega
  have r : (lookD State.reset.dies 0 Die.reset).reserveGiB = 16 := by decide +kernel
  rw [State.memHas, State.die, d, k, t, f, r]
  simp
  omega

/-- VA 0x4000 and the 255 bytes after it lie in the first page. -/
theorem tWalk {s : State} (d : s.dies = State.reset.dies) (r0 : s.mem.nat (phys (hbmTag 0) 0x8000) 8 = 0x40001)
    (r1 : s.mem.nat (phys (hbmTag 0) 0x40000) 8 = 0x80001) (r2 : s.mem.nat (phys (hbmTag 0) 0x80000) 8 = leafEntry 0x30000 1 true false) (i : Nat) (h : i < 256) :
    s.walk ⟨.memory, 0, 0x8000⟩ none (0x4000 + i) = .at_ (phys (hbmTag 0) (0x34000 + i)) true := by
  have v : ∀ p, s.viewNat none p 8 = s.mem.nat p 8 := fun _ => rfl
  have b : ∀ a w, 16 ≤ a → bits (0x4000 + i) a w = 0 := by
    intro a w ha
    rw [bits, Nat.div_eq_of_lt (Nat.lt_of_lt_of_le (by omega : 0x4000 + i < 2 ^ 16) (Nat.pow_le_pow_right (by omega) ha)), Nat.zero_mod]
  have g : (⟨.memory, 0, 0x8000⟩ : DieBind).tag = hbmTag 0 := rfl
  have l : pteAddr (leafEntry 0x30000 1 true false) + (0x4000 + i) % 0x10000 = 0x34000 + i := by
    rw [show pteAddr (leafEntry 0x30000 1 true false) = 0x30000 by decide +kernel]
    omega
  have has := fun o ho => tMemHas d o ho
  simp only [State.walk, v, g, b 40 12 (by omega), b 25 15 (by omega), b 16 9 (by omega), Nat.mul_zero, Nat.add_zero]
  simp only [has 0x8000 (by norm_num), r0, show pteTable 0x40001 0x40000 = true by decide +kernel, show pteAddr 0x40001 = 0x40000 by decide +kernel,
    has 0x40000 (by norm_num), r1, show pteLeaf ⟨.memory, 0, 0x8000⟩ 0x80001 0x2000000 = false by decide +kernel,
    show pteTable 0x80001 0x1000 = true by decide +kernel, show pteAddr 0x80001 = 0x80000 by decide +kernel, has 0x80000 (by norm_num), r2,
    show pteLeaf ⟨.memory, 0, 0x8000⟩ (leafEntry 0x30000 1 true false) 0x10000 = true by decide +kernel, Bool.not_true, if_true, if_false, Bool.false_eq_true]
  simp [State.leafByte, g, l, has _ (by omega : 0x34000 + i < 2 ^ 30), show (leafEntry 0x30000 1 true false).testBit 2 = true by decide +kernel]

/-- Firmware keeps the RCB at VA 0x4000, in HBM. -/
theorem test_hyp_LaunchesCompletionsAndPages_place :
    ((tLaunch 1 0x0010000000000000 0x0010000000001000 0 0 0 1 (tMapped (leafEntry 0x30000 1 true false))).rcbPlace 0 0x4000).isSome = true := by
  obtain ⟨s, hs⟩ : ∃ s, s = tLaunch 1 0x0010000000000000 0x0010000000001000 0 0 0 1 (tMapped (leafEntry 0x30000 1 true false)) := ⟨_, rfl⟩
  have w := fun i h => tWalk (s := s) (i := i) (by rw [hs]; rfl) (by rw [hs]; decide +kernel) (by rw [hs]; decide +kernel) (by rw [hs]; decide +kernel) h
  have e : (s.region 0).rcb.dbt[0]? = some ⟨.memory, 0, 0x8000⟩ := by rw [hs]; decide +kernel
  have p : ∀ i, i < 256 → s.vaPhys 0 (0x4000 + BitVec.ofNat 64 i) = some (phys (hbmTag 0) (0x34000 + i)) ∧
      0x5000 ≤ tagOf (phys (hbmTag 0) (0x34000 + i)) ∧ tagOf (phys (hbmTag 0) (0x34000 + i)) < 0x6000 := by
    intro i h
    have n : (0x4000 + BitVec.ofNat 64 i : Word).toNat = 0x4000 + i := by
      rw [BitVec.toNat_add, BitVec.toNat_ofNat]
      simp
      omega
    have b : ∀ a x, 52 ≤ a → bits (0x4000 + i) a x = 0 := by
      intro a x ha
      rw [bits, Nat.div_eq_of_lt (Nat.lt_of_lt_of_le (by omega : 0x4000 + i < 2 ^ 52) (Nat.pow_le_pow_right (by omega) ha)), Nat.zero_mod]
    have o : bits (0x4000 + i) 0 52 = 0x4000 + i := by rw [bits]; omega
    have m : (0x5000 : Nat) ≤ tagOf (phys (hbmTag 0) (0x34000 + i)) ∧ tagOf (phys (hbmTag 0) (0x34000 + i)) < 0x6000 := by
      simp only [tagOf, phys, hbmTag]; omega
    refine ⟨?_, m⟩
    simp only [State.vaPhys, State.translate, vaDie, vaOff, n, b 56 8 (by omega), b 52 4 (by omega), o, e]
    simp [w i h]
  have f : ∀ e ∈ s.regions, ¬ (e.2.live && e.2.rcbVa == 0x4000) = true := by rw [hs]; decide +kernel
  have a : ((List.range 256).map fun i => s.vaPhys 0 (0x4000 + BitVec.ofNat 64 i)).all (fun x => x.any fun a => decide (0x5000 ≤ tagOf a ∧ tagOf a < 0x6000)) = true := by
    simp only [List.all_map, List.all_eq_true, List.mem_range, Function.comp]
    intro i hi
    rw [(p i hi).1]
    simpa using (p i hi).2
  have g : s.regions.any (fun e => e.2.live && e.2.rcbVa == 0x4000) = false := List.any_eq_false.mpr f
  rw [← hs, State.rcbPlace, a, g]
  rfl

def tPages (e : Nat) : State := tMapped e State.reset

/-- Memory die 0 with the first two tables below the root table of root region 0 cleared. -/
def tZeroed : Memory := (State.reset.mem.putNat (phys (hbmTag 0) 0x40000) 0x40000 0).putNat (phys (hbmTag 0) 0x80000) 0x1000 0

def tFrames (z : Memory) : State := tMapped (leafEntry 0x30000 1 true false) { State.reset with mem := z }

theorem leBytes_zero (n : Nat) : leBytes n 0 = List.replicate n 0 := by
  induction n with
  | zero => rfl
  | succ n ih => simp [leBytes, ih, List.replicate_succ]

theorem tZero {m : Memory} (h : m.wf = true) (a n j : Nat) (hj : j < n) : (m.putNat a n 0).read (a + j) = 0 := by
  have r := Memory.reads_writes h a (leBytes n 0)
  rw [leBytes_length] at r
  have e := congrArg (fun l : List Byte => l[j]?) r
  simp only [Memory.reads, leBytes_zero, List.getElem?_map, List.getElem?_replicate, List.getElem?_range hj, hj, if_true, Option.map_some, Option.some.injEq] at e
  rw [Memory.putNat, leBytes_zero]
  exact e

theorem tElse (m : Memory) {a n x : Nat} (v k : Nat) (h : x + k ≤ a ∨ a + n ≤ x) : (m.putNat a n v).nat x k = m.nat x k := by
  rw [Memory.nat, Memory.nat, Memory.reads, Memory.reads]
  congr 1
  refine List.map_congr_left fun i hi => Memory.read_putNat_ne m v ?_
  have := List.mem_range.mp hi
  omega

theorem tRoot (o : Nat) (h : 0x8000 ≤ o ∧ o < 0x18000) : State.reset.mem.read (phys (hbmTag 0) o) = 0 := by
  have e : isRootTable (phys (hbmTag 0) o) = true := by
    have t : tagOf (phys (hbmTag 0) o) = hbmTag 0 := by simp only [tagOf, phys, hbmTag]; omega
    have f : offOf (phys (hbmTag 0) o) = o := by simp only [offOf, phys, hbmTag]; omega
    rw [isRootTable, t, f, decide_eq_true (by omega : 32768 ≤ o ∧ o < 98304)]
    rfl
  have c : ∀ x ∈ State.reset.mem.cells, x.1 < 2 ^ 52 * 0x5000 := by decide +kernel
  have n : look? State.reset.mem.cells (phys (hbmTag 0) o) = none := by
    rcases l : look? State.reset.mem.cells (phys (hbmTag 0) o) with _ | b
    · rfl
    · have := c _ (look?_mem l)
      simp only [phys, hbmTag] at this
      omega
  rw [Memory.read_def, n, Memory.unlisted, e, Bool.or_true, if_pos rfl]
  rfl

theorem tNat {m : Memory} {a : Nat} (h : ∀ i, i < 8 → m.read (a + i) = 0) : m.nat a 8 = 0 := by
  have e : m.reads a 8 = List.replicate 8 0 := by
    refine List.ext_getElem (by simp [Memory.reads]) fun i hi _ => ?_
    simp only [Memory.reads, List.length_map, List.length_range] at hi
    rw [List.getElem_replicate]
    simp [Memory.reads, h i hi]
  rw [Memory.nat, e]
  rfl

theorem tMapped_mem (e : Nat) (s : State) : (tMapped e s).mem =
    ((s.mem.putNat (phys (hbmTag 0) 0x8000) 8 0x40001).putNat (phys (hbmTag 0) 0x40000) 8 0x80001).putNat (phys (hbmTag 0) 0x80000) 8 e := rfl

/-- The entries of the tables of the two root regions: 0 but for the first of each table of region 0. -/
theorem tFrames_entries {z : Memory} (hz : z = tZeroed) :
    let m := (tFrames z).mem
    let h := fun o => phys (hbmTag 0) o
    m.wf = true ∧ m.nat (h 0x8000) 8 = 0x40001 ∧ m.nat (h 0x40000) 8 = 0x80001 ∧ m.nat (h 0x80000) 8 = leafEntry 0x30000 1 true false ∧
      (∀ o, 0x8008 ≤ o → o + 8 ≤ 0x18000 → m.nat (h o) 8 = 0) ∧ (∀ o, 0x40008 ≤ o → o + 8 ≤ 0x80000 → m.nat (h o) 8 = 0) ∧
      ∀ o, 0x80008 ≤ o → o + 8 ≤ 0x81000 → m.nat (h o) 8 = 0 := by
  intro m h
  have w0 : State.reset.mem.wf = true := by decide +kernel
  have w1 := Memory.putNat_wf w0 (h 0x40000) 0x40000 0
  have w2 : z.wf = true := hz ▸ Memory.putNat_wf w1 _ _ _
  have w3 := Memory.putNat_wf w2 (h 0x8000) 8 0x40001
  have w4 := Memory.putNat_wf w3 (h 0x40000) 8 0x80001
  have e : m = ((z.putNat (h 0x8000) 8 0x40001).putNat (h 0x40000) 8 0x80001).putNat (h 0x80000) 8 (leafEntry 0x30000 1 true false) := tMapped_mem _ _
  have ph : ∀ o, h o = hbmTag 0 * 2 ^ 52 + o := fun _ => rfl
  refine ⟨e ▸ Memory.putNat_wf w4 _ _ _, ?_, ?_, ?_, fun o l u => ?_, fun o l u => ?_, fun o l u => ?_⟩
  · rw [e, tElse _ _ _ (by simp only [ph]; omega), tElse _ _ _ (by simp only [ph]; omega), Memory.nat_putNat w2]
    norm_num
  · rw [e, tElse _ _ _ (by simp only [ph]; omega), Memory.nat_putNat w3]
    norm_num
  · rw [e, Memory.nat_putNat w4]
    decide +kernel
  all_goals
    rw [e, tElse _ _ _ (by simp only [ph]; omega), tElse _ _ _ (by simp only [ph]; omega), tElse _ _ _ (by simp only [ph]; omega)]
    refine tNat fun i hi => ?_
    have p : h o + i = h (o + i) := by simp only [ph]; omega
    rw [p, hz, tZeroed]
  · rw [Memory.read_putNat_ne _ _ (by simp only [ph, phys]; omega), Memory.read_putNat_ne _ _ (by simp only [ph, phys]; omega)]
    exact tRoot _ (by omega)
  · rw [Memory.read_putNat_ne _ _ (by simp only [ph, phys]; omega)]
    have q : h (o + i) = h 0x40000 + (o + i - 0x40000) := by simp only [ph]; omega
    rw [q]
    exact tZero w0 _ _ _ (by omega)
  · have q : h (o + i) = h 0x80000 + (o + i - 0x80000) := by simp only [ph]; omega
    rw [q]
    exact tZero w1 _ _ _ (by omega)

/-- An entry of the tables. -/
def tEntry (z : Memory) (table i : Nat) : Nat :=
  let p := phys (hbmTag 0) (table + 8 * i)
  if (tFrames z).memHas p then (tFrames z).viewNat none p 8 else 0

theorem tEntry_eq {z : Memory} (hz : z = tZeroed) (i : Nat) :
    (i < 4096 → tEntry z 0x8000 i = if i = 0 then 0x40001 else 0) ∧ (i < 4096 → tEntry z 0x10000 i = 0) ∧
      (i < 32768 → tEntry z 0x40000 i = if i = 0 then 0x80001 else 0) ∧
      (i < 512 → tEntry z 0x80000 i = if i = 0 then leafEntry 0x30000 1 true false else 0) := by
  obtain ⟨-, r0, r1, r2, z0, z1, z2⟩ := tFrames_entries hz
  have e : ∀ t, t + 8 * i < 2 ^ 30 → tEntry z t i = (tFrames z).mem.nat (phys (hbmTag 0) (t + 8 * i)) 8 := fun t h => if_pos (tMemHas (by unfold tFrames tMapped; rfl) _ h)
  refine ⟨fun h => ?_, fun h => ?_, fun h => ?_, fun h => ?_⟩ <;> rw [e _ (by omega)]
  · rcases Nat.eq_zero_or_pos i with rfl | p
    · exact r0
    · rw [if_neg (by omega)]; exact z0 _ (by omega) (by omega)
  · exact z0 _ (by omega) (by omega)
  · rcases Nat.eq_zero_or_pos i with rfl | p
    · exact r1
    · rw [if_neg (by omega)]; exact z1 _ (by omega) (by omega)
  · rcases Nat.eq_zero_or_pos i with rfl | p
    · exact r2
    · rw [if_neg (by omega)]; exact z2 _ (by omega) (by omega)

/-- Neither root region maps a page onto granule 5 of memory die 0's HBM. -/
theorem tFrames_maps {z : Memory} (hz : z = tZeroed) (root : Nat) (hr : root = 0x8000 ∨ root = 0x10000) :
    (tFrames z).maps ⟨.memory, 0, root⟩ none (granuleOf (phys (hbmTag 0) 0x50000)) = false := by
  have no : ∀ n, pteTable 0 n = false := by intro n; simp [pteTable, pteOk]
  have nl : ∀ d n, pteLeaf d 0 n = false := by intro d n; simp [pteLeaf, pteOk]
  have u : (tFrames z).maps ⟨.memory, 0, root⟩ none (granuleOf (phys (hbmTag 0) 0x50000)) =
    let leaf := fun (e size : Nat) => pteLeaf ⟨.memory, 0, root⟩ e size && decide (granuleOf (phys (hbmTag 0) (pteAddr e)) ≤ granuleOf (phys (hbmTag 0) 0x50000) ∧
      granuleOf (phys (hbmTag 0) 0x50000) < granuleOf (phys (hbmTag 0) (pteAddr e)) + size / 65536) && !(DieKind.memory == .io && bits e 3 2 == 1)
    (List.range 4096).any fun i0 => pteTable (tEntry z root i0) 0x40000 && (List.range 32768).any fun i1 =>
      leaf (tEntry z (pteAddr (tEntry z root i0)) i1) 0x2000000 || (pteTable (tEntry z (pteAddr (tEntry z root i0)) i1) 0x1000 &&
        (List.range 512).any fun i2 => leaf (tEntry z (pteAddr (tEntry z (pteAddr (tEntry z root i0)) i1)) i2) 0x10000) := rfl
  rw [u]
  simp only [List.any_eq_false, List.mem_range]
  intro i0 h0
  rcases hr with rfl | rfl
  swap
  · rw [(tEntry_eq hz i0).2.1 h0, no]
    simp
  rw [(tEntry_eq hz i0).1 h0]
  split
  swap
  · rw [no]
    simp
  rw [show pteAddr 0x40001 = 0x40000 by decide +kernel, Bool.and_eq_true, not_and, List.any_eq_true]
  rintro - ⟨i1, h1, l1⟩
  rw [(tEntry_eq hz i1).2.2.1 (List.mem_range.mp h1)] at l1
  split at l1
  swap
  · simp [no, nl] at l1
  rw [show pteAddr 0x80001 = 0x80000 by decide +kernel, Bool.or_eq_true] at l1
  rcases l1 with l1 | l1
  · exact absurd l1 (by decide +kernel)
  rw [Bool.and_eq_true, List.any_eq_true] at l1
  obtain ⟨-, i2, h2, l2⟩ := l1
  rw [(tEntry_eq hz i2).2.2.2 (List.mem_range.mp h2)] at l2
  split at l2
  · exact absurd l2 (by decide +kernel)
  · simp [nl] at l2

/-- Both tables below the root table of root region 0 lie in memory that firmware has cleared: a page moves to a frame that no page has. -/
theorem test_hyp_LaunchesCompletionsAndPages_move : ∃ s : State,
    s.frameUsed (phys (hbmTag 0) 0x50000 / 65536) = false ∧ s.mem.wf = true ∧ s.heldWrites = [] ∧ s.versions = [] ∧ s.live = [] ∧
      (let d : DieBind := ⟨.memory, 0, 0x8000⟩
       s.pagedDie 0 0 = some d ∧ (s.ptePath d 0).p1 = some (phys (hbmTag 0) 0x40000) ∧ (s.ptePath d 0).p2 = some (phys (hbmTag 0) 0x80000) ∧
         s.mem.nat (phys (hbmTag 0) 0x80000) 8 = leafEntry 0x30000 1 true false) := by
  obtain ⟨z, hz⟩ : ∃ z, z = tZeroed := ⟨_, rfl⟩
  obtain ⟨w, r0, r1, r2, -⟩ := tFrames_entries hz
  have g : (tFrames z).regions = State.reset.regions := by unfold tFrames tMapped; rfl
  have l : (tFrames z).live = [] := by unfold tFrames tMapped; rfl
  have dies : ∀ e ∈ State.reset.regions, ∀ d ∈ e.2.rcb.dbt, d.kind = .memory ∨ d.kind = .io → hbmTag 0 = d.tag →
      d = ⟨.memory, 0, 0x8000⟩ ∨ d = ⟨.memory, 0, 0x10000⟩ := by decide +kernel
  have t : tagOf (phys (hbmTag 0) 0x50000 / 65536 * 65536) = hbmTag 0 := by decide +kernel
  refine ⟨tFrames z, ?_, w, by unfold tFrames tMapped; rfl, by unfold tFrames tMapped; rfl, l, ?_, ?_⟩
  · simp only [State.frameUsed, l, g, List.map_nil, List.any_cons, List.any_nil, Bool.or_false, List.any_eq_false, Bool.and_eq_true, List.any_eq_true, Bool.or_eq_true,
      beq_iff_eq, t]
    rintro e he ⟨-, d, hd, ⟨k, hg⟩, m⟩
    rcases dies e he d hd k hg with rfl | rfl
    · exact absurd ((tFrames_maps hz _ (.inl rfl)).symm.trans m) (by decide)
    · exact absurd ((tFrames_maps hz _ (.inr rfl)).symm.trans m) (by decide)
  · unfold State.pagedDie State.region; rw [g]; decide +kernel
  · have t0 : pteTable 0x40001 0x40000 = true := by decide +kernel
    have t1 : pteTable 0x80001 0x1000 = true := by decide +kernel
    have a0 : pteAddr 0x40001 = 0x40000 := by decide +kernel
    have a1 : pteAddr 0x80001 = 0x80000 := by decide +kernel
    have b : ∀ o w, bits 0 o w = 0 := by intro o w; simp [bits]
    have q : (⟨.memory, 0, 0x8000⟩ : DieBind).tag = hbmTag 0 := rfl
    simp only [State.ptePath, b, q, Nat.mul_zero, Nat.add_zero, r0, t0, a0, r1, t1, a1, Bool.not_true, if_false, Bool.false_eq_true]
    exact ⟨trivial, trivial, r2⟩

theorem test_hyp_LaunchesCompletionsAndPages_pages :
    (let d := (Rcb.ofRoot 0 0xffff).dbt.getD 0 ⟨.absent, 0, 0⟩
     (∀ e ∈ [0, leafEntry 0x30000 1 true true, leafEntry 0x30000 1 true false], let s := tPages e
       s.pagedDie 0 0 = some d ∧ (s.ptePath d 0).p1 = some (phys (hbmTag 0) 0x40000) ∧ (s.ptePath d 0).p2 = some (phys (hbmTag 0) 0x80000) ∧ s.cutSent = false ∧
         s.mustHold (phys (hbmTag 0) 0x80000 / 65536) = false ∧ isGen (phys (hbmTag 0) 0x80000) = true ∧ s.mem.nat (phys (hbmTag 0) 0x80000) 8 = e) ∧
     d.kind = .memory ∧ (tPages 0).frameOk d 2 0x50000 0x10000 = true ∧
     pteLeaf d (leafEntry 0x30000 1 true true) 0x10000 = true ∧ (leafEntry 0x30000 1 true true).testBit 5 = true ∧
     (let e := leafEntry 0x30000 1 true false
      pteLeaf d e 0x10000 = true ∧ e.testBit 5 = false ∧ e.testBit 0 = true ∧ (tPages e).needsVersion (phys (hbmTag 0) 0x80000 / 65536) = false ∧ 0x50000 % 65536 = 0 ∧ 0x30000 = pteAddr e ∧
        0x50000 ≠ pteAddr e ∧ (tPages e).mem.wf = true ∧ (tPages e).memHas (phys d.tag (0x50000 + 65535)) = true ∧
        phys d.tag 0x50000 + 65536 ≤ phys (hbmTag 0) 0x80000 ∧ phys (hbmTag 0) 0x80000 / 65536 ≠ phys d.tag 0x50000 / 65536 ∧ (tPages e).heldWrites = [] ∧
        (tPages e).carryRoom (phys (hbmTag 0) (pteAddr e) / 65536) 1 = true)) := by decide +kernel

/-! ### Further witnesses: clauses whose state is its own -/

/-- A segment that a rewind re-enters; a slot of an LDL that waits for its segment; one and two writes to barrier word 4 in one cycle, the count below and at the target. -/
theorem test_hyp_slots_further :
    (let g := { tSeg with bundles := 0 }; ((tAt 0 fun c => { c with seg := some g }).ctx 768).seg = some g ∧ ((tAt 0 fun c => { c with seg := some g }).ctx 768).reenters = true) ∧
    (({ tRun 4 with ldl := some tHeld }).ldl ≠ none ∧ ((tAt 4).ctx 768).inHandler = false) ∧
    (let c := fun l n => { Cluster.reset with barPend := l, bars := [(4, ⟨96, n, true, false, false⟩)] }
     (∀ n ∈ [0, 5, 7, 8], (c [(4, 768, 7)] n).barPend = [(4, 768, 7)] ∧ (lookD (c [(4, 768, 7)] n).bars 4 Barrier.reset).count = n) ∧
       ((0 : BitVec 9).toNat = 0 ∧ (5 : BitVec 9).toNat < 7 ∧ 7 ≤ (7 : BitVec 9).toNat ∧ 7 ≤ (8 : BitVec 9).toNat) ∧
       coreOf 768 < coreOf 772 ∧ (c [(4, 772, 1), (4, 768, 7)] 0).barPend = [(4, 772, 1), (4, 768, 7)]) := by decide +kernel

/-- Words of FP32: NaN, the infinities, a finite one of each sign, one that RCP, RSQ and LOG2 normalise; the first register of an access outside the window. -/
theorem test_hyp_vector_further :
    fp32.val 0x7fc00000 = .nan ∧ fp32.val 0xff800000 = .inf true ∧ fp32.val 0x40400000 = .fin false 12582912 (-22) ∧ fp32.val 0xc0400000 = .fin true 12582912 (-22) ∧
    fp32.val 1 = .fin false 1 (-149) ∧ (2 ^ 23 ≤ 1 * 2 ^ 23 ∧ 1 * 2 ^ 23 < 2 ^ 24) ∧ ((-22 : Int) ≤ -22 ∧ (-22 : Int) ≤ 0) ∧ (3 : Int) = -20 + 23 - 0 ∧
    ((List.replicate 16 0x3f800000).length = 16 ∧ ∀ x ∈ List.replicate 16 0x3f800000, x < 2 ^ 32) ∧ (BxBlock.ofBits .bx4 0 127).els.length = 16 ∧
    (let f := fun (l : List Nat) => l.find? (fun x => decide (((tAt 1).ctx 768).win ≤ x))
     let o : VBin := ⟨0, .rne, false, 64, ⟨.read, 2⟩, .lit 0⟩
     let u : VUn := ⟨0, .rne, false, 1, ⟨.read, 64⟩⟩
     let m : VCm := ⟨0, 7, 40, ⟨.read, 63⟩, .reg ⟨.read, 64⟩⟩
     f (o.vd.toNat :: VSrc.regs o.a ++ VSrcB.regs o.b) = some 64 ∧ f (u.vd.toNat :: VSrc.regs u.a) = some 64 ∧ f (VSrc.regs m.a ++ VSrcB.regs m.b) = some 64 ∧ f [64, 7] = some 64 ∧
       ((tAt 4).ctx 768).run = some (tRun 4) ∧ ((tAt 4).rcb 768).hwin = true ∧ (tAt 4).guard 768 0x40 = false ∧ ((tAt 4).xS 6).toNat < 0xe0000000) := by decide +kernel

/-- TDROP beside a node in the race row; TSTORE behind a load that has not read, and behind none; a false-guarded slot whose kin a held node is to produce. -/
theorem test_hyp_tile_slots_further :
    (let n := { tNode with failed := true }
     let j : Job := ⟨768, 9, 1, false, 1, [], Plane.reset, Plane.reset, [], false⟩
     let s := (tAt 3 fun c => { c with nodes := [n] }).modCore 192 fun co => { co with race := some j, job := some { j with seq := 8 } }
     (s.core 192).race = some j ∧ n.seq ≠ j.seq ∧ n.seq ≠ 8 ∧ n ∈ (s.ctx 768).nodes ∧ n.failed = true ∧ (n.toks.kout = 0 ∧ n.qDst = false ∧ n.op.toNat ≠ 0x0e)) ∧
    (let o : LoadOp := ⟨.scalar false, .sreg 3, [(phys (unitTag 192) 0x100, 4)], [(0x100, 4)], 4⟩
     (tAt 3 fun c => { c with buf := [⟨3, 0, 0, 4, .load o⟩] }).loadsUnread 768 ((tRun 3).seq - 1) = true ∧ (tAt 3).loadsUnread 768 ((tRun 3).seq - 1) = false) ∧
    (let i := Instr.mma 0 false 4 5 2 ⟨0, 0, 0, 3⟩
     let h : BufOp := ⟨4, 0, 0, 4, .tile i 0 0 [] 1 false 16⟩
     let c := fun (l : List BufOp) => (tAt 3 fun c => { c with seg := some tSeg, held := l, toks := [(3, ⟨.pending, false, 1⟩)] })
     (∀ l ∈ [[], [h]], (c l).engineOpen (tRun 3) 3 ∧ (c l).guard 768 0x40 = false ∧ kinsOf ((c l).ctx 768).tok ⟨3, 0, 0, 4⟩ = [(3, 1)] ∧
       (c l).demands (((c l).ctx 768).kinGoals [(3, 1)]) = []) ∧ ((c []).ctx 768).heldKin [(3, 1)] = false ∧ ((c [h]).ctx 768).heldKin [(3, 1)] = true ∧
       (∀ l ∈ [[], [h]], (c l).engineOpen (tRun 6) 6 ∧ ((c l).ctx 768).cpc < 63)) ∧
    (let s := tAt 3 fun c => { c with seg := some tSeg, sregs := [(10, 0x10000100)] }
     let x : Int := (s.xS 10).toNat + 32 * (2 : BitVec 7).toInt
     x % 32 = 0 ∧ 0 ≤ x ∧ x < 2 ^ 32 ∧ spaceOf x.toNat = 1 ∧ inRange false x.toNat 32 = true ∧ (s.ctx 768).tlc < 63 ∧ s.guard 768 0 = true) := by
  unfold State.engineOpen; decide +kernel

/-- A gather whose lane 3 is the first that is misaligned; one whose lane 5 is the first outside its space; a lane in the host window. -/
theorem test_hyp_AccessesThatMayNotHappenFault_lanes :
    let s := fun (b : Nat) (d : BitVec 32) (n : Nat) => tAt 4 fun c => { c with sregs := [(6, BitVec.ofNat 64 b)], vregs := [(7, ofLanes fun i => if i < n then 4 else d)] }
    let xs := fun (s : State) => (List.range 32).map fun i => ((s.readS 768 6).toNat + ((lane (s.readV 768 7) i).toNat * 2 ^ (0 : BitVec 2).toNat : Nat) : Int)
    let skew : Int → Bool := fun x => decide (x % (4 : Nat) ≠ 0) || crossesStripe false x.toNat 4
    let out : Int → Bool := fun x => decide (x < 0 ∨ 2 ^ 32 ≤ x) || !inRange false x.toNat 4
    (xs (s 0x100 5 3)).findIdx? skew = some 3 ∧ ((xs (s 0x100 0x60000 5)).findIdx? skew = none ∧ (xs (s 0x100 0x60000 5)).findIdx? out = some 5) ∧
      (xs (s 0x100 0xe0000000 31)).findIdx? (fun x => decide (spaceOf x.toNat = 14)) = some 31 ∧ (s 0 0 0).inWindow [63, 7] := by unfold State.inWindow; decide +kernel

/-- A lock whose die has counted some cycles when its clock changes; a command of a collective whose source is gone or cut; a completion that readies a linked record, and one that
cannot; and the same of a timer. -/
theorem test_hyp_engines_and_copies_further :
    (let l := lockOf (phys (unitTag 192) 0x100)
     let s := { (tAt 7) with locks := [(l, ⟨772, 1, 0, 60⟩)] }.modCluster 2 fun cl => { cl with cycle := 4, fifths := 16 }
     look? s.locks l = some ⟨772, 1, 0, 60⟩ ∧ 0 + (64 - 60) * (s.die 1).period ≤ (s.cluster (clusterOf 772)).fifths ∧ 0 < (s.die 1).period) ∧
    (let m := { tCmd .cpy true 4 with desc := { Desc.blank with dcen := true, dc := 12 } }
     let s := fun (f : State → State) => (f (tWith m)).modCluster 2 fun cl => { cl with dcs := [(12, ⟨1, false, [0x11f80400]⟩)] }
     let zero := fun (s : State) => (s.modCluster 2 fun c => { c with decAt := put c.decAt 12 c.cycle, dcs := put c.dcs 12 ⟨0, false, []⟩ }).noteDc 2 12
     (∀ f ∈ [tFree, tSpilled], (s f).piecesDone m = true ∧ (lookD ((s f).cluster 2).dcs 12 DepCtr.reset).count = 1) ∧
       (State.readyLinks 2 false [0x11f80400] (zero (s tFree))).isSome = true ∧ State.readyLinks 2 false [0x11f80400] (zero (s tSpilled)) = none ∧
       look? (s tFree).conts (contKey 2 0x11f80400) = some ⟨1, none, false, false⟩ ∧
       (s tFree).mustSpill ⟨2, 0x11f80400, 0, 1, 0, (s tFree).stamp + 1, (s tFree).time, none, false⟩ = false) ∧
    (let m := { tColl with desc := { tColl.desc with cnt := [2, 1, 1, 1, 1, 1] } }
     let s := { tStep m with badReads := [1] }
     s.badReads.contains m.id = true ∧ partRanges (s.collSrc m 1 0) ≠ [] ∧ partsGone (s.collSrc m 1 0) = false) := by decide +kernel

/-- A SNAP of socket 1 whose way to socket 0 is free, and one whose link retrains; a context whose race row runs. -/
theorem test_hyp_sync_further :
    (tAt 7).snapPath 768 = true ∧ ({ tAt 7 with retrains := [(0, 1)] } : State).snapPath 768 = false ∧
    (let j : Job := ⟨768, 1, 1, false, 0, [], Plane.reset, Plane.reset, [], false⟩
     let x := { Core.reset with race := some j }
     x.runsFor 768 = true ∧ x.runsFor 769 = false ∧ x.race = some j ∧ j.k = 768) := by decide +kernel

/-- An exact race node after its first race pass, whose chain has failed or not; firmware that does not run; a landing's fault that finds its context in a commit that waits,
and one that finds a slot waiting for earlier operations. -/
theorem test_hyp_nodes_further :
    (let n := tOp 5 6 2 0 []
     let s := fun bad => (tDemand n 1 false).modCore 192 fun co => { co with race := some ⟨768, 1, 1, false, 1, [], Plane.reset, Plane.reset, [], bad⟩ }
     n.rfast = false ∧ n.isRace = true ∧ ∀ bad ∈ [true, false], (match (s bad).runnable 768 true with | some (m, t, l, _) => m == n && t == 1 && !l | none => false) = true ∧
       ((s bad).core 192).race = some ⟨768, 1, 1, false, 1, [], Plane.reset, Plane.reset, [], bad⟩ ∧ 1 + 1 = n.racePasses) ∧
    ((State.reset.modPort 0 fun p => { p with status := 2 }).port 0).status ≠ 1 ∧ (State.reset.port 0).status = 1 ∧
    (let t : Trap := ⟨0x10, 0, 0, true⟩
     let h : BufOp := ⟨4, mkRp 0x10001000 3 0 0, 0, 4, .tile (.force 0 0 2 0) 0 0 [(3, 1)] 0 false 16⟩
     let s := tFetch fun c => { c with seg := some tSeg, held := [h], committing := true, landFault := some t, toks := [(3, ⟨.pending, false, 1⟩)], nodes := [{ tNode with kinBind := [(3, 1)] }], goals := [⟨1, 1⟩] }
     let c := s.ctx 768
     c.landFault = some t ∧ c.committing = true ∧ c.held = [h] ∧ c.commitAt ≤ s.cyc 768 ∧ s.commitReady 768 h = false ∧ c.pendTrap = none ∧ c.inHandler = false ∧ s.running 768 false = none ∧ s.running 768 true = none) ∧
    (let s := tAt 3 fun c => { c with landFault := some ⟨0x10, 0, 0, true⟩, wait := .earlier 4 }
     (s.ctx 768).run = some (tRun 3) ∧ (s.ctx 768).wait = .earlier 4 ∧ (s.ctx 768).committing = false) := by decide +kernel

/-- Two rings whose first records stand in one queue; a cut whose messages a retraining link holds. -/
theorem test_hyp_rings_and_cuts_further :
    (let e := fun n => (⟨2, 0x11f80040, n, 1, 1, n + 1, 0, none, false⟩ : Ready)
     let x := fun n => { Region.ofRoot n 0xffff with ring := [e n], ringTail := 1 }
     let s := { State.reset with regions := [(0, x 0), (1, x 1)] }
     (s.region 0).ring = [e 0] ∧ (s.region 1).ring = [e 1] ∧ s.effPrio (e 0) = s.effPrio (e 1) ∧ (e 0).order < (e 1).order ∧ (e 0).cluster = (e 1).cluster ∧
       s.queueFull 2 (s.effPrio (e 0)) = false) ∧
    (let clear := fun (s : State) a b => a == b || (routeLinks a b).all fun l => lookD s.retrains l 0 == 0 || s.linksDown.getLsbD l
     let sends := fun (s : State) => (List.range 16).all fun d => !s.populated.getLsbD d || clear s 0 d
     let r := { tCut 0x9999 [] id with retrains := [(0, 1)] }
     sends (tCut 0x9999 [] id) = true ∧ sends r = false ∧ clear r 1 0 = false ∧ clear r 4 0 = true) := by decide +kernel

/-- An alarm while a response stretches cycles or halves the issue; a cycle that settles barrier words; issue that the response or the grant withholds, and issue that they do
not. -/
theorem test_hyp_clocks_further :
    (∀ d ∈ [Droop.stretch 10, .half 10], let c := (tClock 0 (fun c => { c with cycle := 14, droop := d, alarms := [13] }) id).cluster 2
      c.alarms = [13] ∧ 13 + 1 = c.cycle ∧ c.droop = d ∧ c.cycle < 10 + 6 ∧ c.cycle < 10 + 64) ∧
    ((tClock 0 (fun c => { c with barPend := [(4, 768, 7)] }) id).cluster 2).barPend ≠ [] ∧ ((tClock 0 id id).ctx 768).wait = .none ∧
    (let free := tClock 0 (fun c => { c with cycle := 5 }) fun c => { c with run := none }
     let half := tClock 0 (fun c => { c with cycle := 5, droop := .half 4 }) fun c => { c with run := none }
     let limit := (tClock 0 (fun c => { c with cycle := 7 }) fun c => { c with run := none }).modDie 1 fun d => { d with limited := true }
     (∀ s ∈ [free, half, limit], let c := s.ctx 768
       s.engineReady 768 0 = false ∧ c.status = .running ∧ c.run = none ∧ c.committing = false ∧ c.ending = false ∧ c.stepDue = false) ∧
       ((half.cluster 2).droop = .half 4 ∧ ((half.cluster 2).cycle - 4) % 2 = 1) ∧ ((limit.die 1).limited = true ∧ limit.time < limit.grantAt + 2000 ∧ (limit.cluster 2).cycle % 4 = 3) ∧
       ((free.cluster 2).droop = .off ∧ (free.die 1).limited = false ∧ (free.ctx 768).atBoundary = false ∧ free.waitOver 768 = true ∧ (free.core 192).issuedAt ≠ some 5 ∧
         (free.ctx 768).exhausted 5 = false ∧ (free.ctx 768).issueAt ≤ 5)) ∧
    State.reset.hostHeld = [] := by decide +kernel

/-- A window write of port 1 that a retraining link of its way holds; a ring whose page another region's table maps. -/
theorem test_hyp_host_and_pages_further :
    (let s := fun r => { State.reset with hostHeld := [(0x100, [(1 : Byte)])], retrains := r }
     (s []).pathUp 15 12 = true ∧ (s []).retraining 15 12 = false ∧ (s []).retraining 12 15 = false ∧ (s []).hostHeld = [(0x100, [1])] ∧
       ((s [(9, 1)]).retraining 15 12 = true ∨ (s [(9, 1)]).retraining 12 15 = true) ∧ (s [(9, 1)]).pathUp 15 12 = true) ∧
    ((0 : BitVec 52).toNat + 4 ≤ 0x10 ∧ 0x18 ≤ (0x18 : BitVec 52).toNat ∧ (0x18 : BitVec 52).toNat + 8 ≤ 0x20) ∧
    (let s := tAging 0 2 true
     (s.region 0).live = true ∧ (s.region 0).rcb.inRing (BitVec.ofNat 64 (1 * 2 ^ 52 + 0)) 0x10000 = true ∧ ((s.region 0).rcb.dbt[1]?).isSome = true) := by decide +kernel

end Sys2Proof.Tests
end

section
/-!
PROOFS. The decoder of 03_bundles as rules: packed fields are read back, and a word decodes exactly when its candidate is legal and its own encoding (R54). On these stand the opcode
space of the C slot (R79) and the conversion codes of VCVT (R75).
-/
namespace Sys2Proof

/-! ### Packed fields -/

theorem pack_cons_mod (w v : Nat) (l : List (Nat × Nat)) : pack ((w, v) :: l) % 2 ^ w = v % 2 ^ w := by
  simp [pack]

theorem pack_cons_div (w v : Nat) (l : List (Nat × Nat)) : pack ((w, v) :: l) / 2 ^ w = pack l := by
  have hv : v % 2 ^ w < 2 ^ w := Nat.mod_lt _ (Nat.two_pow_pos w)
  rw [pack, Nat.add_mul_div_left _ _ (Nat.two_pow_pos w), Nat.div_eq_of_lt hv, Nat.zero_add]

/-- Each field is read back, cut to its width. -/
theorem unpack_pack (l : List (Nat × Nat)) : unpack (l.map fun x => x.1) (pack l) = l.map fun x => x.2 % 2 ^ x.1 := by
  induction l with
  | nil => rfl
  | cons a l ih =>
    obtain ⟨w, v⟩ := a
    simp only [List.map_cons, unpack, pack_cons_mod, pack_cons_div, ih]

/-! ### The decoder (R54) -/

@[simp] theorem decode_zero (k : SlotKind) : decode k 0 = .ok .nop := rfl

theorem ne_zero_of_opcodeOf_ne_zero {k : SlotKind} {n : Nat} (hop : opcodeOf k n ≠ 0) : n ≠ 0 := by
  rintro rfl
  cases k <;> exact hop rfl

theorem decode_eq_ok_iff_of_opcodeOf_ne_zero {k : SlotKind} {n : Nat} {i : Instr} (hop : opcodeOf k n ≠ 0) :
    decode k n = .ok i ↔ candidate k n = some i ∧ i.wf = true ∧ encode i = n := by
  rw [decode, if_neg (ne_zero_of_opcodeOf_ne_zero hop), if_neg hop]
  cases candidate k n with
  | none => simp
  | some j =>
    by_cases hwf : j.wf = true
    · by_cases henc : encode j = n
      · simp only [hwf, henc, Bool.true_eq_false, if_false, if_true, Except.ok.injEq, Option.some.injEq]
        exact ⟨fun h => h ▸ ⟨rfl, hwf, henc⟩, fun h => h.1⟩
      · simp only [hwf, henc, Bool.true_eq_false, if_false, reduceCtorEq, Option.some.injEq, false_iff]
        rintro ⟨rfl, -, h⟩
        exact henc h
    · simp only [hwf, if_true, reduceCtorEq, Option.some.injEq, false_iff]
      rintro ⟨rfl, h, -⟩
      exact hwf h

theorem decode_of_candidate_eq_none {k : SlotKind} {n : Nat} (hop : opcodeOf k n ≠ 0) (hc : candidate k n = none) :
    decode k n = .error .unassigned := by
  rw [decode, if_neg (ne_zero_of_opcodeOf_ne_zero hop), if_neg hop, hc]

/-- A word of opcode 0 is NOP or nothing. -/
theorem eq_nop_of_decode_of_opcodeOf_eq_zero {k : SlotKind} {n : Nat} {i : Instr} (hop : opcodeOf k n = 0) (h : decode k n = .ok i) :
    i = .nop := by
  by_cases hn : n = 0
  · subst hn; exact (Except.ok.inj h).symm
  · rw [decode, if_neg hn, if_pos hop] at h; cases h

/-! ### The C slot (R60, R79) -/

/-- The opcodes that R79 assigns, with the instruction each makes of the operands `c`. -/
def copyTable (c : CopyF) : List (Nat × Instr) :=
  [(1, .cpy c), (2, .cpyil c), (3, .cgath c), (4, .tmv c), (5, .ccoll c), (6, .cflush c), (7, .cpq c), (8, .cpre c)]

/-- Field `j` of a C-slot word, in the order of R60: guard, opcode, a, kout, kin0 to kin2, FLAGS. -/
def copyField (n j : Nat) : Nat := (unpack [7, 5, 6, 4, 4, 4, 4, 6] n).getD j 0

/-- The operands of a C-slot word (R60). -/
def copyOperands (n : Nat) : CopyF :=
  let f := copyField n
  ⟨g7 (f 0), r6 (f 2), ⟨BitVec.ofNat 4 (f 4), BitVec.ofNat 4 (f 5), BitVec.ofNat 4 (f 6), BitVec.ofNat 4 (f 3)⟩, BitVec.ofNat 6 (f 7)⟩

theorem candC_eq_some_iff (n : Nat) (i : Instr) : candC n = some i ↔ (opcodeOf .c n, i) ∈ copyTable (copyOperands n) := by
  simp only [candC, unpack, copyOperands, copyField, opcodeOf, List.getD_cons_zero, List.getD_cons_succ]
  generalize n / 2 ^ 7 % 2 ^ 5 = op
  split <;> simp_all [copyTable, eq_comm]

theorem unpack_encC (op : Nat) (c : CopyF) : unpack [7, 5, 6, 4, 4, 4, 4, 6] (encC op c) =
    [c.g.toNat, op % 2 ^ 5, c.a.toNat, c.toks.kout.toNat, c.toks.kin0.toNat, c.toks.kin1.toNat, c.toks.kin2.toNat, c.flags.toNat] := by
  have h := unpack_pack [(7, c.g.toNat), (5, op), (6, c.a.toNat), (4, c.toks.kout.toNat), (4, c.toks.kin0.toNat), (4, c.toks.kin1.toNat),
    (4, c.toks.kin2.toNat), (6, c.flags.toNat)]
  simpa only [encC, List.map_cons, List.map_nil, BitVec.toNat_mod_cancel] using h

@[simp] theorem copyOperands_encC (op : Nat) (c : CopyF) : copyOperands (encC op c) = c := by
  simp [copyOperands, copyField, unpack_encC, g7, r6]

@[simp] theorem opcodeOf_encC (op : Nat) (c : CopyF) : opcodeOf .c (encC op c) = op % 2 ^ 5 := by
  have h : copyField (encC op c) 1 = op % 2 ^ 5 := by rw [copyField, unpack_encC]; rfl
  exact h

/-- What R79 assigns is below 9, and its instruction has that opcode and those operands. -/
theorem copyTable_spec {c : CopyF} {x : Nat × Instr} (hx : x ∈ copyTable c) : 1 ≤ x.1 ∧ x.1 ≤ 8 ∧ encode x.2 = encC x.1 c := by
  simp only [copyTable, List.mem_cons, List.not_mem_nil, or_false] at hx
  rcases hx with rfl | rfl | rfl | rfl | rfl | rfl | rfl | rfl <;> exact ⟨by simp, by simp, rfl⟩

theorem opcodeOf_encode_of_mem_copyTable {c : CopyF} {x : Nat × Instr} (hx : x ∈ copyTable c) : opcodeOf .c (encode x.2) = x.1 := by
  obtain ⟨-, hle, henc⟩ := copyTable_spec hx
  rw [henc, opcodeOf_encC, Nat.mod_eq_of_lt (by omega)]

theorem decode_encode_of_mem_copyTable {c : CopyF} {x : Nat × Instr} (hx : x ∈ copyTable c) (hwf : x.2.wf = true) :
    decode .c (encode x.2) = .ok x.2 := by
  have hop := opcodeOf_encode_of_mem_copyTable hx
  obtain ⟨hpos, -, henc⟩ := copyTable_spec hx
  refine (decode_eq_ok_iff_of_opcodeOf_ne_zero (by omega)).2 ⟨?_, hwf, rfl⟩
  refine (candC_eq_some_iff _ _).2 ?_
  rwa [hop, henc, copyOperands_encC]

theorem mem_copyTable_of_decode {n : Nat} {i : Instr} (hop : opcodeOf .c n ≠ 0) (h : decode .c n = .ok i) :
    (opcodeOf .c n, i) ∈ copyTable (copyOperands n) :=
  (candC_eq_some_iff n i).1 ((decode_eq_ok_iff_of_opcodeOf_ne_zero hop).1 h).1

theorem decode_c_of_nine_le {n : Nat} (hop : 9 ≤ opcodeOf .c n) : decode .c n = .error .unassigned := by
  refine decode_of_candidate_eq_none (by omega) (Option.eq_none_iff_forall_ne_some.2 fun i hi => ?_)
  obtain ⟨-, hle, -⟩ := copyTable_spec ((candC_eq_some_iff n i).1 hi)
  exact absurd hle (by omega)

/-- Settles O3: a candidate of the C slot is an entry of R79's table for the word's operands, and the operands survive packing. -/
theorem copyOpcodesAreAssigned : Obligations.CopyOpcodesAreAssigned := by
  refine ⟨fun n _ => ⟨fun i hi => ?_, fun hop => decode_c_of_nine_le hop⟩, decode_zero _, fun c x hx hwf =>
    ⟨opcodeOf_encode_of_mem_copyTable (c := c) hx, decode_encode_of_mem_copyTable (c := c) hx hwf⟩⟩
  by_cases hop : opcodeOf .c n = 0
  · exact .inl ⟨hop, eq_nop_of_decode_of_opcodeOf_eq_zero hop hi⟩
  · have hmem := mem_copyTable_of_decode hop hi
    simp only [copyTable, List.mem_cons, List.not_mem_nil, or_false, Prod.mk.injEq] at hmem
    exact .inr ⟨copyOperands n, hmem⟩

/-! ### The codes of a vector word (R57, R75) -/

theorem CFmt.ofCode_eq_some_iff (n : Nat) (c : CFmt) : CFmt.ofCode n = some c ↔ c.code = n := by
  constructor
  · unfold CFmt.ofCode
    split <;> rintro ⟨⟩ <;> rfl
  · rintro rfl
    cases c <;> rfl

theorem CFmt.code_lt (c : CFmt) : c.code < 8 := by cases c <;> decide

theorem CFmt.code_injective : Function.Injective CFmt.code := fun c d h =>
  Option.some.inj (((CFmt.ofCode_eq_some_iff _ c).2 h).symm.trans ((CFmt.ofCode_eq_some_iff _ d).2 rfl))

/-- FP8 has the codes 6 and 7, so a legal source is one below 6 (R75). -/
theorem cvtOk_iff (src dst : CFmt) : cvtOk src dst = true ↔ src.code < 6 ∧ src ≠ dst := by
  cases src <;> simp [cvtOk, CFmt.code]

@[simp] theorem RMode.ofCode_code (m : RMode) : RMode.ofCode m.code = some m := by cases m <;> rfl

theorem RMode.code_lt (m : RMode) : m.code < 2 ^ 2 := by cases m <;> decide

@[simp] theorem Hold.ofCode_code (h : Hold) : Hold.ofCode h.code = some h := by cases h <;> rfl

theorem Hold.code_lt (h : Hold) : h.code < 2 ^ 2 := by cases h <;> decide

@[simp] theorem bit_beq_one (b : Bool) : (bit b == 1) = b := by cases b <;> rfl

theorem bit_lt (b : Bool) : bit b < 2 ^ 1 := by cases b <;> decide

/-- Field `j` of a vector word, in the order of R57: guard, variant, family, vd, va, vb, HA, HB, RM, SAT, LB. -/
def vecField (n j : Nat) : Nat := (unpack [7, 3, 6, 10, 10, 10, 2, 2, 2, 1, 1] n).getD j 0

/-- The operands of form U in a vector word (R57). -/
def unOperands (n : Nat) : Option VUn :=
  let f := vecField n
  vun (f 0) (f 3) (f 4) (f 6) (f 8) (f 9)

theorem opcodeOf_v_eq (n : Nat) : opcodeOf .v n = vecField n 1 + 8 * vecField n 2 := by
  simp only [opcodeOf, vecField, unpack, List.getD_cons_zero, List.getD_cons_succ]
  omega

theorem vecField_vb_mod (n : Nat) : vecField n 5 % 16 = n / 2 ^ 36 % 16 := by
  simp only [vecField, unpack, List.getD_cons_zero, List.getD_cons_succ]
  omega

theorem vecField_vb_div (n : Nat) : vecField n 5 / 16 % 16 = n / 2 ^ 40 % 16 := by
  simp only [vecField, unpack, List.getD_cons_zero, List.getD_cons_succ]
  omega

theorem unpack_encUn (var fam vb : Nat) (o : VUn) : unpack [7, 3, 6, 10, 10, 10, 2, 2, 2, 1, 1] (encUn var fam vb o) =
    [o.g.toNat, var % 2 ^ 3, fam % 2 ^ 6, o.vd.toNat, o.a.n.toNat, vb % 2 ^ 10, o.a.hold.code, 0, o.rm.code, bit o.sat, 0] := by
  have h := unpack_pack [(7, o.g.toNat), (3, var), (6, fam), (10, o.vd.toNat), (10, o.a.n.toNat), (10, vb), (2, o.a.hold.code), (2, 0),
    (2, o.rm.code), (1, bit o.sat), (1, 0)]
  simpa only [encUn, encV, List.map_cons, List.map_nil, BitVec.toNat_mod_cancel, Nat.zero_mod, Nat.mod_eq_of_lt (Hold.code_lt o.a.hold),
    Nat.mod_eq_of_lt (RMode.code_lt o.rm), Nat.mod_eq_of_lt (bit_lt o.sat)] using h

@[simp] theorem unOperands_encUn (var fam vb : Nat) (o : VUn) : unOperands (encUn var fam vb o) = some o := by
  simp [unOperands, vecField, unpack_encUn, vun, vsrc, g7]

theorem opcodeOf_encUn (var fam vb : Nat) (o : VUn) : opcodeOf .v (encUn var fam vb o) = var % 2 ^ 3 + 8 * (fam % 2 ^ 6) := by
  rw [opcodeOf_v_eq, vecField, vecField, unpack_encUn]; rfl

theorem vecField_vb_encUn (var fam vb : Nat) (o : VUn) : vecField (encUn var fam vb o) 5 = vb % 2 ^ 10 := by
  rw [vecField, unpack_encUn]; rfl

/-! ### VCVT (R75) -/

/-- Opcode 0x157 is variant 7 of family 42, where vb holds the two codes. -/
theorem candV_of_vcvt_opcode {n : Nat} (hop : opcodeOf .v n = 0x157) :
    candV n = (unOperands n).bind fun o =>
      (CFmt.ofCode (n / 2 ^ 36 % 16)).bind fun s => (CFmt.ofCode (n / 2 ^ 40 % 16)).map fun d => .vcvt s d o := by
  have hvar : n / 2 ^ 7 % 2 ^ 3 = 7 := by simp only [opcodeOf] at hop; omega
  have hfam : n / 2 ^ 7 / 2 ^ 3 % 2 ^ 6 = 42 := by simp only [opcodeOf] at hop; omega
  rw [← vecField_vb_mod, ← vecField_vb_div]
  simp only [candV, unOperands, vecField, unpack, hvar, hfam, List.getD_cons_zero, List.getD_cons_succ]
  cases vun _ _ _ _ _ _ <;> rfl

theorem candV_vcvt_eq_some_iff {n : Nat} (hop : opcodeOf .v n = 0x157) (i : Instr) : candV n = some i ↔
    ∃ src dst o, i = .vcvt src dst o ∧ unOperands n = some o ∧ src.code = n / 2 ^ 36 % 16 ∧ dst.code = n / 2 ^ 40 % 16 := by
  simp only [candV_of_vcvt_opcode hop, Option.bind_eq_some_iff, Option.map_eq_some_iff, CFmt.ofCode_eq_some_iff]
  constructor
  · rintro ⟨o, ho, src, hs, dst, hd, rfl⟩
    exact ⟨src, dst, o, rfl, ho, hs, hd⟩
  · rintro ⟨src, dst, o, rfl, ho, hs, hd⟩
    exact ⟨o, ho, src, hs, dst, hd, rfl⟩

/-- What a word with VCVT's opcode can decode to. -/
theorem exists_vcvt_of_decode_v {n : Nat} {i : Instr} (hop : opcodeOf .v n = 0x157) (h : decode .v n = .ok i) :
    ∃ src dst o, i = .vcvt src dst o ∧ src.code = n / 2 ^ 36 % 16 ∧ dst.code = n / 2 ^ 40 % 16 ∧ src.code < 6 ∧ src ≠ dst := by
  obtain ⟨hcand, hwf, -⟩ := (decode_eq_ok_iff_of_opcodeOf_ne_zero (by omega)).1 h
  obtain ⟨src, dst, o, rfl, -, hs, hd⟩ := (candV_vcvt_eq_some_iff hop i).1 hcand
  obtain ⟨-, hcvt⟩ := Bool.and_eq_true_iff.1 hwf
  obtain ⟨hlt, hne⟩ := (cvtOk_iff src dst).1 hcvt
  exact ⟨src, dst, o, rfl, hs, hd, hlt, hne⟩

theorem decode_v_eq_error_of_bad_codes {n : Nat} (hop : opcodeOf .v n = 0x157)
    (hbad : 8 ≤ n / 2 ^ 36 % 16 ∨ 8 ≤ n / 2 ^ 40 % 16 ∨ n / 2 ^ 36 % 16 = 6 ∨ n / 2 ^ 36 % 16 = 7 ∨ n / 2 ^ 36 % 16 = n / 2 ^ 40 % 16) :
    ∃ e, decode .v n = .error e := by
  cases h : decode .v n with
  | error e => exact ⟨e, rfl⟩
  | ok i =>
    obtain ⟨src, dst, o, -, hs, hd, hlt, hne⟩ := exists_vcvt_of_decode_v hop h
    have hdst := dst.code_lt
    have hcodes : src.code ≠ dst.code := CFmt.code_injective.ne hne
    omega

section
variable (src dst : CFmt) (o : VUn)

theorem encode_vcvt : encode (.vcvt src dst o) = encUn 7 42 (pack [(4, src.code), (4, dst.code)]) o := rfl

theorem opcodeOf_encode_vcvt : opcodeOf .v (encode (.vcvt src dst o)) = 0x157 := by
  simp [encode_vcvt, opcodeOf_encUn]

theorem vecField_vb_encode_vcvt : vecField (encode (.vcvt src dst o)) 5 = src.code + 16 * dst.code := by
  have hs := src.code_lt
  have hd := dst.code_lt
  rw [encode_vcvt, vecField_vb_encUn]
  simp only [pack]
  omega

theorem encode_vcvt_source_code : encode (.vcvt src dst o) / 2 ^ 36 % 16 = src.code := by
  have hs := src.code_lt
  rw [← vecField_vb_mod, vecField_vb_encode_vcvt]
  omega

theorem encode_vcvt_destination_code : encode (.vcvt src dst o) / 2 ^ 40 % 16 = dst.code := by
  have hs := src.code_lt
  have hd := dst.code_lt
  rw [← vecField_vb_div, vecField_vb_encode_vcvt]
  omega

theorem decode_encode_vcvt (hwf : Instr.wf (.vcvt src dst o) = true) : decode .v (encode (.vcvt src dst o)) = .ok (.vcvt src dst o) := by
  have hop := opcodeOf_encode_vcvt src dst o
  refine (decode_eq_ok_iff_of_opcodeOf_ne_zero (by omega)).2 ⟨?_, hwf, rfl⟩
  exact (candV_vcvt_eq_some_iff hop _).2 ⟨src, dst, o, rfl, unOperands_encUn _ _ _ _,
    (encode_vcvt_source_code src dst o).symm, (encode_vcvt_destination_code src dst o).symm⟩

end

/-- A slot whose word is refused raises ILL with the word as fault address (R54). -/
theorem Machine.State.slotMove_of_instr_error {s : Machine.State} {k : Nat} {r : Machine.Run} {e : DecodeError}
    (hr : (s.ctx k).run = some r) (he : r.xb.instr r.slot = .error e) :
    s.slotMove k = some (.to ({ s with cur := k }.raise k (Machine.precise Machine.cILL (r.xb.word r.slot)) r.slot)) := by
  simp only [Machine.State.slotMove, hr, he]

/-- Settles O4: the two codes are the low byte of vb on both sides of the encoding, and the legal conversions are those with a source code below 6 and two different formats. -/
theorem conversionFormatsAreCoded : Obligations.ConversionFormatsAreCoded := by
  unfold Obligations.ConversionFormatsAreCoded
  intro code
  have hcode : code = CFmt.code := by funext c; cases c <;> rfl
  clear_value code
  subst hcode
  refine ⟨fun n _ hop => ⟨fun i hi => ?_, decode_v_eq_error_of_bad_codes hop⟩, fun src dst o hsrc hne hg => ?_, fun s r e hr _ he =>
    ⟨_, s.slotMove_of_instr_error hr he, rfl⟩⟩
  · obtain ⟨src, dst, o, rfl, hs, hd, -⟩ := exists_vcvt_of_decode_v hop hi
    exact ⟨src, dst, o, rfl, hs, hd⟩
  · have hwf : Instr.wf (.vcvt src dst o) = true := Bool.and_eq_true_iff.2 ⟨hg, (cvtOk_iff src dst).2 ⟨hsrc, hne⟩⟩
    exact ⟨decode_encode_vcvt src dst o hwf, opcodeOf_encode_vcvt src dst o, encode_vcvt_source_code src dst o,
      encode_vcvt_destination_code src dst o⟩

end Sys2Proof
end

section
/-!
PROOFS. Scalar register 0 of 05_registers (R97): what a read of it gives, and that every operation that writes a scalar leaves the state as it is when it names s0.
-/
namespace Sys2Proof.Machine

/-! ### Reads of s0 -/

@[simp] theorem State.readS_zero (s : State) (k : Nat) : s.readS k 0#6 = 0 := if_pos rfl

@[simp] theorem State.regNow_sreg_zero (s : State) (k : Nat) : s.regNow k (.sreg 0) = 0 := rfl

/-! ### Writes of s0 -/

@[simp] theorem State.setReg_sreg_zero (s : State) (k : Nat) (v : Vec) : s.setReg k (.sreg 0) v = s := rfl

@[simp] theorem State.postS_zero (s : State) (k : Nat) (v : Word) (lat : Nat) : s.postS k 0#6 v lat = s := if_pos rfl

@[simp] theorem State.lateS_zero (s : State) (k : Nat) (v : Word) (lat : Nat) : s.lateS k 0#6 v lat = s := if_pos rfl

@[simp] theorem sDest_zero : sDest 0#10 = .none := if_pos rfl

@[simp] theorem wS_zero (v : Word) : wS 0#6 v = [] := if_pos rfl

/-- An instruction that computes a scalar result for s0 commits in every S slot without a write, whatever its guard. -/
theorem Computes.commits_of_zero {i : Instr} {g : Guard} {v : State → Word} (h : Computes i g 0 v) {s : State} {r : Run} (hs : s.atS r) :
    Commits i s [] Ctx.backEdge := by
  simpa using h s r hs

/-! ### ADD (R157) -/

theorem exec_add (g : Guard) (d a b : BitVec 6) (s : State) :
    exec (.add g d a b) s = scalarRes g d (fun k => s.readS k a + s.readS k b) s := rfl

theorem add_computes (g : Guard) (d a b : BitVec 6) : Computes (.add g d a b) g d fun s => s.xS a + s.xS b :=
  computes_of (fun s k => s.readS k a + s.readS k b) (exec_add g d a b) fun _ => rfl

end Sys2Proof.Machine

namespace Sys2Proof
open Machine

/-- Settles O7: each accessor answers s0 apart, and ADD's one result is a write of s0, which amounts to none. -/
theorem hardwiredScalar : Obligations.HardwiredScalar := by
  unfold Obligations.HardwiredScalar
  intro s k lat v x
  exact ⟨s.readS_zero k, s.regNow_sreg_zero k, s.setReg_sreg_zero k x, s.postS_zero k v lat, s.lateS_zero k v lat, sDest_zero,
    fun _ hs g b => (add_computes g 0 b b).commits_of_zero hs⟩

end Sys2Proof
end
